-- ==== Sys2Proof/Word.lean ====
section
/-! DEFINITION. The word types of the part and sparse maps. Everything the part stores or transfers is little-endian (spec/00_scope.md R5). -/

namespace Sys2Proof

/-- One byte (R5). -/
abbrev Byte := BitVec 8

/-- A 32-bit register or word. -/
abbrev W32 := BitVec 32

/-- A 64-bit register or word. -/
abbrev W64 := BitVec 64

/-- A sparse map from Nat keys, in one canonical form: keys strictly rising, and no entry equal to the default value its reader names. -/
abbrev Cells (α : Type) := List (Nat × α)

end Sys2Proof
end

