-- ==== Sys2Proof/Syntax.lean ====
section
/-! DEFINITION. The syntax: the fields of every instruction form, one constructor per row of the opcode table (spec/06_fetch_and_encoding.md R126 to R140, spec/20_near_memory_tier.md R386, spec/95_what_each_step_holds.md for the part's own steps). -/

namespace Sys2Proof

/-- File code of a register specifier (R128): v, s, k, or special-or-tile. -/
inductive RFile | v | s | k | x
  deriving DecidableEq, Repr

/-- A register specifier (R128). The all-zero specifier, v0, is also how an unused field is written. -/
structure Spec where
  file : RFile
  idx : BitVec 6
  deriving DecidableEq, Repr

/-- The guard field GRD (R127). -/
structure Guard where
  neg : Bool
  idx : BitVec 3
  deriving DecidableEq, Repr

/-- Scopes in the code of R46. -/
inductive Scope | wp | tm | cl | dv | sy | rc
  deriving DecidableEq, Repr

/-- Orders (R131). -/
inductive Order | rlx | acq | rel | ar | sc
  deriving DecidableEq, Repr

/-- Integer types in the code of TY (R132). -/
inductive IType | i32 | n32 | i64 | n64 | i16 | n16 | i8 | n8
  deriving DecidableEq, Repr

/-- SHFL sub-ops (R227). -/
inductive ShflOp | idx | up | down | xor
  deriving DecidableEq, Repr

/-- VOTE sub-ops (R228). -/
inductive VoteOp | all | any | ballot | eq
  deriving DecidableEq, Repr

/-- REDW and SCANW sub-ops (R229). -/
inductive ReduceOp | add | min | max | amax
  deriving DecidableEq, Repr

/-- ATOM sub-ops (R323). -/
inductive AtomOp | add | min | max | and | or | xor | exch | incw | decw
  deriving DecidableEq, Repr

/-- RED sub-ops (R325). -/
inductive RedOp | add | min | max | and | or | xor
  deriving DecidableEq, Repr

/-- FRED sub-ops (R326). -/
inductive FredOp | add | min | max
  deriving DecidableEq, Repr

/-- Units of the matrix engine (R282). -/
inductive MxUnit | array | conversion | tile
  deriving DecidableEq, Repr

/-- Class A fields (R132). SCO, OPX[19:16] and FSP[7:0] are zero; x20 is OPX[20]. -/
structure AForm where
  look : BitVec 4
  grd : Guard
  cls : BitVec 6
  dst : Spec
  a : Spec
  b : Spec
  c : Spec
  imm : BitVec 8
  mu : Bool
  mo : Bool
  bi : Bool
  x20 : Bool
  ty : IType
  fn : BitVec 4
  deriving DecidableEq, Repr

/-- Class B fields (R132, R180). -/
structure BForm where
  look : BitVec 4
  grd : Guard
  dst : Spec
  a : Spec
  b : Spec
  tdisp : BitVec 8
  mo : Bool
  tr : Bool
  mr : Bool
  ej : Bool
  tslot : BitVec 3
  mdisp : BitVec 8
  mslot : BitVec 3
  deriving DecidableEq, Repr

/-- Class M fields (R132, R257, R258, R322). -/
structure MForm where
  look : BitVec 4
  grd : Guard
  cls : BitVec 6
  dst : Spec
  a : Spec
  b : Spec
  c : Spec
  imm : BitVec 8
  scope : Scope
  order : Order
  mu : Bool
  mo : Bool
  bi : Bool
  iw : Bool
  nv : BitVec 2
  df : BitVec 8
  rs : BitVec 3
  retain : BitVec 2
  deriving DecidableEq, Repr

/-- Class K fields (R132, R270). -/
structure KForm where
  grd : Guard
  a : Spec
  b : Spec
  c : Spec
  imm : BitVec 8
  mo : Bool
  opx : BitVec 5
  rsd : BitVec 3
  rss : BitVec 3
  tli : BitVec 3
  deriving DecidableEq, Repr

/-- Class X fields (R132, R288). -/
structure XForm where
  look : BitVec 4
  grd : Guard
  cls : BitVec 6
  dst : Spec
  a : Spec
  b : Spec
  c : Spec
  imm : BitVec 8
  mo : Bool
  x20 : Bool
  ta : BitVec 4
  tb : BitVec 4
  deriving DecidableEq, Repr

/-- Class S fields (R132, R329, R352, R426). -/
structure SForm where
  look : BitVec 4
  grd : Guard
  dst : Spec
  a : Spec
  b : Spec
  c : Spec
  imm : BitVec 8
  scope : Scope
  order : Order
  mo : Bool
  bi : Bool
  opd : BitVec 16
  deriving DecidableEq, Repr

/-- Conservator fields (R386). -/
structure NForm where
  d : BitVec 4
  a : BitVec 4
  b : BitVec 4
  c : BitVec 4
  inc : Bool
  ar : Bool
  sub : BitVec 4
  imm : W32
  deriving DecidableEq, Repr

/-- What a Dammal or Rhawin flit carries (R402): its kind, channel, and the payload as bytes. -/
structure Flit where
  kind : BitVec 8
  vc : BitVec 8
  payload : List Byte
  deriving DecidableEq, Repr

/-- Where a machine check is met: the die, and the team where it is known (R376). -/
structure CheckSite where
  die : Nat
  team : Option Nat
  deriving DecidableEq, Repr

/-- Every instruction and every step of the part, one constructor per row of spec/opcode_table.json; steps that come only from outside stand last. -/
inductive Instr
  /-- NOP (R186). -/
  | nop (f : AForm)
  /-- BRA (R181). -/
  | bra (f : BForm)
  /-- BRC (R182). -/
  | brc (f : BForm)
  /-- BRX (R181). -/
  | brx (f : BForm)
  /-- CALL (R181). -/
  | call (f : BForm)
  /-- CALLX (R181). -/
  | callx (f : BForm)
  /-- RET (R181). -/
  | ret (f : BForm)
  /-- EXIT (R185). -/
  | exit (f : AForm)
  /-- MEET (R183). -/
  | meet (f : BForm)
  /-- JOIN (R184). -/
  | join (f : AForm)
  /-- YIELD (R187). -/
  | yield (f : AForm)
  /-- EJCFG (R188). -/
  | ejcfg (f : AForm)
  /-- PARTN (R189). -/
  | partn (f : AForm)
  /-- IDEM_ON (R190). -/
  | idemOn (f : AForm)
  /-- IDEM_OFF (R190). -/
  | idemOff (f : AForm)
  /-- IADD (R195). -/
  | iadd (f : AForm)
  /-- ISUB (R195). -/
  | isub (f : AForm)
  /-- IADC (R196). -/
  | iadc (f : AForm)
  /-- IADC_SB (R196). -/
  | iadcSb (f : AForm)
  /-- IMUL (R195). -/
  | imul (f : AForm)
  /-- IMULH (R195). -/
  | imulh (f : AForm)
  /-- IMAD (R195). -/
  | imad (f : AForm)
  /-- IDIV (R197). -/
  | idiv (f : AForm)
  /-- IREM (R197). -/
  | irem (f : AForm)
  /-- IMIN (R195). -/
  | imin (f : AForm)
  /-- IMAX (R195). -/
  | imax (f : AForm)
  /-- IABS (R195). -/
  | iabs (f : AForm)
  /-- INEG (R195). -/
  | ineg (f : AForm)
  /-- AND (R195). -/
  | iand (f : AForm)
  /-- OR (R195). -/
  | ior (f : AForm)
  /-- XOR (R195). -/
  | ixor (f : AForm)
  /-- NOT (R195). -/
  | inot (f : AForm)
  /-- SHL (R195). -/
  | shl (f : AForm)
  /-- SHR (R195). -/
  | shr (f : AForm)
  /-- SAR (R195). -/
  | sar (f : AForm)
  /-- ROTL (R195). -/
  | rotl (f : AForm)
  /-- BFX (R198). -/
  | bfx (f : AForm)
  /-- BFI (R198). -/
  | bfi (f : AForm)
  /-- POPC (R195). -/
  | popc (f : AForm)
  /-- CLZ (R195). -/
  | clz (f : AForm)
  /-- BREV (R195). -/
  | brev (f : AForm)
  /-- ICMP (R199). -/
  | icmp (f : AForm)
  /-- SEL (R199). -/
  | sel (f : AForm)
  /-- LEA (R199). -/
  | lea (f : AForm)
  /-- MOV (R199). -/
  | mov (f : AForm)
  /-- MOVI (R199). -/
  | movi (f : AForm)
  /-- MOVK (R199). -/
  | movk (lane : BitVec 3) (f : AForm)
  /-- GETS (R201). -/
  | gets (f : AForm)
  /-- SETS (R202). -/
  | sets (f : AForm)
  /-- PLOG (R199). -/
  | plog (f : AForm)
  /-- PMOV_PK (R199). -/
  | pmovPk (f : AForm)
  /-- PMOV_UP (R199). -/
  | pmovUp (f : AForm)
  /-- UNI (R199). -/
  | uni (f : AForm)
  /-- UNI_EQ (R199). -/
  | uniEq (f : AForm)
  /-- FADD (R210). -/
  | fadd (f : AForm)
  /-- FSUB (R210). -/
  | fsub (f : AForm)
  /-- FMUL (R210). -/
  | fmul (f : AForm)
  /-- FMA (R210). -/
  | fma (f : AForm)
  /-- FMIN (R211). -/
  | fmin (f : AForm)
  /-- FMAX (R211). -/
  | fmax (f : AForm)
  /-- FCMP (R212). -/
  | fcmp (f : AForm)
  /-- FSEL (R212). -/
  | fsel (f : AForm)
  /-- FCLS (R213). -/
  | fcls (f : AForm)
  /-- FSCL (R210). -/
  | fscl (f : AForm)
  /-- FRND (R214). -/
  | frnd (f : AForm)
  /-- FRCP (R215). -/
  | frcp (f : AForm)
  /-- FRSQ (R215). -/
  | frsq (f : AForm)
  /-- FSQT (R210). -/
  | fsqt (f : AForm)
  /-- FDIV (R210). -/
  | fdiv (f : AForm)
  /-- FEXP (R215). -/
  | fexp (f : AForm)
  /-- FLOG (R215). -/
  | flog (f : AForm)
  /-- FSIN (R215). -/
  | fsin (f : AForm)
  /-- FCOS (R215). -/
  | fcos (f : AForm)
  /-- FTNH (R215). -/
  | ftnh (f : AForm)
  /-- CVIF (R218). -/
  | cvif (f : AForm)
  /-- CVFI (R219). -/
  | cvfi (f : AForm)
  /-- CVCC_CC (R220). -/
  | cvccCc (f : AForm)
  /-- CVCC_IN (R220). -/
  | cvccIn (f : AForm)
  /-- CVCC_OUT (R220). -/
  | cvccOut (f : AForm)
  /-- CADD (R221). -/
  | cadd (f : AForm)
  /-- CFOLD (R222). -/
  | cfold (f : AForm)
  /-- FDOT4 (R223). -/
  | fdot4 (f : AForm)
  /-- AMAX (R211). -/
  | amax (f : AForm)
  /-- HRAND_N (R224). -/
  | hrandN (f : AForm)
  /-- HRAND_P (R224). -/
  | hrandP (f : AForm)
  /-- HRAND_U (R224). -/
  | hrandU (f : AForm)
  /-- LUTB (R225). -/
  | lutb (f : AForm)
  /-- LUTM (R226). -/
  | lutm (f : AForm)
  /-- SHFL (R227). -/
  | shfl (op : ShflOp) (f : AForm)
  /-- VOTE (R228). -/
  | vote (op : VoteOp) (f : AForm)
  /-- REDW (R229). -/
  | redw (op : ReduceOp) (f : AForm)
  /-- SCANW (R229). -/
  | scanw (op : ReduceOp) (f : AForm)
  /-- LD (R262). -/
  | ld (f : MForm)
  /-- ST (R262). -/
  | st (f : MForm)
  /-- LDS (R264). -/
  | lds (f : MForm)
  /-- STS (R264). -/
  | sts (f : MForm)
  /-- LDG (R265). -/
  | ldg (f : MForm)
  /-- GWIN (R266). -/
  | gwin (f : MForm)
  /-- PRF_FILL (R267). -/
  | prfFill (f : MForm)
  /-- PRF_XLAT (R267). -/
  | prfXlat (f : MForm)
  /-- CCTL_EVICT (R268). -/
  | cctlEvict (f : MForm)
  /-- CCTL_ZERO (R268). -/
  | cctlZero (f : MForm)
  /-- CPY (R273). -/
  | cpy (f : KForm)
  /-- CPYM (R276). -/
  | cpym (f : KForm)
  /-- CPYG_FROM (R273). -/
  | cpygFrom (f : KForm)
  /-- CPYG_TO (R273). -/
  | cpygTo (f : KForm)
  /-- CPYG_LOAD (R273). -/
  | cpygLoad (f : KForm)
  /-- CPYX_PUT (R273). -/
  | cpyxPut (f : KForm)
  /-- CPYX_GET (R273). -/
  | cpyxGet (f : KForm)
  /-- TLW (R277). -/
  | tlw (f : SForm)
  /-- TLQ_DONE (R278). -/
  | tlqDone (f : SForm)
  /-- TLQ_ISS (R278). -/
  | tlqIss (f : SForm)
  /-- TLMK (R279). -/
  | tlmk (f : SForm)
  /-- MALC_WAIT (R291). -/
  | malcWait (f : XForm)
  /-- MALC_TRY (R291). -/
  | malcTry (f : XForm)
  /-- MFRE (R291). -/
  | mfre (f : XForm)
  /-- MZRO (R296). -/
  | mzro (f : XForm)
  /-- MEAS (R292). -/
  | meas (f : XForm)
  /-- MCVT (R293). -/
  | mcvt (f : XForm)
  /-- MLDB (R294). -/
  | mldb (f : XForm)
  /-- MMA (R295). -/
  | mma (f : XForm)
  /-- MMAT (R295). -/
  | mmat (f : XForm)
  /-- MDRN (R297). -/
  | mdrn (f : XForm)
  /-- MSTA (R300). -/
  | msta (word : BitVec 2) (f : XForm)
  /-- MBAT_OPEN (R298). -/
  | mbatOpen (f : XForm)
  /-- MBAT_CLOSE (R298). -/
  | mbatClose (f : XForm)
  /-- MSVH_COPY (R302). -/
  | msvhCopy (f : XForm)
  /-- MSVH_EV (R302). -/
  | msvhEv (f : XForm)
  /-- MRSH (R302). -/
  | mrsh (f : XForm)
  /-- FENCE (R328). -/
  | fence (f : SForm)
  /-- ATOM (R323). -/
  | atom (op : AtomOp) (f : MForm)
  /-- ACAS (R324). -/
  | acas (f : MForm)
  /-- RED (R325). -/
  | red (op : RedOp) (f : MForm)
  /-- FRED (R326). -/
  | fred (op : FredOp) (f : MForm)
  /-- RVINI (R331). -/
  | rvini (bytes : Bool) (f : SForm)
  /-- ARV (R332). -/
  | arv (f : SForm)
  /-- ARVB (R332). -/
  | arvb (f : SForm)
  /-- RVWT (R333). -/
  | rvwt (f : SForm)
  /-- RVTS_T (R333). -/
  | rvtsT (f : SForm)
  /-- RVTS_PH (R333). -/
  | rvtsPh (f : SForm)
  /-- QINI_INIT (R335). -/
  | qiniInit (f : SForm)
  /-- QINI_GRANT (R335). -/
  | qiniGrant (f : SForm)
  /-- QPSH (R336). -/
  | qpsh (f : SForm)
  /-- QPOP (R336). -/
  | qpop (f : SForm)
  /-- QTRY_PSH (R336). -/
  | qtryPsh (f : SForm)
  /-- QTRY_POP (R336). -/
  | qtryPop (f : SForm)
  /-- SYNCM (R337). -/
  | syncm (f : SForm)
  /-- GSYNC_WAIT (R338). -/
  | gsyncWait (f : SForm)
  /-- GSYNC_NB (R338). -/
  | gsyncNb (f : SForm)
  /-- TLSIG (R339). -/
  | tlsig (f : SForm)
  /-- LAUNCH (R340). -/
  | launch (f : SForm)
  /-- TRAP (R353). -/
  | trap (f : SForm)
  /-- ERET (R354). -/
  | eret (f : SForm)
  /-- CSRR (R355). -/
  | csrr (f : SForm)
  /-- CSRW (R355). -/
  | csrw (f : SForm)
  /-- KILLW (R356). -/
  | killw (f : SForm)
  /-- PAUSE (R357). -/
  | pause (f : SForm)
  /-- MIRX_OFF (R358). -/
  | mirxOff (f : SForm)
  /-- MIRX_ON (R358). -/
  | mirxOn (f : SForm)
  /-- MIRX_TEST (R358). -/
  | mirxTest (f : SForm)
  /-- WAITEV (R359). -/
  | waitev (f : SForm)
  /-- RPOPN (R427). -/
  | rpopn (f : SForm)
  /-- RPSEAL (R428). -/
  | rpseal (f : SForm)
  /-- RPQRY_ST (R429). -/
  | rpqrySt (f : SForm)
  /-- RPQRY_WT (R429). -/
  | rpqryWt (f : SForm)
  /-- PFX_CL (R137). -/
  | pfxCl (ca cb cc : BitVec 6)
  /-- PFX_RG (R138). -/
  | pfxRg (a : Spec)
  /-- NLD (R388). -/
  | nld (f : NForm)
  /-- NST (R388). -/
  | nst (f : NForm)
  /-- NADD (R389). -/
  | nadd (f : NForm)
  /-- NADD_ADDR (R389). -/
  | naddAddr (f : NForm)
  /-- NMUL (R389). -/
  | nmul (f : NForm)
  /-- NFMA (R389). -/
  | nfma (f : NForm)
  /-- NDIV (R389). -/
  | ndiv (f : NForm)
  /-- NSQT (R389). -/
  | nsqt (f : NForm)
  /-- NRSQ (R389). -/
  | nrsq (f : NForm)
  /-- NMAX (R389). -/
  | nmax (f : NForm)
  /-- NMIN (R389). -/
  | nmin (f : NForm)
  /-- NSCL (R389). -/
  | nscl (f : NForm)
  /-- NCVT (R389). -/
  | ncvt (f : NForm)
  /-- NLOOP (R391). -/
  | nloop (f : NForm)
  /-- NBRZ (R391). -/
  | nbrz (f : NForm)
  /-- NSIG (R392). -/
  | nsig (f : NForm)
  /-- NWAIT (R392). -/
  | nwait (f : NForm)
  /-- NDONE (R391). -/
  | ndone (f : NForm)
  /-- TASK_FETCH (R96). -/
  | taskFetch (vdev : Nat) (list : Nat)
  /-- HW_DISPATCH (R108). -/
  | hwDispatch (die : Nat) (vdev : Nat)
  /-- GANG_PLACE (R110). -/
  | gangPlace (task : Nat)
  /-- GANG_RETIRE (R416). -/
  | gangRetire (task : Nat) (gang : Nat)
  /-- LAUNCH_RETIRE (R417). -/
  | launchRetire (task : Nat)
  /-- TASK_COMPLETE (R103). -/
  | taskComplete (task : Nat)
  /-- EVENT_POST (R107). -/
  | eventPost (die : Nat) (queue : Nat)
  /-- SWITCH_TICK (R115). -/
  | switchTick
  /-- PARTITION_CHOOSE (R115). -/
  | partitionChoose (part : Nat)
  /-- SWITCH_COMMIT (R366). -/
  | switchCommit (part : Nat)
  /-- SWITCH_DEADLINE_MISS (R367). -/
  | switchDeadlineMiss (part : Nat) (dies : List Nat)
  /-- DRAIN_TIMEOUT (R364). -/
  | drainTimeout (team : Nat)
  /-- TINVC_DONE (R242). -/
  | tinvcDone (die : Nat)
  /-- HSMAP_APPLY (R240). -/
  | hsmapApply (die : Nat) (chunk : Nat)
  /-- GALLERY_OPEN (R249). -/
  | galleryOpen (die : Nat)
  /-- GALLERY_CLOSE (R249). -/
  | galleryClose (die : Nat)
  /-- TRANSLATION_FAULT (R253). -/
  | translationFault (die : Nat)
  /-- SPILL_EVICT (R155). -/
  | spillEvict (team : Nat) (warp : Nat)
  /-- MEET_RELEASE (R158). -/
  | meetRelease (team : Nat) (warp : Nat) (addr : W64)
  /-- RILL_RECALL (R163). -/
  | rillRecall (ctx : Nat)
  /-- RILL_ARRIVE (R166). -/
  | rillArrive (ctx : Nat)
  /-- REJOIN_TIMEOUT (R167). -/
  | rejoinTimeout (team : Nat) (warp : Nat) (addr : W64)
  /-- TRAP_DISPATCH (R348). -/
  | trapDispatch (team : Nat) (warp : Nat) (entry : Nat)
  /-- LINE_REFETCH (R351). -/
  | lineRefetch (team : Nat) (warp : Nat) (entry : Nat)
  /-- COPY_CHUNK_DONE (R275). -/
  | copyChunkDone (team : Nat) (num : Nat) (ctx : Nat)
  /-- MATRIX_GRANT (R287). -/
  | matrixGrant (cluster : Nat) (unit : MxUnit)
  /-- MATRIX_OP_COMPLETE (R286). -/
  | matrixOpComplete (cluster : Nat) (unit : MxUnit)
  /-- BATCH_COMPLETE (R298). -/
  | batchComplete (team : Nat) (tile : Nat)
  /-- NSIG_COMPLETE (R392). -/
  | nsigComplete (cons : Nat)
  /-- UPDATE_START (R385). -/
  | updateStart (cons : Nat)
  /-- UNDO_LOG_WRITE (R395). -/
  | undoLogWrite (cons : Nat)
  /-- UPDATE_ROLLBACK (R397). -/
  | updateRollback (task : Nat)
  /-- STEP_ABORT (R398). -/
  | stepAbort
  /-- JOURNAL_WRITE (R423). -/
  | journalWrite (sector : Nat)
  /-- SEAL (R430). -/
  | sealPoint (vdev : Nat)
  /-- RECOVER (R434). -/
  | recover (vdev : Nat)
  /-- FORMAT (R425). -/
  | format (vdev : Nat)
  /-- QUIESCE (R436). -/
  | quiesce (vdev : Nat)
  /-- RESUME (R436). -/
  | resumeFrozen (vdev : Nat)
  /-- RESTORE (R439). -/
  | restoreImage (vdev : Nat)
  /-- FLIT_RECEIVE (R403). -/
  | flitReceive (link : Nat) (good : Bool)
  /-- REPLAY_TIMEOUT (R403). -/
  | replayTimeout (link : Nat)
  /-- EDGE_RETRAIN (R404). -/
  | edgeRetrain (edge : Nat)
  /-- YIELD_EXPIRE (R187). -/
  | yieldExpire (team : Nat) (warp : Nat) (entry : Nat)
  /-- PAUSE_EXPIRE (R357). -/
  | pauseExpire (team : Nat) (warp : Nat) (entry : Nat)
  /-- GUEST_REQUEST_SAVE_DONE (R363). -/
  | guestRequestSaveDone (task : Nat)
  /-- QUIESCE_IMAGE_WRITTEN (R436). -/
  | quiesceImageWritten (vdev : Nat)
  /-- ACCESS_PERFORMED_AT_HOME (R309). -/
  | accessPerformedAtHome (index : Nat)
  /-- LAUNCH_ROLLBACK (R373). -/
  | launchRollback (task : Nat)
  /-- CXL_COMPLETION (R411). -/
  | cxlCompletion (id : Nat)
  /-- POWER_EVAL (R451). -/
  | powerEval (power : Nat) (temp : Nat)
  /-- CSR_WRITE (R6). -/
  | csrWrite (die : Nat) (tdie : Nat) (off : W64) (val : W64)
  /-- LTAIL_WRITE (R95). -/
  | ltailWrite (vdev : Nat) (list : Nat) (val : W64)
  /-- TGDEC_WRITE (R93). -/
  | tgdecWrite (die : Nat) (val : W64)
  /-- DISPATCH_WRITE (R108). -/
  | dispatchWrite (die : Nat) (val : W64)
  /-- GSTART_WRITE (R114). -/
  | gstartWrite (die : Nat) (val : W64)
  /-- GEXIT_WRITE (R114). -/
  | gexitWrite (die : Nat) (val : W64)
  /-- VDCFG_WRITE (R113). -/
  | vdcfgWrite (die : Nat) (vdev : Nat) (val : W64)
  /-- PREQ_WRITE (R363). -/
  | preqWrite (die : Nat) (val : W64)
  /-- TEVPOST_WRITE (R375). -/
  | tevpostWrite (die : Nat) (val : W64)
  /-- TINVC_GO (R242). -/
  | tinvcGo (die : Nat) (val : W64)
  /-- HSMAP_WRITE (R240). -/
  | hsmapWrite (die : Nat) (reg : Nat) (val : W64)
  /-- CISTERN_WRITE (R243). -/
  | cisternWrite (die : Nat) (val : W64)
  /-- GALCTL_WOPEN_WRITE (R249). -/
  | galctlWopenWrite (die : Nat) (val : W64)
  /-- GALLERY_REFRESH (R250). -/
  | galleryRefresh (die : Nat) (group : Nat)
  /-- PAGE_WALK (R237). -/
  | pageWalk (vdev : Nat) (region : BitVec 16) (off : W64) (write : Bool)
  /-- FRESUME_REPLAY (R253). -/
  | fresumeReplay (die : Nat) (slot : Nat)
  /-- FRESUME_TRAP (R253). -/
  | fresumeTrap (die : Nat) (slot : Nat)
  /-- FRESUME_ROLLBACK (R253). -/
  | fresumeRollback (die : Nat) (slot : Nat)
  /-- MACHINE_CHECK (R372). -/
  | machineCheck (task kind : Nat) (site : CheckSite)
  /-- SNAPSHOT (R374). -/
  | snapshot (task : Nat) (page : Nat)
  /-- DIE_RESET (R432). -/
  | dieReset (die : Nat)
  /-- FLIT_SEND (R403). -/
  | flitSend (link : Nat) (flit : Flit)
  /-- RETRAIN_COMPLETE (R404). -/
  | retrainComplete (edge : Nat) (good : BitVec 4)
  /-- HDM_DECODER_WRITE (R410). -/
  | hdmDecoderWrite (dec : Nat) (base : W64) (size : W64)
  /-- CXL_MEM_WRITE (R410). -/
  | cxlMemWrite (pa : Nat) (data : List Byte)
  /-- CXL_MEM_READ (R410). -/
  | cxlMemRead (pa : Nat) (len : Nat)
  /-- CXL_LINK_ERROR (R411). -/
  | cxlLinkError (ids : List Nat)
  /-- RHAWIN_RETRAIN (R412). -/
  | rhawinRetrain (port : Nat) (good : BitVec 2)
  /-- RHAWIN_INBOUND (R413). -/
  | rhawinInbound (port : Nat) (peer : Nat) (num : Nat) (pa : Nat) (data : List Byte)
  /-- BIND (R87). -/
  | bind (die : Nat) (vdev : Nat) (obj : W64) (rec : W64) (report : W64) (attest : Bool)
  /-- POWER_ON (R445). -/
  | powerOn
  /-- PACKAGE_POWER_LOSS (R20). -/
  | packagePowerLoss
  /-- HOST_SNOOP (R411). -/
  | hostSnoop (line : Nat)
  deriving DecidableEq, Repr

end Sys2Proof
end

