-- ==== Sys2Proof/WellFormed.lean ====
section
/-! DEFINITION. Operand legality: what an encoding must satisfy beyond its layout, or it raises ILLOP (spec/06 R127 to R134, R140; spec/08 R179, R180, R193, R194, R199, R203; spec/09 R206, R230; spec/11 R258, R259, R281; spec/12 R288, R289, R305; spec/15 R322, R328, R329, R342; spec/18 R352; spec/20 R387; spec/22 R426). A step of the part is well formed when its unit numbers exist (spec/01 R10). -/

namespace Sys2Proof

/-- The specifier of an unused operand field (R128). -/
abbrev Spec.zero : Spec := ⟨.v, 0⟩

/-- Width in bits of an integer type (R132, R192). -/
def IType.width : IType → Nat
  | .i32 | .n32 => 32
  | .i64 | .n64 => 64
  | .i16 | .n16 => 16
  | .i8 | .n8 => 8

/-- The signed types (R192). -/
def IType.signed : IType → Bool
  | .i32 | .i64 | .i16 | .i8 => true
  | _ => false

/-- A 64-bit operand is wanted. -/
def IType.wide (t : IType) : Bool := t.width == 64

/-- A v register, or a d register with an even index (R128). -/
def Spec.isV (s : Spec) (wide : Bool) : Bool := s.file == .v && (!wide || s.idx.toNat % 2 == 0)
/-- An s register (R128). -/
def Spec.isS (s : Spec) : Bool := s.file == .s && s.idx.toNat < 32
/-- A k register (R128). -/
def Spec.isK (s : Spec) : Bool := s.file == .k
/-- An s or k register. -/
def Spec.isSK (s : Spec) : Bool := s.isS || s.isK
/-- A predicate p0 to p7 (R128). -/
def Spec.isP (s : Spec) : Bool := s.file == .x && s.idx.toNat < 8
/-- A writable predicate p0 to p6 (R179). -/
def Spec.isPw (s : Spec) : Bool := s.file == .x && s.idx.toNat < 7
/-- A predicate q0 to q3 (R128). -/
def Spec.isQ (s : Spec) : Bool := s.file == .x && 8 ≤ s.idx.toNat && s.idx.toNat < 12
/-- A numbered object of kind x with index below n. -/
def Spec.isX (s : Spec) (n : Nat) : Bool := s.file == .x && s.idx.toNat < n

/-- A data source: s or k under MU, else v, s or k (R127, R130). -/
def Spec.src (s : Spec) (mu wide : Bool) : Bool := (!mu && s.isV wide) || s.isSK
/-- A data destination: s under MU, else v. -/
def Spec.dst (s : Spec) (mu wide : Bool) : Bool := if mu then s.isS else s.isV wide
/-- A predicate source: q under MU, else p or q. -/
def Spec.psrc (s : Spec) (mu : Bool) : Bool := (!mu && s.isP) || s.isQ
/-- A predicate destination: q under MU, else p0 to p6. -/
def Spec.pdst (s : Spec) (mu : Bool) : Bool := if mu then s.isQ else s.isPw
/-- A base or 64-bit register operand: d, s or k. -/
def Spec.reg64 (s : Spec) : Bool := s.isV true || s.isSK

/-- The guard of a form with MU (R127). -/
def Guard.okMu (g : Guard) : Bool := g.idx.toNat < 4 || g.idx.toNat == 7

/-- What a class A form allows beyond its operands. -/
structure ALim where
  mu : Bool := true
  bi : Bool := false
  tys : List IType := [.i32]
  fn : Nat := 0
  x20 : Bool := false
  imm : Bool := false
  cls : Bool := false
  look : Bool := true
  deriving DecidableEq, Repr

/-- The fields of a class A form other than its operands keep within its limits. -/
def AForm.lim (f : AForm) (l : ALim) : Bool :=
  (l.mu || !f.mu) && (!f.mu || f.grd.okMu) && (l.bi || !f.bi) && l.tys.contains f.ty && decide (f.fn.toNat ≤ l.fn)
  && (l.x20 || !f.x20) && (l.imm || f.bi || f.imm == 0) && (l.cls || f.cls == 0) && (l.look || f.look == 0)

/-- Every integer type. -/
abbrev IType.all : List IType := [.i32, .n32, .i64, .n64, .i16, .n16, .i8, .n8]

/-- Operand b, or 0 with BI (R130). -/
def AForm.bOk (f : AForm) (wide : Bool) : Bool := if f.bi then f.b == .zero else f.b.src f.mu wide

/-- dst, a, b of an integer form. -/
def AForm.int2 (f : AForm) (bi : Bool) : Bool :=
  f.lim { bi, tys := IType.all } && f.dst.dst f.mu f.ty.wide && f.a.src f.mu f.ty.wide && f.bOk f.ty.wide && f.c == .zero
/-- dst, a of an integer form. -/
def AForm.int1 (f : AForm) : Bool :=
  f.lim { tys := IType.all } && f.dst.dst f.mu f.ty.wide && f.a.src f.mu f.ty.wide && f.b == .zero && f.c == .zero
/-- dst, a, b of a class form. -/
def AForm.real2 (f : AForm) (mu : Bool) : Bool :=
  f.lim { mu, cls := true } && f.dst.dst f.mu false && f.a.src f.mu false && f.b.src f.mu false && f.c == .zero
/-- dst, a of a class form. -/
def AForm.real1 (f : AForm) (l : ALim) : Bool :=
  f.lim l && f.dst.dst f.mu false && f.a.src f.mu false && f.b == .zero && f.c == .zero
/-- No operand. -/
def AForm.bare (f : AForm) : Bool := f.dst == .zero && f.a == .zero && f.b == .zero && f.c == .zero

/-- GETS destinations of R200: special number, MU, destination. -/
def getsOk (n : Nat) (mu : Bool) (d : Spec) : Bool :=
  if n ∈ [0, 1, 2, 3, 4, 9, 10, 11, 12, 14, 16, 17, 18, 19] then d.dst mu false
  else if n ∈ [5, 24, 25, 26, 27, 28] then d.dst mu true
  else if n = 8 then !mu && d.isV true
  else if n = 13 then !mu && d.isV false
  else false

/-- SETS registers and sources of R200 and R202. -/
def setsOk (n : Nat) (mu : Bool) (a : Spec) : Bool :=
  if n = 8 then !mu && a.reg64
  else if n = 13 then !mu && a.src false false
  else if n ∈ [9, 10, 11, 16, 17, 18, 19] then mu && a.isSK
  else false

/-- Class B fields (R180): target in register, meeting address allowed and in register, look allowed. -/
def BForm.lim (f : BForm) (tr meet : Bool) (look : Bool) : Bool :=
  (look || f.look == 0) && (f.tr == tr) && (!f.tr || (f.tdisp == 0 && f.tslot == 0)) && (meet || !f.mr)
  && (if f.mr then f.b.isSK && f.mdisp == 0 && f.mslot == 0 else f.b == .zero)
  && (meet || (f.mdisp == 0 && f.mslot == 0))

/-- Element size in bytes of a data format (R258). -/
def dfSize (df : Nat) : Nat :=
  if df ∈ [0x01, 0x04, 0x80, 0x81] then 4 else if df ∈ [0x02, 0x03, 0x84, 0x85] then 2
  else if df ∈ [0x05, 0x06, 0x86, 0x87] then 1 else if df ∈ [0x82, 0x83] then 8 else 0

/-- Number of elements NE (R258). -/
def nvCount (nv : BitVec 2) : Nat := 2 ^ nv.toNat

/-- Register stride of an element (R258): an 8-byte element takes a d register, two v registers, or one s register (log 38). -/
def dfStride (r : Spec) (df : Nat) : Nat := if dfSize df = 8 ∧ r.file ≠ .s then 2 else 1

/-- DF, NV and CLS agree, and the data register suits them (R258). -/
def MForm.dataOk (f : MForm) (r : Spec) : Bool :=
  let z := dfSize f.df.toNat
  z != 0 && decide (f.nv.toNat < 3) && decide (z * nvCount f.nv ≤ 16)
  && (if f.df.toNat < 0x80 then f.cls != 0 else f.cls == 0)
  && (if f.mu then r.isS else r.isV false) && r.idx.toNat % (dfStride r f.df.toNat * nvCount f.nv) == 0

/-- Base, index and hint fields (R257, R261, R281); a .s form may leave its index out, its OPB then 0, as the spec's own line 37 does (R442, log 37). -/
def MForm.addrOk (f : MForm) : Bool :=
  (if f.mu then f.a.isSK else f.a.reg64)
  && (if f.bi then f.b == .zero && !f.iw else f.imm == 0 && (if f.iw then !f.mu && f.b.isV true else f.b.src f.mu false || f.b == .zero))
  && decide (f.retain.toNat < 3) && (!f.mu || f.grd.okMu)

/-- Orders and scopes of R259. -/
def MForm.orderOk (f : MForm) (orders : List Order) (scopes : List Scope) : Bool :=
  orders.contains f.order && scopes.contains f.scope && (f.scope != .rc || f.order == .rel || f.order == .ar || f.order == .sc)

/-- The SCO field is 0. -/
def MForm.noSco (f : MForm) : Bool := f.scope == .wp && f.order == .rlx

/-- A translated region selector (R257). -/
def rsTrans (rs : BitVec 3) : Bool := rs.toNat < 5

/-- A read-modify-write (R315, R322). -/
def MForm.rmw (f : MForm) (dfs : List Nat) (orders : List Order) (hasDst : Bool) : Bool :=
  !f.mu && f.addrOk && dfs.contains f.df.toNat && f.nv == 0
  && f.orderOk orders (if f.rs.toNat = 5 then [.wp, .tm, .cl] else [.wp, .tm, .cl, .dv, .sy, .rc]) && decide (f.rs.toNat < 6)
  && (let w := dfSize f.df.toNat == 8
      f.c.isV w && (if hasDst then f.dst.isV w else f.dst == .zero && f.look == 0))

/-- A side selector of a copy (R132). -/
def selTrans (n : BitVec 3) : Bool := n.toNat < 5

/-- Class K operands (R270). -/
def KForm.lim (f : KForm) : Bool := f.a.isSK && f.b.isSK && f.c.isSK

/-- Class X fields a form uses (R288, R305). -/
def XForm.lim (f : XForm) (cls dst a b c imm x20 ta tb look : Bool) : Bool :=
  (cls || f.cls == 0) && (dst || f.dst == .zero) && (a || f.a == .zero) && (b || f.b == .zero) && (c || f.c == .zero)
  && (imm || f.imm == 0) && (x20 || !f.x20) && (ta || f.ta == 0) && (tb || f.tb == 0) && (look || f.look == 0)
  && decide (f.ta.toNat < 10)

/-- Class S fields a form uses (R329, R352, R426). -/
def SForm.lim (f : SForm) (dst a b c imm bi opd look : Bool) : Bool :=
  (dst || f.dst == .zero) && (a || f.a == .zero) && (b || f.b == .zero) && (c || f.c == .zero)
  && (imm || f.bi || f.imm == 0) && (bi || !f.bi) && (opd || f.opd == 0) && (look || f.look == 0)

/-- SCO is 0. -/
def SForm.noSco (f : SForm) : Bool := f.scope == .wp && f.order == .rlx

/-- Operand b from s or k, or IMM with BI. -/
def SForm.bOrImm (f : SForm) : Bool := if f.bi then f.b == .zero else f.b.isSK && f.imm == 0

/-- An OPD holding WIN and POS (R329). -/
def SForm.opdWin (f : SForm) : Bool := f.opd.toNat < 8

/-- Conservator fields a form uses (R387). -/
def NForm.lim (f : NForm) (d a b c inc ar : Bool) (subs : Nat) (imm : Bool) : Bool :=
  (d || f.d == 0) && (a || f.a == 0) && (b || f.b == 0) && (c || f.c == 0) && (inc || !f.inc) && (ar || !f.ar)
  && decide (f.sub.toNat < subs) && (imm || f.imm == 0)

/-- A ca index (R379). -/
def caOk (i : BitVec 4) : Bool := i.toNat < 8

/-- The instruction is well formed. -/
def Instr.wf : Instr → Bool
  | .nop f => f.lim { mu := false, look := false } && f.bare && !f.mo
  | .exit f | .join f | .idemOn f | .idemOff f => f.lim { mu := false, look := false } && f.bare
  | .yield f => f.lim { mu := false, look := false, imm := true } && f.bare
  | .ejcfg f => f.lim { mu := false, look := false, imm := true, x20 := true } && decide (f.imm.toNat ≤ 8) && f.dst == .zero
      && (if f.x20 then f.a.isSK else f.a == .zero) && f.b == .zero && f.c == .zero
  | .partn f => f.lim { mu := false, look := false, imm := true } && decide (f.imm.toNat ≤ 4) && f.bare
  | .bra f => f.lim f.tr false false && !f.ej && f.dst == .zero && (if f.tr then f.a.isSK else f.a == .zero)
  | .brc f => f.lim false true false && f.dst == .zero && (f.a.isP || f.a.isQ)
  | .brx f => f.lim true true false && !f.ej && f.dst == .zero && f.a.reg64
  | .call f => f.lim false false true && !f.ej && f.dst.isV true && f.a == .zero
  | .callx f => f.lim true false true && !f.ej && f.dst.isV true && f.a.reg64
  | .ret f => f.lim true false false && !f.ej && f.dst == .zero && f.a.reg64
  | .meet f => f.lim false true false && !f.ej && f.dst == .zero && f.a == .zero && f.tdisp == 0 && f.tslot == 0
  | .iadd f | .isub f | .imul f | .imulh f | .imin f | .imax f | .iand f | .ior f | .ixor f | .shl f | .shr f | .sar f
  | .rotl f => f.int2 true
  | .iadc f | .iadcSb f => f.lim { tys := [.n32, .n64] } && f.dst.dst f.mu f.ty.wide && f.a.src f.mu f.ty.wide && f.b.src f.mu f.ty.wide
      && f.c.pdst f.mu
  | .imad f => f.lim { bi := true, tys := IType.all } && f.dst.dst f.mu f.ty.wide && f.a.src f.mu f.ty.wide && f.bOk f.ty.wide
      && f.c.src f.mu f.ty.wide
  | .idiv f | .irem f => f.lim { bi := true, tys := IType.all, x20 := true } && f.dst.dst f.mu f.ty.wide && f.a.src f.mu f.ty.wide
      && f.bOk f.ty.wide && f.c == .zero
  | .iabs f | .ineg f | .inot f | .popc f | .clz f | .brev f | .mov f => f.int1
  | .bfx f => f.int2 false
  | .bfi f => f.lim { tys := IType.all } && f.dst.dst f.mu f.ty.wide && f.a.src f.mu f.ty.wide && f.b.src f.mu f.ty.wide
      && f.c.src f.mu f.ty.wide
  | .icmp f => f.lim { bi := true, tys := IType.all, fn := 5 } && f.dst.pdst f.mu && f.a.src f.mu f.ty.wide && f.bOk f.ty.wide
      && f.c == .zero
  | .sel f => f.lim { tys := IType.all } && f.dst.dst f.mu f.ty.wide && f.a.src f.mu f.ty.wide && f.b.src f.mu f.ty.wide && f.c.psrc f.mu
  | .lea f => f.lim { tys := [.i32, .n32, .i64, .n64], imm := true } && decide (f.imm.toNat ≤ 7) && f.dst.dst f.mu true
      && f.a.src f.mu true && f.b.src f.mu f.ty.wide && f.c == .zero
  | .movi f => f.lim { tys := IType.all, imm := true } && f.dst.dst f.mu f.ty.wide && f.a == .zero && f.b == .zero && f.c == .zero
  | .movk lane f => f.lim { tys := if f.mu then [.i64, .n64] else [.i32, .n32, .i64, .n64], imm := true } && f.dst.dst f.mu f.ty.wide
      && (f.ty.wide || decide (lane.toNat < 4)) && f.a == .zero && f.b == .zero && f.c == .zero
  | .gets f => f.lim {} && f.a.file == .x && getsOk f.a.idx.toNat f.mu f.dst && f.b == .zero && f.c == .zero
  | .sets f => f.lim { look := false } && f.dst.file == .x && setsOk f.dst.idx.toNat f.mu f.a && f.b == .zero && f.c == .zero
  | .plog f => f.lim { imm := true } && f.dst.pdst f.mu && f.a.psrc f.mu && f.b.psrc f.mu && f.c.psrc f.mu
  | .pmovPk f => f.lim { tys := [.n32] } && f.dst.dst f.mu false && f.a == .zero && f.b == .zero && f.c == .zero
  | .pmovUp f => f.lim { tys := [.n32] } && f.dst == .zero && f.a.src f.mu false && f.b == .zero && f.c == .zero
  | .uni f => f.lim { mu := false, tys := IType.all } && f.dst.isS && f.a.src false f.ty.wide && f.b == .zero && f.c == .zero
  | .uniEq f => f.lim { mu := false, tys := IType.all } && f.dst.isQ && f.a.src false f.ty.wide && f.b == .zero && f.c == .zero
  | .fadd f | .fsub f | .fmul f | .fmin f | .fmax f | .fdiv f | .amax f => f.real2 true
  | .fma f => f.lim { cls := true } && f.dst.dst f.mu false && f.a.src f.mu false && f.b.src f.mu false && f.c.src f.mu false
  | .fcmp f => f.lim { cls := true, fn := 7 } && f.dst.pdst f.mu && f.a.src f.mu false && f.b.src f.mu false && f.c == .zero
  | .fsel f => f.lim { cls := true } && f.dst.dst f.mu false && f.a.src f.mu false && f.b.src f.mu false
      && (if f.mu then f.c.isQ else f.c.isP)
  | .fcls f | .frcp f | .frsq f | .fsqt f | .fexp f | .flog f | .fsin f | .fcos f | .ftnh f | .cvccCc f => f.real1 { cls := true }
  | .fscl f => f.lim { cls := true, bi := true } && f.dst.dst f.mu false && f.a.src f.mu false && f.bOk false && f.c == .zero
  | .frnd f => f.real1 { cls := true, fn := 4 }
  | .cvif f => f.lim { cls := true, tys := IType.all } && f.dst.dst f.mu false && f.a.src f.mu f.ty.wide && f.b == .zero && f.c == .zero
  | .cvfi f => f.lim { cls := true, tys := IType.all, fn := 4 } && f.dst.dst f.mu f.ty.wide && f.a.src f.mu false && f.b == .zero
      && f.c == .zero
  | .cvccIn f | .cvccOut f => f.real1 { cls := true, imm := true } && decide (1 ≤ f.imm.toNat ∧ f.imm.toNat ≤ 9)
  | .cadd f => f.real2 false
  | .cfold f => f.real1 { cls := true, mu := false }
  | .fdot4 f => f.lim { cls := true, mu := false } && f.dst.isV false && f.a.file == .v && f.b.file == .v && f.a.idx.toNat % 4 == 0
      && f.b.idx.toNat % 4 == 0 && f.c.src false false
  | .hrandN f => f.lim {} && f.dst.dst f.mu false && f.a.src f.mu true && f.b.isSK && f.c == .zero
  | .hrandP f => f.lim { imm := true } && f.dst.pdst f.mu && f.a.src f.mu true && f.b.isSK && f.c == .zero
  | .hrandU f => f.lim { cls := true } && f.dst.dst f.mu false && f.a.src f.mu true && f.b.isSK && f.c == .zero
  | .lutb f => f.lim { cls := true } && f.mu && f.a.isSK && f.b.isS && f.b.idx.toNat % 4 == 0 && f.dst.isS && f.dst.idx.toNat % 8 == 0
      && f.c == .zero
  | .lutm f => f.lim { cls := true, mu := false, imm := true } && decide (1 ≤ f.imm.toNat ∧ f.imm.toNat ≤ 8) && f.dst.isV false
      && f.a.isV false && f.b.isS && f.b.idx.toNat % 8 == 0 && f.c.src false false
  | .shfl _ f => f.lim { mu := false, bi := true, x20 := true } && f.dst.isV f.x20 && f.a.isV f.x20 && f.bOk false && f.c == .zero
  | .vote op f => (match op with
      | .all | .any => f.lim { mu := false } && f.a.isP && f.dst.isPw
      | .ballot => f.lim { mu := false } && f.a.isP && f.dst.isV false
      | .eq => f.lim { mu := false, x20 := true } && f.a.isV f.x20 && f.dst.isPw) && f.b == .zero && f.c == .zero
  | .redw _ f | .scanw _ f => f.real1 { cls := true, mu := false }
  | .ld f => f.addrOk && f.dataOk f.dst && rsTrans f.rs && f.orderOk [.rlx, .acq] [.tm, .cl, .dv, .sy] && f.c == .zero
  | .st f => f.addrOk && f.dataOk f.c && rsTrans f.rs && f.orderOk [.rlx, .rel] [.tm, .cl, .dv, .sy, .rc] && f.dst == .zero && f.look == 0
  | .lds f => f.addrOk && f.dataOk f.dst && f.rs == 5 && f.orderOk [.rlx, .acq] [.tm, .cl] && f.c == .zero
  | .sts f => f.addrOk && f.dataOk f.c && f.rs == 5 && f.orderOk [.rlx, .rel] [.tm, .cl] && f.dst == .zero && f.look == 0
  | .ldg f => f.addrOk && f.dataOk f.dst && f.rs == 5 && f.noSco && f.c == .zero
  | .gwin f => f.addrOk && f.rs == 5 && f.noSco && f.df == 0 && f.cls == 0 && f.nv == 0 && f.c == .zero && f.dst.dst f.mu false
  | .prfFill f | .prfXlat f | .cctlEvict f => !f.mu && f.addrOk && rsTrans f.rs && f.noSco && f.df == 0 && f.cls == 0 && f.nv == 0
      && f.c == .zero && f.dst == .zero && f.look == 0
  | .cctlZero f => !f.mu && f.addrOk && rsTrans f.rs && f.orderOk [.rlx, .rel] [.tm, .cl, .dv, .sy, .rc] && f.df == 0 && f.cls == 0
      && f.nv == 0 && f.c == .zero && f.dst == .zero && f.look == 0
  | .cpy f => f.lim && f.imm == 0 && f.opx == 0 && decide (f.rsd.toNat < 6) && decide (f.rss.toNat < 6)
  | .cpym f => f.lim && decide (f.imm.toNat < 16) && decide (f.opx.toNat < 24) && f.rsd == 5 && decide (f.rss.toNat < 6)
  | .cpygFrom f => f.lim && f.imm == 0 && f.opx == 0 && selTrans f.rsd && f.rss == 5
  | .cpygTo f => f.lim && f.imm == 0 && f.opx == 0 && f.rsd == 5 && selTrans f.rss
  | .cpygLoad f => f.lim && f.imm == 0 && f.opx == 0 && f.rsd == 5 && f.rss == 5
  | .cpyxPut f => f.lim && f.imm == 0 && f.opx == 0 && selTrans f.rsd && decide (f.rss.toNat < 6)
  | .cpyxGet f => f.lim && f.imm == 0 && f.opx == 0 && decide (f.rsd.toNat < 6) && selTrans f.rss
  | .tlw f => f.lim false true true false false true false false && f.noSco && f.a.isX 8 && f.bOrImm
  | .tlqDone f | .tlqIss f => f.lim true true false false false false false true && f.noSco && f.a.isX 8 && f.dst.isS
  | .tlmk f => f.lim true true false false false false false true && f.a.isX 8 && f.dst.isS && f.order == .rel
  | .malcWait f => f.lim false false false false false true false false false false
  | .malcTry f => f.lim false true false false false true false false false true && f.dst.isQ
  | .mfre f => f.lim false false false false false true false false false false
  | .mzro f => f.lim false false false false false false false true false false
  | .meas f => f.lim true false false true true true false true true false && f.b.isSK && f.c.isSK && [1, 2, 3, 5, 6].contains f.imm.toNat
  | .mcvt f => f.lim true false true true true true false true true false && f.a.isSK && f.b.isSK && f.c.isSK
      && [1, 2, 3, 5, 6].contains f.imm.toNat
  | .mldb f => f.lim true false true true false false false false true false && f.a.isSK && f.b.isSK && decide (f.tb.toNat < 4)
  | .mma f | .mmat f => f.lim true false true true true true false true true false && f.a.isSK && f.b.isSK && f.c.isSK
      && decide (f.tb.toNat < 4)
  | .mdrn f => f.lim true false true true true true true true false false && f.a.isSK && f.b.isSK
      && (if f.x20 then f.c.isSK else f.c == .zero)
  | .msta _ f => f.lim false true true false false false false false false true && f.dst.isS && f.a.isX 24
  | .mbatOpen f => f.lim false false true false false true true true true false && f.a.isX 24 && decide (f.imm.toNat < 4)
      && (if f.x20 then decide (f.tb.toNat < 8) else f.tb == 0)
  | .mbatClose f => f.lim false false false false false false false true false false
  | .msvhCopy f | .msvhEv f | .mrsh f => f.lim false false true false false false false true false false && f.a.isSK
  | .fence f => f.lim false false false false false false false false && f.order != .rlx && (f.scope != .rc || f.order != .acq)
  | .atom _ f => f.cls == 0 && f.rmw [0x80, 0x81, 0x82, 0x83] [.rlx, .acq, .rel, .ar, .sc] true
  | .acas f => f.cls == 0 && f.rmw [0x80, 0x81, 0x82, 0x83] [.rlx, .acq, .rel, .ar, .sc] true
  | .red _ f => f.cls == 0 && f.rmw [0x80, 0x81, 0x82, 0x83] [.rlx, .rel] false
  | .fred _ f => f.rmw [0, 1, 2, 3] [.rlx, .rel] false
  | .rvini _ f => f.lim false true true false false true false false && f.noSco && f.a.isX 24 && f.bOrImm
  | .arv f => f.lim true true false false false false false true && f.noSco && f.a.isX 24 && (f.dst.isS || (f.dst == .zero && f.look == 0))
  | .arvb f => f.lim true true true false false true false true && f.noSco && f.a.isX 24 && f.bOrImm
      && (f.dst.isS || (f.dst == .zero && f.look == 0))
  | .rvwt f => f.lim false true true false false true false false && f.noSco && f.a.isX 24 && f.bOrImm
  | .rvtsT f => f.lim true true true false false true false true && f.noSco && f.a.isX 24 && f.bOrImm && f.dst.isQ
  | .rvtsPh f => f.lim true true false false false false false true && f.noSco && f.a.isX 24 && f.dst.isS
  | .qiniInit f => f.lim false true true true true false false false && f.noSco && f.a.isX 16 && f.b.isSK && f.c.isSK
  | .qiniGrant f => f.lim false true true false false false false false && f.noSco && f.a.isX 16 && f.b.isSK
  | .qpsh f => f.lim false true true false false false true false && f.noSco && f.a.isX 16 && f.b.isSK && f.opdWin
  | .qpop f => f.lim true true false false false false true true && f.noSco && f.a.isX 16 && f.dst.isS && f.opdWin
  | .qtryPsh f => f.lim false true true true false false true true && f.noSco && f.a.isX 16 && f.b.isSK && f.c.isQ && f.opdWin
  | .qtryPop f => f.lim true true false true false false true true && f.noSco && f.a.isX 16 && f.dst.isS && f.c.isQ && f.opdWin
  | .syncm f => f.lim false true false false false false false false && f.noSco && f.a.src false false
  | .gsyncWait f => f.lim false false true false false true false false && f.noSco && f.bOrImm
  | .gsyncNb f => f.lim false false true false false true true false && f.noSco && f.bOrImm && decide (f.opd.toNat < 8)
  | .tlsig f => f.lim false true false false false false false false && f.noSco && f.a.isSK
  | .launch f => f.lim true true false false false false false true && f.noSco && f.dst.isS && f.a.isSK
  | .trap f => f.lim false false false false true false false false && f.noSco
  | .eret f => f.lim false false false false false false false false && f.noSco
  | .csrr f => f.lim true false true false false true false true && f.noSco && f.dst.isS && f.bOrImm
  | .csrw f => f.lim false true true false false true false false && f.noSco && f.a.isSK && f.bOrImm
  | .killw f => f.lim false false true false false true false false && f.noSco && f.bOrImm
  | .pause f => f.lim false false false false true false false false && f.noSco && f.imm != 0
  | .mirxOff f | .mirxOn f => f.lim false false false false false false false false && f.noSco
  | .mirxTest f => f.lim true false false false false false false true && f.noSco && f.dst.isQ
  | .waitev f => f.lim true false false false true false false true && f.noSco && f.dst.isS && f.imm != 0
  | .rpopn f => f.lim true false true false false true false true && f.noSco && f.dst.isS && f.bOrImm
  | .rpseal f => f.lim true true false false false false false true && f.noSco && f.dst.isS && f.a.isSK
  | .rpqrySt f | .rpqryWt f => f.lim true false true false false true false true && f.noSco && f.dst.isS && f.bOrImm
  | .pfxCl _ _ _ => true
  | .pfxRg a => a.isS
  | .nld f => f.lim true true false false true false 4 true && caOk f.a
  | .nst f => f.lim false true true false true false 3 true && caOk f.a
  | .nadd f => f.lim true true true false false false 2 false
  | .naddAddr f => f.lim true true false false false true 1 true && f.ar && caOk f.d && caOk f.a
  | .nmul f | .ndiv f | .nmax f | .nmin f => f.lim true true true false false false 1 false
  | .nfma f => f.lim true true true true false false 1 false
  | .nsqt f | .nrsq f => f.lim true true false false false false 1 false
  | .nscl f => f.lim true true false false false false 1 true && decide (-255 ≤ f.imm.toInt ∧ f.imm.toInt ≤ 255)
  | .ncvt f => f.lim true true false false false false 2 false
  | .nloop f | .nbrz f => f.lim false true false false false false 1 true && caOk f.a
  | .nsig f => f.lim false false false false false false 4 false
  | .nwait f => f.lim false true false false false false 4 true && caOk f.a
  | .ndone f => f.lim false false false false false false 1 false
  | .csrWrite die tdie _ _ => decide (die < 4) && decide (tdie < 4)
  | .ltailWrite vdev list _ => decide (vdev < 16) && decide (list < 16)
  | .taskFetch vdev list => decide (vdev < 16) && decide (list < 16)
  | .tgdecWrite die _ => decide (die < 4)
  | .dispatchWrite die _ => decide (die < 4)
  | .hwDispatch die vdev => decide (die < 4) && decide (vdev < 16)
  | .gangPlace _ => true
  | .gangRetire _ _ => true
  | .launchRetire _ => true
  | .taskComplete _ => true
  | .eventPost die queue => decide (die < 4) && decide (queue < 17)
  | .gstartWrite die _ => decide (die < 4)
  | .gexitWrite die _ => decide (die < 4)
  | .vdcfgWrite die vdev _ => decide (die < 4) && decide (vdev < 16)
  | .switchTick => true
  | .partitionChoose part => decide (part < 8)
  | .switchCommit part => decide (part < 8)
  | .switchDeadlineMiss part _ => decide (part < 8)
  | .preqWrite die _ => decide (die < 4)
  | .drainTimeout _ => true
  | .tevpostWrite die _ => decide (die < 4)
  | .tinvcGo die _ => decide (die < 4)
  | .tinvcDone die => decide (die < 4)
  | .hsmapWrite die reg _ => decide (die < 4) && decide (reg < 20)
  | .hsmapApply die chunk => decide (die < 4) && decide (chunk < 160)
  | .cisternWrite die _ => decide (die < 4)
  | .galctlWopenWrite die _ => decide (die < 4)
  | .galleryOpen die => decide (die < 4)
  | .galleryClose die => decide (die < 4)
  | .galleryRefresh die group => decide (die < 4) && decide (group < 8)
  | .pageWalk vdev _ _ _ => decide (vdev < 16)
  | .translationFault die => decide (die < 4)
  | .fresumeReplay die slot => decide (die < 4) && decide (slot < 1024)
  | .fresumeTrap die slot => decide (die < 4) && decide (slot < 1024)
  | .fresumeRollback die slot => decide (die < 4) && decide (slot < 1024)
  | .spillEvict _ warp => decide (warp < 32)
  | .meetRelease _ warp _ => decide (warp < 32)
  | .rillRecall _ => true
  | .rillArrive _ => true
  | .rejoinTimeout _ warp _ => decide (warp < 32)
  | .trapDispatch _ warp entry => decide (warp < 32) && decide (entry < 8)
  | .lineRefetch _ warp entry => decide (warp < 32) && decide (entry < 8)
  | .machineCheck _ _ site => decide (site.die < 4)
  | .launchRollback _ => true
  | .snapshot _ _ => true
  | .copyChunkDone _ _ _ => true
  | .matrixGrant cluster _ => decide (cluster < 72)
  | .matrixOpComplete cluster _ => decide (cluster < 72)
  | .batchComplete _ _ => true
  | .nsigComplete cons => decide (cons < 128)
  | .updateStart cons => decide (cons < 128)
  | .undoLogWrite cons => decide (cons < 128)
  | .updateRollback _ => true
  | .stepAbort => true
  | .journalWrite _ => true
  | .sealPoint vdev => decide (vdev < 16)
  | .dieReset die => decide (die < 4)
  | .recover vdev => decide (vdev < 16)
  | .format vdev => decide (vdev < 16)
  | .quiesce vdev => decide (vdev < 16)
  | .resumeFrozen vdev => decide (vdev < 16)
  | .restoreImage vdev => decide (vdev < 16)
  | .flitSend link f => decide (link < 24 ∧ f.payload.length ≤ 244)
  | .flitReceive link _ => decide (link < 24)
  | .replayTimeout link => decide (link < 24)
  | .edgeRetrain edge => decide (edge < 4)
  | .retrainComplete edge _ => decide (edge < 4)
  | .hdmDecoderWrite dec _ _ => decide (dec < 2)
  | .cxlMemWrite _ _ => true
  | .cxlMemRead _ _ => true
  | .cxlCompletion _ => true
  | .cxlLinkError _ => true
  | .rhawinRetrain port _ => decide (port < 8)
  | .rhawinInbound port _ _ _ _ => decide (port < 8)
  | .bind die vdev _ _ _ _ => decide (die < 4) && decide (vdev < 16)
  | .powerOn => true
  | .powerEval _ _ => true
  | .yieldExpire _ warp entry => decide (warp < 32) && decide (entry < 8)
  | .pauseExpire _ warp entry => decide (warp < 32) && decide (entry < 8)
  | .packagePowerLoss => true
  | .guestRequestSaveDone _ => true
  | .quiesceImageWritten vdev => decide (vdev < 16)
  | .accessPerformedAtHome _ => true
  | .hostSnoop _ => true

end Sys2Proof
end

