-- ==== Sys2Proof/Decode.lean ====
section
/-! DEFINITION. Decoding and encoding: the 96-bit main-set words (spec/06 R118, R126 to R139), the fetch line (R118 to R122) and the 64-bit conservator words (spec/20 R386, R387). -/

namespace Sys2Proof

/-- Why a word is no instruction. Each raises ILLOP when it issues (R140), or CONS.ILL on a conservator (R387). -/
inductive Reject | opcode | reserved | operand
  deriving DecidableEq, Repr

/-- The base layout of R126, as numbers. -/
structure Raw where
  opc : Nat
  sub : Nat
  look : Nat
  grd : Nat
  cls : Nat
  dst : Nat
  a : Nat
  b : Nat
  c : Nat
  imm : Nat
  sco : Nat
  md : Nat
  fsp : Nat
  deriving DecidableEq, Repr

/-- The fields of a 96-bit word (R126). -/
def Raw.ofWord (w : Nat) : Raw where
  opc := w / 2 ^ 88 % 256
  sub := w / 2 ^ 84 % 16
  look := w / 2 ^ 80 % 16
  grd := w / 2 ^ 76 % 16
  cls := w / 2 ^ 70 % 64
  dst := w / 2 ^ 62 % 256
  a := w / 2 ^ 54 % 256
  b := w / 2 ^ 46 % 256
  c := w / 2 ^ 38 % 256
  imm := w / 2 ^ 30 % 256
  sco := w / 2 ^ 24 % 64
  md := w / 2 ^ 16 % 256
  fsp := w % 65536

/-- The word of the fields (R126). -/
def Raw.toWord (r : Raw) : Nat :=
  r.opc * 2 ^ 88 + r.sub * 2 ^ 84 + r.look * 2 ^ 80 + r.grd * 2 ^ 76 + r.cls * 2 ^ 70 + r.dst * 2 ^ 62 + r.a * 2 ^ 54
    + r.b * 2 ^ 46 + r.c * 2 ^ 38 + r.imm * 2 ^ 30 + r.sco * 2 ^ 24 + r.md * 2 ^ 16 + r.fsp

/-- Bit n of a number. -/
def natBit (w n : Nat) : Bool := w / 2 ^ n % 2 == 1

/-- A specifier from its 8 bits (R128). -/
def Spec.ofNat (n : Nat) : Spec :=
  ⟨match n / 64 % 4 with | 0 => .v | 1 => .s | 2 => .k | _ => .x, BitVec.ofNat 6 (n % 64)⟩

/-- The 8 bits of a specifier (R128). -/
def Spec.toNat (s : Spec) : Nat :=
  (match s.file with | .v => 0 | .s => 64 | .k => 128 | .x => 192) + s.idx.toNat

/-- A guard from GRD (R127). -/
def Guard.ofNat (n : Nat) : Guard := ⟨n / 8 % 2 == 1, BitVec.ofNat 3 (n % 8)⟩
/-- GRD of a guard (R127). -/
def Guard.toNat (g : Guard) : Nat := g.neg.toNat * 8 + g.idx.toNat

/-- Scope from its code (R46). -/
def Scope.ofNat? : Nat → Option Scope
  | 0 => some .wp | 1 => some .tm | 2 => some .cl | 3 => some .dv | 4 => some .sy | 5 => some .rc | _ => none
/-- Scope code (R46). -/
def Scope.code : Scope → Nat
  | .wp => 0 | .tm => 1 | .cl => 2 | .dv => 3 | .sy => 4 | .rc => 5
/-- Order from its code (R131). -/
def Order.ofNat? : Nat → Option Order
  | 0 => some .rlx | 1 => some .acq | 2 => some .rel | 3 => some .ar | 4 => some .sc | _ => none
/-- Order code (R131). -/
def Order.code : Order → Nat
  | .rlx => 0 | .acq => 1 | .rel => 2 | .ar => 3 | .sc => 4
/-- Integer type from TY (R132). -/
def IType.ofNat? : Nat → Option IType
  | 0 => some .i32 | 1 => some .n32 | 2 => some .i64 | 3 => some .n64 | 4 => some .i16 | 5 => some .n16 | 6 => some .i8 | 7 => some .n8
  | _ => none
/-- TY of an integer type (R132). -/
def IType.code : IType → Nat
  | .i32 => 0 | .n32 => 1 | .i64 => 2 | .n64 => 3 | .i16 => 4 | .n16 => 5 | .i8 => 6 | .n8 => 7
/-- SUB of SHFL (R227). -/
def ShflOp.code : ShflOp → Nat | .idx => 0 | .up => 1 | .down => 2 | .xor => 3
/-- SUB of VOTE (R228). -/
def VoteOp.code : VoteOp → Nat | .all => 0 | .any => 1 | .ballot => 2 | .eq => 3
/-- SUB of REDW and SCANW (R229). -/
def ReduceOp.code : ReduceOp → Nat | .add => 0 | .min => 1 | .max => 2 | .amax => 3
/-- SUB of ATOM (R323). -/
def AtomOp.code : AtomOp → Nat
  | .add => 0 | .min => 1 | .max => 2 | .and => 3 | .or => 4 | .xor => 5 | .exch => 6 | .incw => 7 | .decw => 8
/-- SUB of RED (R325). -/
def RedOp.code : RedOp → Nat | .add => 0 | .min => 1 | .max => 2 | .and => 3 | .or => 4 | .xor => 5
/-- SUB of FRED (R326). -/
def FredOp.code : FredOp → Nat | .add => 0 | .min => 1 | .max => 2

/-- Class A fields (R132). -/
def AForm.ofRaw (r : Raw) : Option AForm :=
  if r.sco = 0 ∧ r.md % 16 = 0 ∧ r.fsp % 256 = 0 then
    (IType.ofNat? (r.fsp / 4096 % 16)).map fun ty =>
      { look := BitVec.ofNat 4 r.look, grd := Guard.ofNat r.grd, cls := BitVec.ofNat 6 r.cls, dst := Spec.ofNat r.dst, a := Spec.ofNat r.a,
        b := Spec.ofNat r.b, c := Spec.ofNat r.c, imm := BitVec.ofNat 8 r.imm, mu := natBit r.md 7, mo := natBit r.md 6,
        bi := natBit r.md 5, x20 := natBit r.md 4, ty := ty, fn := BitVec.ofNat 4 (r.fsp / 256) }
  else none

/-- The word fields of a class A form (R132). -/
def AForm.toRaw (f : AForm) (opc sub : Nat) : Raw where
  opc := opc
  sub := sub
  look := f.look.toNat
  grd := f.grd.toNat
  cls := f.cls.toNat
  dst := f.dst.toNat
  a := f.a.toNat
  b := f.b.toNat
  c := f.c.toNat
  imm := f.imm.toNat
  sco := 0
  md := f.mu.toNat * 128 + f.mo.toNat * 64 + f.bi.toNat * 32 + f.x20.toNat * 16
  fsp := f.ty.code * 4096 + f.fn.toNat * 256

/-- Class B fields (R132, R180). -/
def BForm.ofRaw (r : Raw) : Option BForm :=
  if r.cls = 0 ∧ r.c = 0 ∧ r.sco = 0 ∧ r.md % 4 = 0 ∧ natBit r.md 7 = false ∧ natBit r.md 5 = false ∧ r.fsp % 4 = 0 then
    some { look := BitVec.ofNat 4 r.look, grd := Guard.ofNat r.grd, dst := Spec.ofNat r.dst, a := Spec.ofNat r.a, b := Spec.ofNat r.b,
           tdisp := BitVec.ofNat 8 r.imm, mo := natBit r.md 6, tr := natBit r.md 4, mr := natBit r.md 3, ej := natBit r.md 2,
           tslot := BitVec.ofNat 3 (r.fsp / 8192), mdisp := BitVec.ofNat 8 (r.fsp / 32), mslot := BitVec.ofNat 3 (r.fsp / 4) }
  else none

/-- The word fields of a class B form. -/
def BForm.toRaw (f : BForm) (opc sub : Nat) : Raw where
  opc := opc
  sub := sub
  look := f.look.toNat
  grd := f.grd.toNat
  cls := 0
  dst := f.dst.toNat
  a := f.a.toNat
  b := f.b.toNat
  c := 0
  imm := f.tdisp.toNat
  sco := 0
  md := f.mo.toNat * 64 + f.tr.toNat * 16 + f.mr.toNat * 8 + f.ej.toNat * 4
  fsp := f.tslot.toNat * 8192 + f.mdisp.toNat * 32 + f.mslot.toNat * 4

/-- Class M fields (R132, R257). -/
def MForm.ofRaw (r : Raw) : Option MForm :=
  if natBit r.md 3 = false ∧ natBit r.md 2 = false ∧ r.fsp % 8 = 0 then
    match Scope.ofNat? (r.sco / 8 % 8), Order.ofNat? (r.sco % 8) with
    | some sc, some od =>
      some { look := BitVec.ofNat 4 r.look, grd := Guard.ofNat r.grd, cls := BitVec.ofNat 6 r.cls, dst := Spec.ofNat r.dst, a := Spec.ofNat r.a,
             b := Spec.ofNat r.b, c := Spec.ofNat r.c, imm := BitVec.ofNat 8 r.imm, scope := sc, order := od, mu := natBit r.md 7,
             mo := natBit r.md 6, bi := natBit r.md 5, iw := natBit r.md 4, nv := BitVec.ofNat 2 r.md, df := BitVec.ofNat 8 (r.fsp / 256),
             rs := BitVec.ofNat 3 (r.fsp / 32), retain := BitVec.ofNat 2 (r.fsp / 8) }
    | _, _ => none
  else none

/-- The word fields of a class M form. -/
def MForm.toRaw (f : MForm) (opc sub : Nat) : Raw where
  opc := opc
  sub := sub
  look := f.look.toNat
  grd := f.grd.toNat
  cls := f.cls.toNat
  dst := f.dst.toNat
  a := f.a.toNat
  b := f.b.toNat
  c := f.c.toNat
  imm := f.imm.toNat
  sco := f.scope.code * 8 + f.order.code
  md := f.mu.toNat * 128 + f.mo.toNat * 64 + f.bi.toNat * 32 + f.iw.toNat * 16 + f.nv.toNat
  fsp := f.df.toNat * 256 + f.rs.toNat * 32 + f.retain.toNat * 8

/-- Class K fields (R132, R270). -/
def KForm.ofRaw (r : Raw) : Option KForm :=
  if r.look = 0 ∧ r.cls = 0 ∧ r.dst = 0 ∧ r.sco = 0 ∧ natBit r.md 7 = false ∧ natBit r.md 5 = false ∧ r.fsp % 128 = 0 then
    some { grd := Guard.ofNat r.grd, a := Spec.ofNat r.a, b := Spec.ofNat r.b, c := Spec.ofNat r.c, imm := BitVec.ofNat 8 r.imm,
           mo := natBit r.md 6, opx := BitVec.ofNat 5 r.md, rsd := BitVec.ofNat 3 (r.fsp / 8192), rss := BitVec.ofNat 3 (r.fsp / 1024),
           tli := BitVec.ofNat 3 (r.fsp / 128) }
  else none

/-- The word fields of a class K form. -/
def KForm.toRaw (f : KForm) (opc sub : Nat) : Raw where
  opc := opc
  sub := sub
  look := 0
  grd := f.grd.toNat
  cls := 0
  dst := 0
  a := f.a.toNat
  b := f.b.toNat
  c := f.c.toNat
  imm := f.imm.toNat
  sco := 0
  md := f.mo.toNat * 64 + f.opx.toNat
  fsp := f.rsd.toNat * 8192 + f.rss.toNat * 1024 + f.tli.toNat * 128

/-- Class X fields (R132, R288). -/
def XForm.ofRaw (r : Raw) : Option XForm :=
  if r.sco = 0 ∧ natBit r.md 7 = false ∧ natBit r.md 5 = false ∧ r.md % 16 = 0 ∧ r.fsp % 256 = 0 then
    some { look := BitVec.ofNat 4 r.look, grd := Guard.ofNat r.grd, cls := BitVec.ofNat 6 r.cls, dst := Spec.ofNat r.dst, a := Spec.ofNat r.a,
           b := Spec.ofNat r.b, c := Spec.ofNat r.c, imm := BitVec.ofNat 8 r.imm, mo := natBit r.md 6, x20 := natBit r.md 4,
           ta := BitVec.ofNat 4 (r.fsp / 4096), tb := BitVec.ofNat 4 (r.fsp / 256) }
  else none

/-- The word fields of a class X form. -/
def XForm.toRaw (f : XForm) (opc sub : Nat) : Raw where
  opc := opc
  sub := sub
  look := f.look.toNat
  grd := f.grd.toNat
  cls := f.cls.toNat
  dst := f.dst.toNat
  a := f.a.toNat
  b := f.b.toNat
  c := f.c.toNat
  imm := f.imm.toNat
  sco := 0
  md := f.mo.toNat * 64 + f.x20.toNat * 16
  fsp := f.ta.toNat * 4096 + f.tb.toNat * 256

/-- Class S fields (R132, R329). -/
def SForm.ofRaw (r : Raw) : Option SForm :=
  if r.cls = 0 ∧ natBit r.md 7 = false ∧ r.md % 32 = 0 then
    match Scope.ofNat? (r.sco / 8 % 8), Order.ofNat? (r.sco % 8) with
    | some sc, some od =>
      some { look := BitVec.ofNat 4 r.look, grd := Guard.ofNat r.grd, dst := Spec.ofNat r.dst, a := Spec.ofNat r.a, b := Spec.ofNat r.b,
             c := Spec.ofNat r.c, imm := BitVec.ofNat 8 r.imm, scope := sc, order := od, mo := natBit r.md 6, bi := natBit r.md 5,
             opd := BitVec.ofNat 16 r.fsp }
    | _, _ => none
  else none

/-- The word fields of a class S form. -/
def SForm.toRaw (f : SForm) (opc sub : Nat) : Raw where
  opc := opc
  sub := sub
  look := f.look.toNat
  grd := f.grd.toNat
  cls := 0
  dst := f.dst.toNat
  a := f.a.toNat
  b := f.b.toNat
  c := f.c.toNat
  imm := f.imm.toNat
  sco := f.scope.code * 8 + f.order.code
  md := f.mo.toNat * 64 + f.bi.toNat * 32
  fsp := f.opd.toNat

/-- A row's format class and constructor. -/
inductive Shape
  | A (mk : AForm → Instr)
  | B (mk : BForm → Instr)
  | M (mk : MForm → Instr)
  | K (mk : KForm → Instr)
  | X (mk : XForm → Instr)
  | S (mk : SForm → Instr)

/-- Part 0 of the opcode map (R139) with each form's sub-ops. -/
def opcodeRows0 : List (Nat × Nat × Shape) :=
  [(0x00, 0, .A .nop), (0x01, 0, .B .bra), (0x02, 0, .B .brc), (0x03, 0, .B .brx), (0x04, 0, .B .call), (0x05, 0, .B .callx), 
   (0x06, 0, .B .ret), (0x07, 0, .A .exit), (0x08, 0, .B .meet), (0x09, 0, .A .join), (0x0A, 0, .A .yield), (0x0B, 0, .A .ejcfg), 
   (0x0C, 0, .A .partn), (0x0D, 0, .A .idemOn), (0x0D, 1, .A .idemOff), (0x10, 0, .A .iadd), (0x11, 0, .A .isub), (0x12, 0, .A .iadc), 
   (0x12, 1, .A .iadcSb), (0x13, 0, .A .imul), (0x14, 0, .A .imulh), (0x15, 0, .A .imad), (0x16, 0, .A .idiv), (0x17, 0, .A .irem), 
   (0x18, 0, .A .imin), (0x19, 0, .A .imax), (0x1A, 0, .A .iabs), (0x1B, 0, .A .ineg), (0x1C, 0, .A .iand), (0x1D, 0, .A .ior), 
   (0x1E, 0, .A .ixor), (0x1F, 0, .A .inot), (0x20, 0, .A .shl), (0x21, 0, .A .shr), (0x22, 0, .A .sar), (0x23, 0, .A .rotl), 
   (0x24, 0, .A .bfx), (0x25, 0, .A .bfi), (0x26, 0, .A .popc), (0x27, 0, .A .clz)]

/-- Part 1 of the opcode map (R139) with each form's sub-ops. -/
def opcodeRows1 : List (Nat × Nat × Shape) :=
  [(0x28, 0, .A .brev), (0x29, 0, .A .icmp), (0x2A, 0, .A .sel), (0x2B, 0, .A .lea), (0x2C, 0, .A .mov), (0x2D, 0, .A .movi), 
   (0x2E, 0, .A (.movk 0)), (0x2E, 1, .A (.movk 1)), (0x2E, 2, .A (.movk 2)), (0x2E, 3, .A (.movk 3)), (0x2E, 4, .A (.movk 4)), 
   (0x2E, 5, .A (.movk 5)), (0x2E, 6, .A (.movk 6)), (0x2E, 7, .A (.movk 7)), (0x2F, 0, .A .gets), (0x30, 0, .A .sets), 
   (0x31, 0, .A .plog), (0x32, 0, .A .pmovPk), (0x32, 1, .A .pmovUp), (0x33, 0, .A .uni), (0x33, 1, .A .uniEq), (0x40, 0, .A .fadd), 
   (0x41, 0, .A .fsub), (0x42, 0, .A .fmul), (0x43, 0, .A .fma), (0x44, 0, .A .fmin), (0x45, 0, .A .fmax), (0x46, 0, .A .fcmp), 
   (0x47, 0, .A .fsel), (0x48, 0, .A .fcls), (0x49, 0, .A .fscl), (0x4A, 0, .A .frnd), (0x4B, 0, .A .frcp), (0x4C, 0, .A .frsq), 
   (0x4D, 0, .A .fsqt), (0x4E, 0, .A .fdiv), (0x4F, 0, .A .fexp), (0x50, 0, .A .flog), (0x51, 0, .A .fsin), (0x52, 0, .A .fcos)]

/-- Part 2 of the opcode map (R139) with each form's sub-ops. -/
def opcodeRows2 : List (Nat × Nat × Shape) :=
  [(0x53, 0, .A .ftnh), (0x54, 0, .A .cvif), (0x55, 0, .A .cvfi), (0x56, 0, .A .cvccCc), (0x56, 1, .A .cvccIn), (0x56, 2, .A .cvccOut), 
   (0x57, 0, .A .cadd), (0x58, 0, .A .cfold), (0x59, 0, .A .fdot4), (0x5A, 0, .A .amax), (0x5B, 0, .A .hrandN), (0x5B, 1, .A .hrandP), 
   (0x5B, 2, .A .hrandU), (0x5C, 0, .A .lutb), (0x5D, 0, .A .lutm), (0x5E, 0, .A (.shfl .idx)), (0x5E, 1, .A (.shfl .up)), 
   (0x5E, 2, .A (.shfl .down)), (0x5E, 3, .A (.shfl .xor)), (0x5F, 0, .A (.vote .all)), (0x5F, 1, .A (.vote .any)), 
   (0x5F, 2, .A (.vote .ballot)), (0x5F, 3, .A (.vote .eq)), (0x60, 0, .A (.redw .add)), (0x60, 1, .A (.redw .min)), 
   (0x60, 2, .A (.redw .max)), (0x60, 3, .A (.redw .amax)), (0x61, 0, .A (.scanw .add)), (0x61, 1, .A (.scanw .min)), 
   (0x61, 2, .A (.scanw .max)), (0x61, 3, .A (.scanw .amax)), (0x70, 0, .M .ld), (0x71, 0, .M .st), (0x72, 0, .M .lds), 
   (0x73, 0, .M .sts), (0x74, 0, .M .ldg), (0x75, 0, .M .gwin), (0x76, 0, .M .prfFill), (0x76, 1, .M .prfXlat), 
   (0x77, 0, .M .cctlEvict)]

/-- Part 3 of the opcode map (R139) with each form's sub-ops. -/
def opcodeRows3 : List (Nat × Nat × Shape) :=
  [(0x77, 1, .M .cctlZero), (0x78, 0, .K .cpy), (0x79, 0, .K .cpym), (0x7A, 0, .K .cpygFrom), (0x7A, 1, .K .cpygTo), 
   (0x7A, 2, .K .cpygLoad), (0x7B, 0, .K .cpyxPut), (0x7B, 1, .K .cpyxGet), (0x7C, 0, .S .tlw), (0x7D, 0, .S .tlqDone), 
   (0x7D, 1, .S .tlqIss), (0x7E, 0, .S .tlmk), (0x80, 0, .X .malcWait), (0x80, 1, .X .malcTry), (0x81, 0, .X .mfre), 
   (0x82, 0, .X .mzro), (0x83, 0, .X .meas), (0x84, 0, .X .mcvt), (0x85, 0, .X .mldb), (0x86, 0, .X .mma), (0x87, 0, .X .mmat), 
   (0x88, 0, .X .mdrn), (0x89, 0, .X (.msta 0)), (0x89, 1, .X (.msta 1)), (0x89, 2, .X (.msta 2)), (0x89, 3, .X (.msta 3)), 
   (0x8A, 0, .X .mbatOpen), (0x8A, 1, .X .mbatClose), (0x8B, 0, .X .msvhCopy), (0x8B, 1, .X .msvhEv), (0x8C, 0, .X .mrsh), 
   (0x90, 0, .S .fence), (0x91, 0, .M (.atom .add)), (0x91, 1, .M (.atom .min)), (0x91, 2, .M (.atom .max)), (0x91, 3, .M (.atom .and)), 
   (0x91, 4, .M (.atom .or)), (0x91, 5, .M (.atom .xor)), (0x91, 6, .M (.atom .exch)), (0x91, 7, .M (.atom .incw))]

/-- Part 4 of the opcode map (R139) with each form's sub-ops. -/
def opcodeRows4 : List (Nat × Nat × Shape) :=
  [(0x91, 8, .M (.atom .decw)), (0x92, 0, .M .acas), (0x93, 0, .M (.red .add)), (0x93, 1, .M (.red .min)), (0x93, 2, .M (.red .max)), 
   (0x93, 3, .M (.red .and)), (0x93, 4, .M (.red .or)), (0x93, 5, .M (.red .xor)), (0x94, 0, .M (.fred .add)), 
   (0x94, 1, .M (.fred .min)), (0x94, 2, .M (.fred .max)), (0x95, 0, .S (.rvini false)), (0x95, 1, .S (.rvini true)), 
   (0x96, 0, .S .arv), (0x97, 0, .S .arvb), (0x98, 0, .S .rvwt), (0x99, 0, .S .rvtsT), (0x99, 1, .S .rvtsPh), (0x9A, 0, .S .qiniInit), 
   (0x9A, 1, .S .qiniGrant), (0x9B, 0, .S .qpsh), (0x9C, 0, .S .qpop), (0x9D, 0, .S .qtryPsh), (0x9D, 1, .S .qtryPop), 
   (0x9E, 0, .S .syncm), (0x9F, 0, .S .gsyncWait), (0x9F, 1, .S .gsyncNb), (0xA0, 0, .S .tlsig), (0xA1, 0, .S .launch), 
   (0xB0, 0, .S .trap), (0xB1, 0, .S .eret), (0xB2, 0, .S .csrr), (0xB3, 0, .S .csrw), (0xB4, 0, .S .killw), (0xB5, 0, .S .pause), 
   (0xB6, 0, .S .mirxOff), (0xB6, 1, .S .mirxOn), (0xB6, 2, .S .mirxTest), (0xB7, 0, .S .waitev), (0xB8, 0, .S .rpopn)]

/-- Part 5 of the opcode map (R139) with each form's sub-ops. -/
def opcodeRows5 : List (Nat × Nat × Shape) :=
  [(0xB9, 0, .S .rpseal), (0xBA, 0, .S .rpqrySt), (0xBA, 1, .S .rpqryWt)]

/-- The opcode map of R139. -/
def opcodeRows : List (Nat × Nat × Shape) := opcodeRows0 ++ opcodeRows1 ++ opcodeRows2 ++ opcodeRows3 ++ opcodeRows4 ++ opcodeRows5

/-- The row of an opcode and sub-op. -/
def findRow (opc sub : Nat) : List (Nat × Nat × Shape) → Option Shape
  | [] => none
  | (o, s, sh) :: rest => if o = opc ∧ s = sub then some sh else findRow opc sub rest

/-- The instruction a shape reads from the fields. -/
def Shape.read (r : Raw) : Shape → Option Instr
  | .A mk => (AForm.ofRaw r).map mk
  | .B mk => (BForm.ofRaw r).map mk
  | .M mk => (MForm.ofRaw r).map mk
  | .K mk => (KForm.ofRaw r).map mk
  | .X mk => (XForm.ofRaw r).map mk
  | .S mk => (SForm.ofRaw r).map mk

/-- PFX.CL (R137): every field but GRD and the classes is 0. -/
def pfxClOfRaw (r : Raw) : Option Instr :=
  if r = { r with sub := 0, look := 0, grd := 7, cls := 0, dst := 0, a := r.a % 64, b := r.b % 64, c := r.c % 64, imm := 0, sco := 0, md := 0, fsp := 0 }
  then some (.pfxCl (BitVec.ofNat 6 r.a) (BitVec.ofNat 6 r.b) (BitVec.ofNat 6 r.c)) else none

/-- PFX.RG (R138). -/
def pfxRgOfRaw (r : Raw) : Option Instr :=
  if r = { r with sub := 0, look := 0, grd := 7, cls := 0, dst := 0, b := 0, c := 0, imm := 0, sco := 0, md := 0, fsp := 0 }
  then some (.pfxRg (Spec.ofNat r.a)) else none

/-- The instruction of the fields: layout first, then operand legality (R140). -/
def decodeRaw (r : Raw) : Except Reject Instr :=
  let read : Except Reject Instr :=
    if r.opc = 0xF0 then (match pfxClOfRaw r with | some i => .ok i | none => .error .reserved)
    else if r.opc = 0xF1 then (match pfxRgOfRaw r with | some i => .ok i | none => .error .reserved)
    else match findRow r.opc r.sub opcodeRows with
      | none => .error .opcode
      | some sh => (match sh.read r with | some i => .ok i | none => .error .reserved)
  match read with
  | .ok i => if i.wf then .ok i else .error .operand
  | .error e => .error e

/-- Decoding of a 96-bit slot: total on every word, rejecting by name. -/
def decode (w : Nat) : Except Reject Instr := decodeRaw (Raw.ofWord w)

/-- The fields of a main-set instruction; none for a conservator instruction and for a step of the part, which has no encoding. -/
def Instr.toRaw : Instr → Option Raw
  | .nop f => some (f.toRaw 0x00 0)
  | .bra f => some (f.toRaw 0x01 0)
  | .brc f => some (f.toRaw 0x02 0)
  | .brx f => some (f.toRaw 0x03 0)
  | .call f => some (f.toRaw 0x04 0)
  | .callx f => some (f.toRaw 0x05 0)
  | .ret f => some (f.toRaw 0x06 0)
  | .exit f => some (f.toRaw 0x07 0)
  | .meet f => some (f.toRaw 0x08 0)
  | .join f => some (f.toRaw 0x09 0)
  | .yield f => some (f.toRaw 0x0A 0)
  | .ejcfg f => some (f.toRaw 0x0B 0)
  | .partn f => some (f.toRaw 0x0C 0)
  | .idemOn f => some (f.toRaw 0x0D 0)
  | .idemOff f => some (f.toRaw 0x0D 1)
  | .iadd f => some (f.toRaw 0x10 0)
  | .isub f => some (f.toRaw 0x11 0)
  | .iadc f => some (f.toRaw 0x12 0)
  | .iadcSb f => some (f.toRaw 0x12 1)
  | .imul f => some (f.toRaw 0x13 0)
  | .imulh f => some (f.toRaw 0x14 0)
  | .imad f => some (f.toRaw 0x15 0)
  | .idiv f => some (f.toRaw 0x16 0)
  | .irem f => some (f.toRaw 0x17 0)
  | .imin f => some (f.toRaw 0x18 0)
  | .imax f => some (f.toRaw 0x19 0)
  | .iabs f => some (f.toRaw 0x1A 0)
  | .ineg f => some (f.toRaw 0x1B 0)
  | .iand f => some (f.toRaw 0x1C 0)
  | .ior f => some (f.toRaw 0x1D 0)
  | .ixor f => some (f.toRaw 0x1E 0)
  | .inot f => some (f.toRaw 0x1F 0)
  | .shl f => some (f.toRaw 0x20 0)
  | .shr f => some (f.toRaw 0x21 0)
  | .sar f => some (f.toRaw 0x22 0)
  | .rotl f => some (f.toRaw 0x23 0)
  | .bfx f => some (f.toRaw 0x24 0)
  | .bfi f => some (f.toRaw 0x25 0)
  | .popc f => some (f.toRaw 0x26 0)
  | .clz f => some (f.toRaw 0x27 0)
  | .brev f => some (f.toRaw 0x28 0)
  | .icmp f => some (f.toRaw 0x29 0)
  | .sel f => some (f.toRaw 0x2A 0)
  | .lea f => some (f.toRaw 0x2B 0)
  | .mov f => some (f.toRaw 0x2C 0)
  | .movi f => some (f.toRaw 0x2D 0)
  | .movk lane f => some (f.toRaw 0x2E lane.toNat)
  | .gets f => some (f.toRaw 0x2F 0)
  | .sets f => some (f.toRaw 0x30 0)
  | .plog f => some (f.toRaw 0x31 0)
  | .pmovPk f => some (f.toRaw 0x32 0)
  | .pmovUp f => some (f.toRaw 0x32 1)
  | .uni f => some (f.toRaw 0x33 0)
  | .uniEq f => some (f.toRaw 0x33 1)
  | .fadd f => some (f.toRaw 0x40 0)
  | .fsub f => some (f.toRaw 0x41 0)
  | .fmul f => some (f.toRaw 0x42 0)
  | .fma f => some (f.toRaw 0x43 0)
  | .fmin f => some (f.toRaw 0x44 0)
  | .fmax f => some (f.toRaw 0x45 0)
  | .fcmp f => some (f.toRaw 0x46 0)
  | .fsel f => some (f.toRaw 0x47 0)
  | .fcls f => some (f.toRaw 0x48 0)
  | .fscl f => some (f.toRaw 0x49 0)
  | .frnd f => some (f.toRaw 0x4A 0)
  | .frcp f => some (f.toRaw 0x4B 0)
  | .frsq f => some (f.toRaw 0x4C 0)
  | .fsqt f => some (f.toRaw 0x4D 0)
  | .fdiv f => some (f.toRaw 0x4E 0)
  | .fexp f => some (f.toRaw 0x4F 0)
  | .flog f => some (f.toRaw 0x50 0)
  | .fsin f => some (f.toRaw 0x51 0)
  | .fcos f => some (f.toRaw 0x52 0)
  | .ftnh f => some (f.toRaw 0x53 0)
  | .cvif f => some (f.toRaw 0x54 0)
  | .cvfi f => some (f.toRaw 0x55 0)
  | .cvccCc f => some (f.toRaw 0x56 0)
  | .cvccIn f => some (f.toRaw 0x56 1)
  | .cvccOut f => some (f.toRaw 0x56 2)
  | .cadd f => some (f.toRaw 0x57 0)
  | .cfold f => some (f.toRaw 0x58 0)
  | .fdot4 f => some (f.toRaw 0x59 0)
  | .amax f => some (f.toRaw 0x5A 0)
  | .hrandN f => some (f.toRaw 0x5B 0)
  | .hrandP f => some (f.toRaw 0x5B 1)
  | .hrandU f => some (f.toRaw 0x5B 2)
  | .lutb f => some (f.toRaw 0x5C 0)
  | .lutm f => some (f.toRaw 0x5D 0)
  | .shfl op f => some (f.toRaw 0x5E op.code)
  | .vote op f => some (f.toRaw 0x5F op.code)
  | .redw op f => some (f.toRaw 0x60 op.code)
  | .scanw op f => some (f.toRaw 0x61 op.code)
  | .ld f => some (f.toRaw 0x70 0)
  | .st f => some (f.toRaw 0x71 0)
  | .lds f => some (f.toRaw 0x72 0)
  | .sts f => some (f.toRaw 0x73 0)
  | .ldg f => some (f.toRaw 0x74 0)
  | .gwin f => some (f.toRaw 0x75 0)
  | .prfFill f => some (f.toRaw 0x76 0)
  | .prfXlat f => some (f.toRaw 0x76 1)
  | .cctlEvict f => some (f.toRaw 0x77 0)
  | .cctlZero f => some (f.toRaw 0x77 1)
  | .cpy f => some (f.toRaw 0x78 0)
  | .cpym f => some (f.toRaw 0x79 0)
  | .cpygFrom f => some (f.toRaw 0x7A 0)
  | .cpygTo f => some (f.toRaw 0x7A 1)
  | .cpygLoad f => some (f.toRaw 0x7A 2)
  | .cpyxPut f => some (f.toRaw 0x7B 0)
  | .cpyxGet f => some (f.toRaw 0x7B 1)
  | .tlw f => some (f.toRaw 0x7C 0)
  | .tlqDone f => some (f.toRaw 0x7D 0)
  | .tlqIss f => some (f.toRaw 0x7D 1)
  | .tlmk f => some (f.toRaw 0x7E 0)
  | .malcWait f => some (f.toRaw 0x80 0)
  | .malcTry f => some (f.toRaw 0x80 1)
  | .mfre f => some (f.toRaw 0x81 0)
  | .mzro f => some (f.toRaw 0x82 0)
  | .meas f => some (f.toRaw 0x83 0)
  | .mcvt f => some (f.toRaw 0x84 0)
  | .mldb f => some (f.toRaw 0x85 0)
  | .mma f => some (f.toRaw 0x86 0)
  | .mmat f => some (f.toRaw 0x87 0)
  | .mdrn f => some (f.toRaw 0x88 0)
  | .msta word f => some (f.toRaw 0x89 word.toNat)
  | .mbatOpen f => some (f.toRaw 0x8A 0)
  | .mbatClose f => some (f.toRaw 0x8A 1)
  | .msvhCopy f => some (f.toRaw 0x8B 0)
  | .msvhEv f => some (f.toRaw 0x8B 1)
  | .mrsh f => some (f.toRaw 0x8C 0)
  | .fence f => some (f.toRaw 0x90 0)
  | .atom op f => some (f.toRaw 0x91 op.code)
  | .acas f => some (f.toRaw 0x92 0)
  | .red op f => some (f.toRaw 0x93 op.code)
  | .fred op f => some (f.toRaw 0x94 op.code)
  | .rvini b f => some (f.toRaw 0x95 b.toNat)
  | .arv f => some (f.toRaw 0x96 0)
  | .arvb f => some (f.toRaw 0x97 0)
  | .rvwt f => some (f.toRaw 0x98 0)
  | .rvtsT f => some (f.toRaw 0x99 0)
  | .rvtsPh f => some (f.toRaw 0x99 1)
  | .qiniInit f => some (f.toRaw 0x9A 0)
  | .qiniGrant f => some (f.toRaw 0x9A 1)
  | .qpsh f => some (f.toRaw 0x9B 0)
  | .qpop f => some (f.toRaw 0x9C 0)
  | .qtryPsh f => some (f.toRaw 0x9D 0)
  | .qtryPop f => some (f.toRaw 0x9D 1)
  | .syncm f => some (f.toRaw 0x9E 0)
  | .gsyncWait f => some (f.toRaw 0x9F 0)
  | .gsyncNb f => some (f.toRaw 0x9F 1)
  | .tlsig f => some (f.toRaw 0xA0 0)
  | .launch f => some (f.toRaw 0xA1 0)
  | .trap f => some (f.toRaw 0xB0 0)
  | .eret f => some (f.toRaw 0xB1 0)
  | .csrr f => some (f.toRaw 0xB2 0)
  | .csrw f => some (f.toRaw 0xB3 0)
  | .killw f => some (f.toRaw 0xB4 0)
  | .pause f => some (f.toRaw 0xB5 0)
  | .mirxOff f => some (f.toRaw 0xB6 0)
  | .mirxOn f => some (f.toRaw 0xB6 1)
  | .mirxTest f => some (f.toRaw 0xB6 2)
  | .waitev f => some (f.toRaw 0xB7 0)
  | .rpopn f => some (f.toRaw 0xB8 0)
  | .rpseal f => some (f.toRaw 0xB9 0)
  | .rpqrySt f => some (f.toRaw 0xBA 0)
  | .rpqryWt f => some (f.toRaw 0xBA 1)
  | .pfxCl ca cb cc => some { opc := 0xF0, sub := 0, look := 0, grd := 7, cls := 0, dst := 0, a := ca.toNat, b := cb.toNat, c := cc.toNat,
                              imm := 0, sco := 0, md := 0, fsp := 0 }
  | .pfxRg a => some { opc := 0xF1, sub := 0, look := 0, grd := 7, cls := 0, dst := 0, a := a.toNat, b := 0, c := 0, imm := 0, sco := 0,
                       md := 0, fsp := 0 }
  | _ => none

/-- The 96-bit word of a main-set instruction. -/
def encode (i : Instr) : Option Nat := i.toRaw.map Raw.toWord

/-- Conservator fields of a 64-bit word (R386); bits [39:38] and [33:32] must be 0. -/
def NForm.ofWord (w : Nat) : Option NForm :=
  if w / 2 ^ 38 % 4 = 0 ∧ w / 2 ^ 32 % 4 = 0 then
    some { d := BitVec.ofNat 4 (w / 2 ^ 54), a := BitVec.ofNat 4 (w / 2 ^ 50), b := BitVec.ofNat 4 (w / 2 ^ 46), c := BitVec.ofNat 4 (w / 2 ^ 42),
           inc := natBit w 41, ar := natBit w 40, sub := BitVec.ofNat 4 (w / 2 ^ 34), imm := BitVec.ofNat 32 w }
  else none

/-- The 64-bit word of conservator fields under an opcode (R386). -/
def NForm.toWord (f : NForm) (op : Nat) : Nat :=
  op * 2 ^ 58 + f.d.toNat * 2 ^ 54 + f.a.toNat * 2 ^ 50 + f.b.toNat * 2 ^ 46 + f.c.toNat * 2 ^ 42 + f.inc.toNat * 2 ^ 41 + f.ar.toNat * 2 ^ 40
    + f.sub.toNat * 2 ^ 34 + f.imm.toNat

/-- The conservator form of an opcode (R386). -/
def consForm (op : Nat) (f : NForm) : Option Instr :=
  match op with
  | 1 => some (.nld f)
  | 2 => some (.nst f)
  | 3 => some (if f.ar then .naddAddr f else .nadd f)
  | 4 => some (.nmul f)
  | 5 => some (.nfma f)
  | 6 => some (.ndiv f)
  | 7 => some (.nsqt f)
  | 8 => some (.nrsq f)
  | 9 => some (.nmax f)
  | 10 => some (.nmin f)
  | 11 => some (.nscl f)
  | 12 => some (.ncvt f)
  | 13 => some (.nloop f)
  | 14 => some (.nbrz f)
  | 15 => some (.nsig f)
  | 16 => some (.nwait f)
  | 17 => some (.ndone f)
  | _ => none

/-- Decoding of a conservator word: total, rejecting by name (R387). -/
def decodeCons (w : Nat) : Except Reject Instr :=
  match NForm.ofWord w with
  | none => .error .reserved
  | some f =>
    match consForm (w / 2 ^ 58 % 64) f with
    | none => .error .opcode
    | some i => if i.wf then .ok i else .error .operand

/-- The 64-bit word of a conservator instruction. -/
def encodeCons : Instr → Option Nat
  | .nld f => some (f.toWord 1)
  | .nst f => some (f.toWord 2)
  | .nadd f => some (f.toWord 3)
  | .naddAddr f => some (f.toWord 3)
  | .nmul f => some (f.toWord 4)
  | .nfma f => some (f.toWord 5)
  | .ndiv f => some (f.toWord 6)
  | .nsqt f => some (f.toWord 7)
  | .nrsq f => some (f.toWord 8)
  | .nmax f => some (f.toWord 9)
  | .nmin f => some (f.toWord 10)
  | .nscl f => some (f.toWord 11)
  | .ncvt f => some (f.toWord 12)
  | .nloop f => some (f.toWord 13)
  | .nbrz f => some (f.toWord 14)
  | .nsig f => some (f.toWord 15)
  | .nwait f => some (f.toWord 16)
  | .ndone f => some (f.toWord 17)
  | _ => none

/-- The instruction the decoder reads from a word numbered as the opcode table numbers it: 64 bits is a conservator word, any other length a main-set slot. -/
def decodeTableWord (nbits w : Nat) : Option Instr :=
  match (if nbits = 64 then decodeCons (w % 2 ^ 64) else decode (w % 2 ^ 96)) with
  | .ok i => some i
  | .error _ => none

/-- A number from bytes, lowest address first (R5). -/
def leNat : List Byte → Nat
  | [] => 0
  | b :: bs => b.toNat + 256 * leNat bs

/-- n bytes of a number, lowest first (R5). -/
def leBytes : Nat → Nat → List Byte
  | 0, _ => []
  | n + 1, x => BitVec.ofNat 8 x :: leBytes n (x / 256)

/-- Slot s of a 64-byte line (R118). -/
def lineSlot (line : List Byte) (s : Nat) : Nat := leNat ((line.drop (12 * s)).take 12)
/-- The line word (R118). -/
def lineWord (line : List Byte) : Nat := leNat ((line.drop 60).take 4)
/-- PAIR bit k (R119). -/
def linePair (lw k : Nat) : Bool := natBit lw (20 + k)
/-- TGT bit s (R119). -/
def lineTgt (lw s : Nat) : Bool := natBit lw (15 + s)
/-- KIND (R119). -/
def lineKind (lw : Nat) : Nat := lw / 2 ^ 12 % 8
/-- Exclusive OR of the bits of a byte. -/
def byteParity (b : Byte) : Bool := (List.range 8).foldl (fun p k => p != b.getLsbD k) false
/-- PAR[i] computed over bytes 0 to 62 (R120). -/
def parityBit (line : List Byte) (i : Nat) : Bool :=
  (List.range 8).foldl (fun p m => if 8 * m + i < 63 then p != byteParity (line.getD (8 * m + i) 0) else p) false
/-- All eight parity bits agree (R120). -/
def lineParityOk (line : List Byte) : Bool :=
  (List.range 8).all fun i => parityBit line i == natBit (lineWord line) (24 + i)
/-- A slot holds a prefix opcode. -/
def isPrefixWord (w : Nat) : Bool := w / 2 ^ 88 % 256 == 0xF0 || w / 2 ^ 88 % 256 == 0xF1
/-- The line is malformed (R122). -/
def lineMalformed (line : List Byte) : Bool :=
  let lw := lineWord line
  (List.range 3).any (fun k => linePair lw k && linePair lw (k + 1))
    || (List.range 4).any (fun k => linePair lw k && lineTgt lw (k + 1))
    || (List.range 4).any (fun k => isPrefixWord (lineSlot line k) && lineTgt lw (k + 1))
    || lw % 2 ^ 12 != 0

end Sys2Proof
end

