-- ==== Sys2Proof/Machine/Cells.lean ====
section
/-! DEFINITION. Sparse maps in canonical form, and byte memory over them: what an unlisted byte reads as, reads and writes of several bytes in the part's one byte order (spec/00_scope.md R5). -/

namespace Sys2Proof.Machine

open Sys2Proof

/-- The value at key k; d where nothing is listed. -/
def Cells.get {α : Type} (d : α) : Cells α → Nat → α
  | [], _ => d
  | (a, x) :: m, k => if a = k then x else Cells.get d m k

/-- The map without key k. -/
def Cells.erase {α : Type} : Cells α → Nat → Cells α
  | [], _ => []
  | (a, x) :: m, k => if a = k then Cells.erase m k else (a, x) :: Cells.erase m k

/-- An entry placed before the first larger key. -/
def Cells.insert {α : Type} (k : Nat) (x : α) : Cells α → Cells α
  | [] => [(k, x)]
  | (a, y) :: m => if k < a then (k, x) :: (a, y) :: m else (a, y) :: Cells.insert k x m

/-- The map with x at key k: an entry equal to the default d is not listed. -/
def Cells.set {α : Type} [DecidableEq α] (d : α) (m : Cells α) (k : Nat) (x : α) : Cells α :=
  if x = d then Cells.erase m k else Cells.insert k x (Cells.erase m k)

/-- The map with the entry at k changed by f. -/
def Cells.modify {α : Type} [DecidableEq α] (d : α) (m : Cells α) (k : Nat) (f : α → α) : Cells α :=
  Cells.set d m k (f (Cells.get d m k))

/-- Every key of the map, rising. -/
def Cells.keys {α : Type} (m : Cells α) : List Nat := m.map (·.1)

/-- Keys strictly rise from at least lo, and no entry equals d. -/
def Cells.wfFrom {α : Type} [DecidableEq α] (d : α) : Nat → Cells α → Bool
  | _, [] => true
  | lo, (a, x) :: m => decide (lo ≤ a) && decide (x ≠ d) && Cells.wfFrom d (a + 1) m

/-- The canonical form of a sparse map. -/
def Cells.wf {α : Type} [DecidableEq α] (d : α) (m : Cells α) : Bool := Cells.wfFrom d 0 m

/-- What a byte of memory that nothing has written reads as (log 2, DESIGN CHOICE). -/
def emptyByte : Byte := 0

/-- The canonical form of byte memory. -/
def Memory.wf (m : Cells Byte) : Bool := Cells.wf emptyByte m

/-- One byte. -/
def readByte (m : Cells Byte) (a : Nat) : Byte := Cells.get emptyByte m a

/-- One byte written. -/
def writeByte (m : Cells Byte) (a : Nat) (b : Byte) : Cells Byte := Cells.set emptyByte m a b

/-- n bytes from a. -/
def readBytes (m : Cells Byte) (a : Nat) : Nat → List Byte
  | 0 => []
  | n + 1 => readByte m a :: readBytes m (a + 1) n

/-- Bytes written from a upward. -/
def writeBytes (m : Cells Byte) (a : Nat) : List Byte → Cells Byte
  | [] => m
  | b :: bs => writeBytes (writeByte m a b) (a + 1) bs

/-- n bytes as a little-endian number (R5). -/
def readLe (m : Cells Byte) (a n : Nat) : Nat := leNat (readBytes m a n)

/-- A field of a byte list: n bytes at offset o. -/
def fieldAt (bs : List Byte) (o n : Nat) : Nat := leNat ((bs.drop o).take n)

/-- Every byte of a range of a byte list is 0. -/
def zeroAt (bs : List Byte) (o n : Nat) : Bool := ((bs.drop o).take n).all (· == 0)

/-- Bits [hi:lo] of a number. -/
def bits (x hi lo : Nat) : Nat := x / 2 ^ lo % 2 ^ (hi + 1 - lo)

/-- x with bits [hi:lo] replaced. -/
def setBits (x hi lo v : Nat) : Nat :=
  x - bits x hi lo * 2 ^ lo + v % 2 ^ (hi + 1 - lo) * 2 ^ lo

/-- x placed before the first element whose key is not smaller. -/
def insertOn {α : Type} (key : α → Nat) (x : α) : List α → List α
  | [] => [x]
  | y :: l => if key x ≤ key y then x :: y :: l else y :: insertOn key x l

/-- A list in rising order of a key; equal keys keep their order. -/
def sortOn {α : Type} (key : α → Nat) : List α → List α
  | [] => []
  | x :: l => insertOn key x (sortOn key l)

/-- A 0 or 1. -/
def b2n (b : Bool) : Nat := if b then 1 else 0

end Sys2Proof.Machine
end

