-- ==== Sys2Proof/Machine/Reals.lean ====
section
/-! DEFINITION. Exact values, formats, rounding and conversion (spec/03_number_formats.md R51 to R63, R68), bit by bit. A finite value is an exact fraction num / den, so every rounding is of the exact result. -/

namespace Sys2Proof.Machine

open Sys2Proof

/-- A value as an instruction reads it: a NaN with sign, cause bits and quietness; an infinity; or a fraction. neg is the sign, which a zero keeps (R54, R55). den is never 0. -/
inductive RVal
  | nan (neg : Bool) (cause : Nat) (quiet : Bool)
  | inf (neg : Bool)
  | fin (neg : Bool) (num den : Nat)
  deriving DecidableEq, Repr

/-- Outcome flags at the bit positions of VSTAT (R52, R207). -/
structure Flg where
  invalid : Bool := false
  dz : Bool := false
  breach : Bool := false
  nanl : Bool := false
  unf : Bool := false
  sat : Bool := false
  inexact : Bool := false
  deriving DecidableEq, Repr

/-- Union of flags. -/
def Flg.or (a b : Flg) : Flg where
  invalid := a.invalid || b.invalid
  dz := a.dz || b.dz
  breach := a.breach || b.breach
  nanl := a.nanl || b.nanl
  unf := a.unf || b.unf
  sat := a.sat || b.sat
  inexact := a.inexact || b.inexact

/-- The flags as VSTAT bits (R207). -/
def Flg.bits (f : Flg) : W32 :=
  BitVec.ofNat 32 (b2n f.invalid * 64 + b2n f.dz * 32 + b2n f.breach * 16 + b2n f.nanl * 8 + b2n f.unf * 4 + b2n f.sat * 2 + b2n f.inexact)

/-- A generated NaN of a cause (R54). -/
def genNan (cause : Nat) : RVal := .nan false cause true

/-- The sign of a value. -/
def RVal.sign : RVal → Bool
  | .nan s _ _ => s
  | .inf s => s
  | .fin s _ _ => s

/-- A NaN. -/
def RVal.isNan : RVal → Bool
  | .nan _ _ _ => true
  | _ => false

/-- A finite zero of either sign. -/
def RVal.isZero : RVal → Bool
  | .fin _ n _ => n == 0
  | _ => false

/-- A finite value from a signed fraction; a zero is +0. -/
def ofRat (n : Int) (d : Nat) : RVal := .fin (decide (n < 0)) n.natAbs d

/-- Signed numerator. -/
def RVal.snum : RVal → Int
  | .fin s n _ => if s then -(n : Int) else n
  | _ => 0

/-- Denominator. -/
def RVal.den : RVal → Nat
  | .fin _ _ d => d
  | _ => 1

/-- The same magnitude with another sign. -/
def RVal.withSign (s : Bool) : RVal → RVal
  | .nan _ c q => .nan s c q
  | .inf _ => .inf s
  | .fin _ n d => .fin s n d

/-- x × 2^e. -/
def scale2 (n d : Nat) (e : Int) : Nat × Nat :=
  if e ≥ 0 then (n * 2 ^ e.toNat, d) else (n, d * 2 ^ (-e).toNat)

/-- Exact a × 2^e. -/
def RVal.mul2 (x : RVal) (e : Int) : RVal :=
  match x with
  | .fin s n d => let (n', d') := scale2 n d e; .fin s n' d'
  | y => y

/-- Nearest integer to n / d, ties to even. -/
def rneDiv (n d : Nat) : Nat :=
  let q := n / d
  let r := n % d
  if 2 * r < d then q else if d < 2 * r then q + 1 else q + q % 2

/-- ⌊log2 (n / d)⌋ for n > 0: the largest e with 2^e ≤ n / d. -/
def floorLog2 (n d : Nat) : Int :=
  let e : Int := (Nat.log2 n : Int) - Nat.log2 d
  let (a, b) := scale2 d 1 e
  if a ≤ n * b then e else e - 1

/-- CEIL_LOG2: the least t with n / d ≤ 2^t, n > 0 (R68). -/
def ceilLog2 (n d : Nat) : Int :=
  let e := floorLog2 n d
  let (a, b) := scale2 d 1 e
  if n * b = a then e else e + 1

/-- A floating layout: exponent and mantissa widths, bias, and what the top codes mean (R55, R57). -/
structure FFmt where
  ew : Nat
  mw : Nat
  bias : Int
  maxE : Nat
  maxM : Nat
  inf : Bool
  nan : Bool
  cause : Bool
  deriving DecidableEq, Repr

/-- The layouts of R55 and R57 by format code. KB16 and codes without a layout of their own answer FP32's. -/
def ffmt : Nat → FFmt
  | 0x02 => ⟨8, 7, 127, 254, 127, true, true, true⟩
  | 0x03 => ⟨5, 10, 15, 30, 1023, true, true, true⟩
  | 0x05 => ⟨5, 2, 15, 30, 3, true, true, false⟩
  | 0x06 => ⟨4, 3, 7, 15, 6, false, true, false⟩
  | 0x07 => ⟨3, 2, 3, 7, 3, false, false, false⟩
  | 0x08 => ⟨2, 3, 1, 3, 7, false, false, false⟩
  | 0x09 => ⟨2, 1, 1, 3, 1, false, false, false⟩
  | _ => ⟨8, 23, 127, 254, 8388607, true, true, true⟩

/-- Format codes with saturating infinities: FP32, BF16, FP16 overflow to infinity (R52). -/
def overflowsToInf (code : Nat) : Bool := code == 0x01 || code == 0x02 || code == 0x03

/-- Bits per element of a vector or narrow format (R51). -/
def fmtBits (code : Nat) : Nat :=
  if code = 0x04 then 32 else let f := ffmt code; 1 + f.ew + f.mw

/-- The magnitude of exponent field e and mantissa field m (R57). -/
def ffVal (f : FFmt) (e m : Nat) : Nat × Nat :=
  if e = 0 then scale2 m 1 (1 - f.bias - f.mw) else scale2 (2 ^ f.mw + m) 1 (e - f.bias - f.mw)

/-- DECODE of one element: exact; a narrow NaN is quiet with cause 1 (R55, R57, R59). -/
def decodeFF (code : Nat) (x : Nat) : RVal :=
  let f := ffmt code
  let s := natBit x (f.ew + f.mw)
  let e := x / 2 ^ f.mw % 2 ^ f.ew
  let m := x % 2 ^ f.mw
  if f.cause && e == 2 ^ f.ew - 1 then
    if m = 0 then .inf s else .nan s (m % 16) (natBit m (f.mw - 1))
  else if code = 0x05 && e == 31 then (if m = 0 then .inf s else .nan s 1 true)
  else if code = 0x06 && e == 15 && m == 7 then .nan s 1 true
  else let (n, d) := ffVal f e m; .fin s n d

/-- A nonzero finite magnitude rounded to nearest even at the format's precision with gradual underflow and unbounded top exponent (R52): as mantissa × 2^exponent. -/
def rneFF (f : FFmt) (n d : Nat) : Nat × Int :=
  let e := max (floorLog2 n d) (1 - f.bias)
  let u := e - f.mw
  let (a, b) := scale2 n d (-u)
  (rneDiv a b, u)

/-- MAXF(F) as mantissa and exponent of two (R52). -/
def maxFF (f : FFmt) : Nat × Int := (2 ^ f.mw + f.maxM, f.maxE - f.bias - f.mw)

/-- Compare m1 × 2^e1 < m2 × 2^e2. -/
def ltScaled (m1 : Nat) (e1 : Int) (m2 : Nat) (e2 : Int) : Bool :=
  if e1 ≤ e2 then m1 < m2 * 2 ^ (e2 - e1).toNat else m1 * 2 ^ (e1 - e2).toNat < m2

/-- The encoding of mantissa × 2^exponent, which the format holds exactly. -/
def packFF (f : FFmt) (s : Bool) (m : Nat) (u : Int) : Nat :=
  let sgn := if s then 2 ^ (f.ew + f.mw) else 0
  if m = 0 then sgn
  else
    let e := max ((Nat.log2 m : Int) + u) (1 - f.bias)
    let sh := e - f.mw
    let mant := if u ≥ sh then m * 2 ^ (u - sh).toNat else m / 2 ^ (sh - u).toNat
    if mant < 2 ^ f.mw then sgn + mant else sgn + (e + f.bias).toNat * 2 ^ f.mw + mant % 2 ^ f.mw

/-- The cause a NaN source hands on (R54). -/
def causeOf (c : Nat) (quiet : Bool) : Nat := if quiet && 1 ≤ c && c ≤ 5 then c else 1

/-- NAN_OF(x, F) into a format with a NaN encoding (R54). -/
def nanFF (code : Nat) (s : Bool) (cause : Nat) : Nat :=
  let f := ffmt code
  let sgn := if s then 2 ^ (f.ew + f.mw) else 0
  if f.cause then sgn + (2 ^ f.ew - 1) * 2 ^ f.mw + 2 ^ (f.mw - 1) + cause
  else sgn + (2 ^ (f.ew + f.mw) - 1)

/-- The encoding of a signed infinity. -/
def infFF (code : Nat) (s : Bool) : Nat :=
  let f := ffmt code
  (if s then 2 ^ (f.ew + f.mw) else 0) + (2 ^ f.ew - 1) * 2 ^ f.mw

/-- The encoding of sign × MAXF(F). -/
def maxEnc (code : Nat) (s : Bool) : Nat :=
  let f := ffmt code
  let (m, u) := maxFF f
  packFF f s m u

/-- CONVERT(x, F) for a floating layout; flush selects FLUSH(F) (R52, R53). -/
def convertFF (flush : Bool) (code : Nat) (x : RVal) : Nat × Flg :=
  let f := ffmt code
  match x with
  | .nan s c q => if f.nan then (nanFF code s (causeOf c q), {}) else (maxEnc code s, { nanl := true })
  | .inf s => if f.inf then (infFF code s, {}) else (maxEnc code s, { sat := true })
  | .fin s n d =>
    if n = 0 then (packFF f s 0 0, {})
    else
      let (m, u) := rneFF f n d
      let (a, b) := scale2 m 1 u
      let ix := decide (a * d ≠ n * b)
      let (mm, mu) := maxFF f
      if ltScaled mm mu m u then
        ((if overflowsToInf code then infFF code s else maxEnc code s), { sat := true, inexact := ix })
      else if m = 0 then (packFF f s 0 0, { unf := true, inexact := ix })
      else if flush && ltScaled m u 1 (1 - f.bias) then (packFF f s 0 0, { unf := true, inexact := ix })
      else (packFF f s m u, { inexact := ix })

/-- Exact sum of two finite values, a zero sum being +0 unless every addend is −0 (R210). -/
def addFin (x y : RVal) : RVal :=
  let n := x.snum * y.den + y.snum * x.den
  if n = 0 then .fin (x.sign && y.sign && x.isZero && y.isZero) 0 1 else ofRat n (x.den * y.den)

/-- The value of a KB16 pair (R56). -/
def decodeKB (w : Nat) : RVal :=
  let hi := decodeFF 0x02 (w / 65536 % 65536)
  let lo := decodeFF 0x02 (w % 65536)
  match hi, lo with
  | .nan s c q, _ => .nan s c q
  | .inf s, _ => .inf s
  | .fin s n d, .fin s' n' d' => if n = 0 ∧ n' = 0 then .fin s 0 1 else addFin (.fin s n d) (.fin s' n' d')
  | _, _ => genNan 5

/-- The value of an encoding of a vector or narrow format. -/
def decodeF (code : Nat) (x : Nat) : RVal := if code = 0x04 then decodeKB x else decodeFF code x

/-- Exact difference of finite values. -/
def subFin (x y : RVal) : RVal := addFin x (y.withSign (!y.sign))

/-- CONVERT(x, KB16): HI := RNE(x, BF16), LO := RNE(x − HI, BF16); INEXACT when HI + LO ≠ x (R205). Each half is flushed after both are rounded (R53). A NaN or infinite HI takes LO +0 (R56); a HI that overflows is a BF16 and becomes infinite (R52; DEDUCED, log 109). -/
def convertKB (flush : Bool) (x : RVal) : Nat × Flg :=
  let (hi, fh) := convertFF flush 0x02 x
  let hr := (convertFF false 0x02 x).1
  match decodeFF 0x02 hr with
  | .fin s n d =>
    (match x with
      | .fin _ _ _ =>
        let r := subFin x (.fin s n d)
        let r := if r.isZero then RVal.fin false 0 1 else r
        let (lo, fl) := convertFF flush 0x02 r
        let exact := decodeKB (hr * 65536 + (convertFF false 0x02 r).1)
        (hi * 65536 + lo, { fh.or fl with inexact := decide (exact.snum * x.den ≠ x.snum * exact.den) })
      | _ => (hi * 65536, fh))
  | _ => (hi * 65536, fh)

/-- CONVERT(x, F) into a vector or narrow format (R52, R205). -/
def convert (flush : Bool) (code : Nat) (x : RVal) : Nat × Flg :=
  if code = 0x04 then convertKB flush x else convertFF flush code x

/-- Compare two finite values or infinities exactly: −1, 0 or 1, a zero equal to any zero. -/
def cmpVal : RVal → RVal → Int
  | .inf s, .inf s' => if s == s' then 0 else if s then -1 else 1
  | .inf s, _ => if s then -1 else 1
  | _, .inf s => if s then 1 else -1
  | x, y => let l := x.snum * y.den; let r := y.snum * x.den; if l < r then -1 else if l = r then 0 else 1

/-- The first NaN of operands in order (R54). -/
def firstNan : List RVal → Option RVal
  | [] => none
  | .nan s c q :: _ => some (.nan s (causeOf c q) true)
  | _ :: r => firstNan r

/-- Result of an exact operation: value and the flags of its own cases. -/
abbrev Res := RVal × Flg

/-- A generated NaN with INVALID (R210). -/
def invalidRes (cause : Nat) : Res := (genNan cause, { invalid := true })

/-- a + b over infinities (R210). -/
def addInf : RVal → RVal → Res
  | .inf s, .inf s' => if s == s' then (.inf s, {}) else invalidRes 3
  | .inf s, _ => (.inf s, {})
  | _, .inf s => (.inf s, {})
  | x, y => (addFin x y, {})

/-- FADD (R210). -/
def rAdd (a b : RVal) : Res :=
  match firstNan [a, b] with
  | some n => (n, {})
  | none => addInf a b

/-- FSUB: b's sign is not changed when it is a NaN (R210). -/
def rSub (a b : RVal) : Res :=
  match firstNan [a, b] with
  | some n => (n, {})
  | none => addInf a (b.withSign (!b.sign))

/-- Exact product without NaN operands. -/
def mulInf : RVal → RVal → Res
  | .fin s n d, .fin s' n' d' => (.fin (s != s') (n * n') (d * d'), {})
  | x, y => if x.isZero || y.isZero then invalidRes 4 else (.inf (x.sign != y.sign), {})

/-- FMUL (R210). -/
def rMul (a b : RVal) : Res :=
  match firstNan [a, b] with
  | some n => (n, {})
  | none => mulInf a b

/-- FMA: one rounding of a × b + c (R210). -/
def rFma (a b c : RVal) : Res :=
  match firstNan [a, b, c] with
  | some n => (n, {})
  | none =>
    let (p, f) := mulInf a b
    if p.isNan then (p, f) else addInf p c

/-- FDIV (R210). -/
def rDiv (a b : RVal) : Res :=
  match firstNan [a, b] with
  | some n => (n, {})
  | none =>
    match a, b with
    | .inf _, .inf _ => invalidRes 5
    | .inf s, y => (.inf (s != y.sign), {})
    | x, .inf s => (.fin (x.sign != s) 0 1, {})
    | .fin s n d, .fin s' n' d' =>
      if n' = 0 then (if n = 0 then invalidRes 5 else (.inf (s != s'), { dz := true }))
      else (.fin (s != s') (n * d') (d * n'), {})
    | x, _ => (x, {})

/-- FSCL: a × 2^B (R210). -/
def rScl (a : RVal) (e : Int) : Res :=
  match firstNan [a] with
  | some n => (n, {})
  | none => (a.mul2 e, {})

/-- FMIN and FMAX: −0 below +0; one NaN gives the other operand (R211). -/
def rMinMax (wantMax : Bool) (a b : RVal) : Res :=
  if a.isNan && b.isNan then ((firstNan [a, b]).getD a, {})
  else if a.isNan then (b, {})
  else if b.isNan then (a, {})
  else
    let c := cmpVal a b
    let less := decide (c < 0) || (decide (c = 0) && a.sign && !b.sign)
    let more := decide (c > 0) || (decide (c = 0) && !a.sign && b.sign)
    let aFirst := if wantMax then !less else !more
    (if aFirst then a else b, {})

/-- AMAX: max(|a|, |b|), a NaN with sign 0 (R211). -/
def rAmax (a b : RVal) : Res :=
  match firstNan [a, b] with
  | some n => (n.withSign false, {})
  | none => (if cmpVal (a.withSign false) (b.withSign false) < 0 then b.withSign false else a.withSign false, {})

/-- An integer square root bracket: value r with r² ≤ n, and whether it is exact. The value n / d scaled so that rounding at any format of the part is that of the exact root: 2^320 scaling leaves the sticky half bit in the numerator. -/
def sqrtScaled (n d : Nat) : Nat × Nat :=
  let k := 320
  let q := n * 2 ^ (2 * k) / d
  let r := Nat.sqrt q
  let exact := decide (r * r * d = n * 2 ^ (2 * k))
  (2 * r + b2n (!exact), 2 ^ (k + 1))

/-- FSQT: the root, rounded as the exact root rounds (R210). -/
def rSqt (a : RVal) : Res :=
  match a with
  | .nan s c q => (.nan s (causeOf c q) true, {})
  | .inf s => if s then invalidRes 5 else (.inf false, {})
  | .fin s n d =>
    if n = 0 then (.fin s 0 1, {}) else if s then invalidRes 5
    else let (m, e) := sqrtScaled n d; (.fin false m e, {})

/-- E3M5 microscale (R61): none for the NaN scale 0xFF. -/
def decodeE3M5 (x : Nat) : Option (Nat × Nat) :=
  let e := x / 32 % 8
  let m := x % 32
  if x = 0xFF then none else if e = 0 then some (m, 256) else some (scale2 (32 + m) 32 ((e : Int) - 4))

/-- The smallest finite E3M5 code with M / s ≤ 6, or 0xFE (R63). -/
def e3m5For (n d : Nat) : Nat :=
  ((List.range 255).find? fun c => match decodeE3M5 c with
    | some (sn, sd) => n * sd ≤ 6 * sn * d
    | none => false).getD 0xFE

/-- An E2M1X element: code, microscale, band (R62), exact before the one rounding. A NaN scale gives the generated NaN of cause 2, sign 0, whatever the scale's own sign (R54; DEDUCED, log 111). -/
def decodeE2M1X (code micro : Nat) (band : RVal) : RVal :=
  match decodeE3M5 micro, band with
  | none, _ => genNan 2
  | some _, .nan _ _ _ => genNan 2
  | some (n, d), b =>
    let x := (mulInf (decodeFF 0x09 code) (.fin false n d)).1
    match b with
    | .inf _ => if (decodeFF 0x09 code).isZero then genNan 4 else .inf ((decodeFF 0x09 code).sign != b.sign)
    | _ => (mulInf x b).1

/-- One E2M1X block from eight values and a band (R63): codes, microscale, flags. DESIGN CHOICE (log 100): an infinite xi becomes |93 b| with xi's sign, and where b is 0 or infinite a quotient xi / b is what FDIV gives, a NaN among them counting as 0 in M. -/
def encodeE2M1X (xs : List RVal) (band : RVal) : List Nat × Nat × Flg :=
  if xs.any RVal.isNan || band.isNan then (xs.map fun _ => 0, 0xFF, { nanl := true })
  else
    let lim := (mulInf (.fin false 93 1) band).1
    let ys := xs.map fun x => match x with | .inf s => lim.withSign s | y => y
    let fl : Flg := { sat := xs.any fun x => match x with | .inf _ => true | _ => false }
    let qs := ys.map fun y => (rDiv y band).1.withSign false
    let m := qs.foldl (fun a b => if cmpVal a b < 0 then b else a) (.fin false 0 1)
    if m.isZero then (xs.map fun _ => 0, 0, fl)
    else
      let micro := match m with | .fin _ n d => e3m5For n d | _ => 0xFE
      let s : RVal := match decodeE3M5 micro with | some (n, d) => .fin false n d | none => .fin false 1 1
      let cs := ys.map fun y => convertFF false 0x09 (rDiv y (mulInf band s).1).1
      (cs.map (·.1), micro, cs.foldl (fun f c => f.or c.2) fl)

/-- Round to an integer by FRND's FN: 0 rne, 1 rz, 2 rd, 3 ru, 4 rna (R214). -/
def roundInt (fn : Nat) (s : Bool) (n d : Nat) : Nat :=
  let q := n / d
  let r := n % d
  match fn with
  | 1 => q
  | 2 => if s && r != 0 then q + 1 else q
  | 3 => if !s && r != 0 then q + 1 else q
  | 4 => if d ≤ 2 * r then q + 1 else q
  | _ => rneDiv n d

/-- QUANTISE of one value at scale exponent E8 over m magnitude bits (R68): q, whether the clamp leaves the rounded magnitude as it is (R90 counts the elements that the clamp cuts; log 99), underflow, inexact. -/
def quantise (e8 m : Nat) (x : RVal) : Int × Bool × Bool × Bool :=
  match x with
  | .fin s n d =>
    let (a, b) := scale2 n d (127 - (e8 : Int))
    let r := rneDiv a b
    let lim := 2 ^ m - 1
    let q := min r lim
    let sq : Int := if s then -(q : Int) else q
    (sq, decide (r ≤ lim), decide (q = 0 ∧ n ≠ 0), decide (q * b ≠ a))
  | _ => (0, true, false, false)

/-- E8 of a measured block of maximum n / d over m magnitude bits (R68). -/
def measuredE8 (n d m : Nat) : Nat :=
  if n = 0 then 0 else (min (max (127 + ceilLog2 n d - m) 0) 254).toNat

/-- binary64 decoding of a class declaration's field (R34); finite values only matter. -/
def decodeB64 (x : Nat) : RVal :=
  let s := natBit x 63
  let e := x / 2 ^ 52 % 2048
  let m := x % 2 ^ 52
  if e = 2047 then (if m = 0 then .inf s else genNan 5)
  else if e = 0 then (let (n, d) := scale2 m 1 (-1074); .fin s n d)
  else (let (n, d) := scale2 (2 ^ 52 + m) 1 ((e : Int) - 1075); .fin s n d)

end Sys2Proof.Machine
end

