-- ==== Sys2Proof/Config.lean ====
section
/-! DEFINITION. What an implementation fixes, and the free values: opaque constants, so no proof can use a value of one. Each is named in notes/assumptions. -/

namespace Sys2Proof.Config

/-- Core cycles that pass in step n of the model (log 4). -/
opaque elapsedCyc : Nat → Nat

/-- Nanoseconds of device time that pass in step n of the model (log 4). -/
opaque elapsedNs : Nat → Nat

/-- The approximation a function form (R215) gives: form index, format code, operand encoding. Used only where it lies inside the form's bound (log 5). -/
opaque fnCandidate : Nat → Nat → Nat → Nat

/-- The approximation NRSQ gives for an FP32 operand, used only inside its bound (R389, log 5). -/
opaque nrsqCandidate : W32 → W32

/-- The fuses of die d that name its two disabled physical clusters (R26, R28, log 6). -/
opaque clen : Nat → BitVec 20

/-- Stepping letter and digit (R28, log 6). -/
opaque stepL : BitVec 4
/-- The fuse of the stepping digit, read modulo 10 (R28, log 6). -/
opaque stepN : BitVec 4

/-- Binder version BVER (R84, log 6). -/
opaque bver : W32

/-- The private identity key of die d, a number that dieKey brings into range (R449, log 7). -/
opaque identityKey : Nat → Nat

/-- The private attestation key that die d derives from its fused secret and a BDIG (R449, log 7). -/
opaque attestKey : Nat → List Byte → Nat

/-- The number that a signature of a hash under a private key takes at random (R85, R449, log 7). -/
opaque nonce : Nat → List Byte → Nat

/-- Fused root key hash (R444, log 7). -/
opaque rootHash : List Byte

/-- Fused least security version (R444, log 7). -/
opaque svnMin : Nat

/-- The CSIZE that the firmware writes at bring-up, as a number that State.bringUp brings into range (R445 step 4, log 8). -/
opaque bringupCsize : BitVec 4
/-- JRNCFG.i OFF and SIZE at bring-up (log 8). -/
opaque bringupJrn : Nat → BitVec 16 × BitVec 16
/-- ULCFG.i OFF and SIZE at bring-up (log 8). -/
opaque bringupUl : Nat → BitVec 16 × BitVec 16

/-- The page that curators append n-th to a private page list, as a number that State.privPage brings into HBM (R252, log 10). -/
opaque privPage : Nat → Nat

/-- Package power in W over the interval that ends at the n-th evaluation, and the hottest junction in °C then, where nothing imposes them (R451, log 118). -/
opaque measured : Nat → Nat × Nat

/-- The n-th value that the spec leaves open after a step that goes on (log 28). -/
opaque freeWord : Nat → W64

end Sys2Proof.Config
end

