-- ==== Sys2Proof/Machine/State.lean ====
section
/-! DEFINITION. The state of the part as plain data: all the state spec/ gives it (INVENTORY.md lists every piece with its rule and reset value), and State.reset. Units are keyed by logical numbers (R27). Absent keys of a sparse map hold that map's default. -/

namespace Sys2Proof.Machine

open Sys2Proof

/-- NOMEET (R151). -/
abbrev noMeet : W64 := 0xFFFFFFFFFFFFFFFF

/-- Thread states (R151). -/
inductive ThState | pathed | spilled | parked | away | exited
  deriving DecidableEq, Repr

/-- A trap to be taken: cause code, TINFO, TINFO2, TMASK, the reported address and the unit after it (R347, R349, R354). -/
structure Trap where
  cause : Nat := 0
  info : W64 := 0
  info2 : W64 := 0
  mask : W32 := 0
  pc : W64 := 0
  next : W64 := 0
  deriving DecidableEq, Repr

/-- A straggler (R168): its group, and the address that has adopted it. -/
structure Strag where
  group : Nat := 0
  adopted : Option W64 := none
  deriving DecidableEq, Repr

/-- An open lookahead window (R134): register keys written and instructions left. -/
structure LookWin where
  regs : List Nat := []
  left : Nat := 0
  deriving DecidableEq, Repr

/-- What a path that is not ready waits for (R149 and the forms named). -/
inductive Hold
  /-- Ready. -/
  | none
  /-- YIELD until a cyc (R187). -/
  | yieldTill (cyc : Nat)
  /-- PAUSE until a cyc or an event (R357). -/
  | pauseTill (cyc : Nat)
  /-- Retries its unit when DONE of TL n reaches a number (R277). -/
  | tl (n : Nat) (num : Nat)
  /-- Retries when the copy context of TL n has room (R272). -/
  | copyRoom (tl : Nat)
  /-- Retries when a rendezvous phase is satisfied (R333). -/
  | rvPhase (rv : Nat) (phase : W32)
  /-- Retries when a push or pop is ready (R336). -/
  | queue (team : Nat) (ch : Nat) (push : Bool) (ticket : Nat)
  /-- Waits at a SYNCM (R337). -/
  | syncm
  /-- Retries when a group phase has passed (R338). -/
  | group (g : Nat) (phase : Nat)
  /-- Retries when the reservation table has room (R286). -/
  | mxRoom
  /-- Retries when tiles are free (R291). -/
  | malc (ticket : Nat) (n : Nat)
  /-- Retries when the operations naming these tiles are complete (R291, R302). -/
  | tileIdle (tiles : List Nat)
  /-- Retries when a bit of TEVT AND mask is set (R359). -/
  | tevt (mask : BitVec 8)
  /-- Retries when the state of a recovery point is 3 or 0 (R429). -/
  | rpoint (n : W32)
  /-- Retries when every unjournalled sector of the open point is journalled (R319, R428). -/
  | durable
  /-- A trap waits for the core's handler bank (R348). -/
  | trap (t : Trap)
  /-- Retries when no handler of the team runs (R301). -/
  | noHandler
  /-- ERET retries when no tile of the team is EVICTED, or no other handler path can restore one (R354). -/
  | evicted
  /-- Retries when the mapping of chunk c of die d no longer changes (R240). -/
  | chunk (d c : Nat)
  /-- Retries when a gallery bank group of die time has left its refresh window: until a device time (R250). -/
  | refresh (ns : Nat)
  /-- Retries when SNAPPOOL has room for the warp's next write (R374). -/
  | snap
  /-- Retries when the requests that its accesses to host and peer memory have sent are answered (R411, R414). -/
  | asked
  deriving DecidableEq, Repr

/-- One thread of a warp (R151, R178, R207). `sync` is a SYNCM it has executed and waits at: address, mask and members matched (R337). `member` is the group of the threads it was released with by a timeout, whose next meeting address adopts that group's stragglers. `held` is what a spilled thread's path waited for when it was evicted, `did` that its access of the unit at pc had been performed (R155, R253), `cnt` and `rng` what its path had counted of that unit and that the thread breached in it. `syncPk` is a member of its SYNCM seen to park before it matched (R171). `got` says that the request of its access at pc to host or peer memory is answered (R411), `req` keeps the pairs and the numbers of its requests that write at peers until they are performed (R406, R414). -/
structure Thread where
  st : ThState := .pathed
  pc : W64 := 0
  meet : W64 := noMeet
  vstat : W32 := 0
  strag : Option Strag := none
  member : Option Nat := none
  pend : Option Trap := none
  sync : Option (W64 × W32 × W32) := none
  held : Hold := .none
  did : Bool := false
  cnt : Nat × Nat × Bool := (0, 0, false)
  rng : Bool := false
  syncPk : Option Nat := none
  got : Bool := false
  req : List (Nat × W32) := []
  deriving DecidableEq, Repr

/-- A path table entry (R153). `done` holds the threads whose access of the unit at pc has been performed before a fault (R253), `cnt` their saturations, underflows and breach, which the class counts with the unit's last access (R89), and `rng` those of them that breached under policy trap, which RANGE reports when every access has been performed (R262). -/
structure Path where
  valid : Bool := false
  pc : W64 := 0
  mask : W32 := 0
  age : Nat := 0
  hold : Hold := .none
  done : W32 := 0
  cnt : Nat × Nat × Bool := (0, 0, false)
  rng : W32 := 0
  refetched : Bool := false
  deriving DecidableEq, Repr

/-- A running rejoin timer of a meeting address (R167): start and the RJT that held then. -/
structure Timer where
  addr : W64 := 0
  start : Nat := 0
  rjt : Nat := 0
  deriving DecidableEq, Repr

/-- The handler bank of a warp in handler code (R348), with the saved path. -/
structure HandlerSave where
  v : Cells W32 := []
  s : Cells W64 := []
  p : Cells Bool := []
  mask : W32 := 0
  pc : W64 := 0
  nextPc : W64 := 0
  entry : Nat := 0
  deriving DecidableEq, Repr

/-- A warp (R152 to R178, R349). v is keyed 64 t + i, p is keyed 8 t + i. `idem` is the region entry with the cyc and the threads that entered (R190). `pages` is the private page list (R252). -/
structure Warp where
  present : Bool := false
  ended : Bool := false
  v : Cells W32 := []
  p : Cells Bool := []
  s : Cells W64 := []
  q : Cells Bool := []
  th : Cells Thread := []
  path : Cells Path := []
  look : Cells (List LookWin) := []
  spillAge : Nat := 0
  part : BitVec 3 := 0
  ejt : BitVec 4 := 0
  rjt : BitVec 21 := 0
  rg : Cells W64 := []
  idem : Option W64 := none
  idemAt : Nat := 0
  idemMask : W32 := 0
  timers : List Timer := []
  stragGroups : Nat := 0
  mirOff : Bool := false
  fault : Option (Nat × Nat) := none
  handler : Option HandlerSave := none
  tcause : W64 := 0
  tpc : W64 := 0
  tinfo : W64 := 0
  tinfo2 : W64 := 0
  tmask : W64 := 0
  tstat : W64 := 0
  hwm : Nat := 0
  pages : List Nat := []
  deriving DecidableEq, Repr

/-- A rill context (R161 to R166): the thread it runs, its registers, the s snapshot, and what GETS returns there (R164). The thread's MEET stays in the warp's record of it. -/
structure Rill where
  used : Bool := false
  mirror : Bool := false
  team : Nat := 0
  warp : Nat := 0
  thread : Nat := 0
  v : Cells W32 := []
  p : Cells Bool := []
  s : Cells W64 := []
  q : Cells Bool := []
  pc : W64 := 0
  vstat : W32 := 0
  rg : Cells W64 := []
  rp : Cells W64 := []
  part : BitVec 3 := 0
  ejt : BitVec 4 := 0
  rjt : BitVec 21 := 0
  look : List LookWin := []
  hold : Hold := .none
  fault : Option (Nat × Nat) := none
  refetched : Bool := false
  deriving DecidableEq, Repr

/-- A rendezvous point (R330). -/
structure Rv where
  expect : W32 := 0
  count : W32 := 0
  phase : W32 := 0
  wmask : W32 := 0
  init : Bool := false
  bytes : Bool := false
  orphan : Bool := false
  held : Bool := false
  deriving DecidableEq, Repr

/-- An arrival at a rendezvous point: its rank among those of one cyc (0 a batch's completion, 1 + j the credit of chunk j, 2^32 + w warp w), what it adds in byte mode, its warp, and the s register that takes PHASE (R332, R344). -/
structure Arrival where
  rank : Nat := 0
  bytes : Nat := 0
  warp : Option Nat := none
  dst : Option Nat := none
  deriving DecidableEq, Repr

/-- What has reached a rendezvous point in a cyc: the point before the first of it, and the arrivals in the order in which R332 applies them (R344). -/
structure RvCyc where
  cyc : Option Nat := none
  was : Rv := {}
  arr : List Arrival := []
  deriving DecidableEq, Repr

/-- A queue descriptor (R334), and the order of its waiting pushers and poppers (R336). -/
structure Queue where
  base : W32 := 0
  lsz : BitVec 8 := 0
  init : Bool := false
  head : W32 := 0
  tail : W32 := 0
  allow : W32 := 0
  pushNext : Nat := 0
  pushWait : List Nat := []
  popWait : List Nat := []
  deriving DecidableEq, Repr

/-- A batch status word (R299). -/
structure MxStatus where
  flags : W32 := 0
  nanc : W32 := 0
  satc : W32 := 0
  unfc : W32 := 0
  npass : W32 := 0
  nskip : W32 := 0
  batch : W64 := 0
  deriving DecidableEq, Repr

/-- A timeline counter (R46, R272): out-of-order completions wait in `early`; cpyflt is a pending CPYFLT {number, cause} (R361). -/
structure Tl where
  iss : W64 := 0
  done : W64 := 0
  base : W64 := 0
  scope : Nat := 0
  owner : Nat := 0
  early : List Nat := []
  cpyflt : List (Nat × Nat) := []
  deriving DecidableEq, Repr

/-- Copy forms (R273, R279). -/
inductive CopyKind | cpy | cpym | cpygFrom | cpygTo | cpygLoad | cpyxPut | cpyxGet | marker
  deriving DecidableEq, Repr

/-- One side of a copy (R270). -/
structure Side where
  sel : Nat := 0
  region : W64 := 0
  addr : W64 := 0
  deriving DecidableEq, Repr

/-- A copy or marker that a context holds (R272, R275): chunks complete, chunks whose host writes have no completion yet (R411), chunks stopped, and the fault {die, slot}; slot 1,024 while it waits for one. -/
structure Copy where
  kind : CopyKind := .cpy
  tl : Nat := 0
  num : Nat := 0
  dst : Side := {}
  src : Side := {}
  len : Nat := 0
  mask : BitVec 4 := 0
  rv : Nat := 0
  scope : Nat := 0
  chunks : List Nat := []
  sent : List Nat := []
  stopped : Bool := false
  fault : Option (Nat × Nat) := none
  deriving DecidableEq, Repr

/-- A80 row (R70): elements, marks, exponent, SET. -/
structure Row where
  i : Cells Int := []
  mark : Cells Nat := []
  x : Int := 0
  set : Bool := false
  deriving DecidableEq, Repr

/-- A physical tile (R285). `orient` is 0 NONE, 1 N, 2 T. -/
structure Tile where
  owner : Option (Nat × Nat) := none
  rows : Cells Row := []
  check : Cells Int := []
  orient : Nat := 0
  terms : Cells Nat := []
  deriving DecidableEq, Repr

/-- A logical tile of a team (R285, R290): bound physical tile, EVICTED mark with image address, issue orientation, and an EVICTED tile's term counts (R302). -/
structure LTile where
  held : Option Nat := none
  evicted : Bool := false
  image : W64 := 0
  issue : Nat := 0
  terms : Cells Nat := []
  deriving DecidableEq, Repr

/-- A stationary descriptor (R294). `gang` tells gangs of every launch apart: 2^24 × launch handle + gang. -/
structure StatDesc where
  set : Bool := false
  gang : Nat := 0
  off : W64 := 0
  voff : W64 := 0
  cls : Nat := 0
  dtag : Nat := 0
  deriving DecidableEq, Repr

/-- Matrix batch operations (R286). -/
inductive MxKind | zro | meas | cvt | mma | mmat | drn
  deriving DecidableEq, Repr

/-- A batch operation with the operands read at issue; `since` is the cyc in which it became a candidate (R287). -/
structure MxOp where
  kind : MxKind := .zro
  cls : Nat := 0
  ca : Nat := 0
  cb : Nat := 0
  a : W64 := 0
  b : W64 := 0
  c : W64 := 0
  imm : Nat := 0
  tag : Nat := 0
  bs : Bool := false
  desc : StatDesc := {}
  dtag : Nat := 0
  granted : Bool := false
  since : Nat := 0
  deriving DecidableEq, Repr

/-- A batch that is open or incomplete (R286, R298). -/
structure Batch where
  tile : Nat := 0
  isOpen : Bool := true
  rv : Nat := 0
  prio : Nat := 0
  tln : Bool := false
  tl : Nat := 0
  num : Nat := 0
  ops : List MxOp := []
  stopped : Bool := false
  skew : Bool := false
  status : MxStatus := {}
  deriving DecidableEq, Repr

/-- A GSYNC.nb in progress (R338). -/
structure GsyncNb where
  group : Nat := 0
  phase : Nat := 0
  tl : Nat := 0
  num : Nat := 0
  deriving DecidableEq, Repr

/-- Where a team stands (R109, R363, R416). -/
inductive TeamSt | absent | resident | saved | ended
  deriving DecidableEq, Repr

/-- A team: residency, registers held per team, control area (R246), engines (R109). `rangeCls` holds the class of a batch's breach (R300), `tileTicket` the place of a restored team that waits for tiles (R371); `asked` says that a guest request saves it (R363). -/
structure Team where
  st : TeamSt := .absent
  task : Nat := 0
  vdev : Nat := 0
  gang : Nat := 0
  pos : Nat := 0
  num : Nat := 0
  core : Nat := 0
  wpt : Nat := 0
  tpg : Nat := 0
  scrk : Nat := 0
  warps : Cells Warp := []
  spad : Cells Byte := []
  rv : Cells Rv := []
  rvCyc : Cells RvCyc := []
  stat : Cells MxStatus := []
  ch : Cells Queue := []
  tl : Cells Tl := []
  tevt : BitVec 8 := 0
  copies : List Copy := []
  tiles : Cells LTile := []
  sd : Cells StatDesc := []
  batch : List Batch := []
  rangeCls : Cells Nat := []
  tileTicket : Option Nat := none
  nb : List GsyncNb := []
  halted : Bool := false
  asked : Bool := false
  draining : Option Nat := none
  tilesDue : List (Nat × Tile) := []
  record : Option (Nat × Nat) := none
  started : Nat := 0
  deriving DecidableEq, Repr

/-- A cluster's engine and waiters (R282, R287, R291): descriptors and loaded bytes of the array's operand and its shadow (tile and scale bytes of each quarter), the batch {team, rv} whose operation each unit performs and the array's next one, MALC waiters in order. -/
structure Engine where
  tiles : Cells Tile := []
  heldOp : StatDesc := {}
  heldQ : List (List Byte × List Byte) := []
  shadow : StatDesc := {}
  shadowQ : List (List Byte × List Byte) := []
  array : Option (Nat × Nat) := none
  arrayNext : Option (Nat × Nat) := none
  conv : Option (Nat × Nat) := none
  tileU : Option (Nat × Nat) := none
  malcWait : List Nat := []
  malcNext : Nat := 0
  deriving DecidableEq, Repr

/-- Task states (R101), with free for an empty entry. -/
inductive TaskSt | free | waiting | ready | dispatched | running | retired | complete
  deriving DecidableEq, Repr

/-- A task record as fetched (R92). -/
structure TaskRec where
  kind : Nat := 0
  npred : Nat := 0
  nsucc : Nat := 0
  seq : Nat := 0
  tag : W32 := 0
  desc : W64 := 0
  caddr : W64 := 0
  succ : List Nat := []
  raw : List Byte := []
  deriving DecidableEq, Repr

/-- A kernel entry (R43). -/
structure Kernel where
  entry : W64 := 0
  maxw : Nat := 0
  maxt : Nat := 0
  nrv : Nat := 0
  nq : Nat := 0
  scrk : Nat := 0
  grp : Bool := false
  deriving DecidableEq, Repr

/-- The admitted copy of a launch record (R45 to R48). `groups` holds each team's group numbers (R47); `ro` the ranges of its object and binding record, {VA, length} (R50). -/
structure Adm where
  obj : W64 := 0
  brec : W64 := 0
  code : W64 := 0
  rgn : W64 := 0
  ngang : Nat := 0
  tpg : Nat := 0
  wpt : Nat := 0
  pmode : Nat := 0
  nomir : Bool := false
  latb : Nat := 0
  ejt : Nat := 0
  rjt : Nat := 0
  scrk : Nat := 0
  priv : Nat := 0
  pmax : Nat := 0
  ngroup : Nat := 0
  tld : List (W64 × Nat × Nat) := []
  ktab : Cells W64 := []
  groups : List (List Nat) := []
  kernel : Kernel := {}
  ro : List (Nat × Nat) := []
  raw : List Byte := []
  deriving DecidableEq, Repr

/-- A bound class as the binding record gives it (R84), with the object's range policy and watch clauses (R34). -/
structure ClassB where
  fmt : Nat := 0
  scheme : Nat := 0
  npl : Nat := 0
  flush : Bool := false
  range : W64 := 0
  satv : W64 := 0
  rpol : Nat := 0
  nmax : Nat := 0
  fix : Int := 0
  thresh : Nat := 0
  deriving DecidableEq, Repr

/-- Class counters (R89). -/
structure ClsCnt where
  satc : W32 := 0
  unfc : W32 := 0
  evc : W32 := 0
  firstDone : Bool := false
  deriving DecidableEq, Repr

/-- A group phase of a launch (R338): completed phases, warps that have arrived (team number, warp). -/
structure GroupPh where
  phase : Nat := 0
  arrived : List (Nat × Nat) := []
  deriving DecidableEq, Repr

/-- A snapshot page (R374): its PA and prior contents. -/
structure SnapPage where
  pa : Nat := 0
  bytes : Cells Byte := []
  deriving DecidableEq, Repr

/-- A launch in the task graph. `heldNsig` holds NSIG issues for teams not yet placed: team, counter, number, complete (R392); `tlDone` is DONE of the counters of retired teams, keyed 8 × team + counter. `stopping` is a rollback (false) or kill (true) that waits for issued writes (R372, R373). `signalled` holds the handles its signals reached without effect, `sigSkip` those a replay passes over (R104). -/
structure Launch where
  admitted : Bool := false
  adm : Adm := {}
  cls : Cells ClassB := []
  cnt : Cells ClsCnt := []
  nextGang : Nat := 0
  retiredGangs : List Nat := []
  saved : List Nat := []
  bypass : Nat := 0
  lastClus : Nat := 0
  firstDie : Nat := 0
  groups : Cells GroupPh := []
  endedTeams : List Nat := []
  snaps : List SnapPage := []
  snapWait : List Nat := []
  signalled : List Nat := []
  sigSkip : List Nat := []
  runSum : Nat := 0
  runCnt : Nat := 0
  noDispatch : Bool := false
  preq : Bool := false
  preqCnt : Nat × Nat × Nat × Nat := (0, 0, 0, 0)
  stopping : Option Bool := none
  heldNsig : List (Nat × Nat × Nat × Bool) := []
  tlDone : Cells W64 := []
  deriving DecidableEq, Repr

/-- A window of an update (R382), translated once (R384): PA of its start. -/
structure Win where
  pa : Nat := 0
  len : Nat := 0
  w : Bool := false
  used : Bool := false
  deriving DecidableEq, Repr

/-- A synchronisation entry (R383). -/
structure SyncE where
  launch : Nat := 0
  team : Nat := 0
  tl : Nat := 0
  kind : Nat := 0
  deriving DecidableEq, Repr

/-- An update in the task graph (R381 to R400): sectors logged and written, the fault that ends it, whether NDONE has passed, its place in dispatch order, and, restored while it ran, its vector registers and PC until a conservator is idle (R439). -/
structure Upd where
  cons : Nat := 0
  code : List W64 := []
  stepNo : W32 := 0
  win : List Win := []
  ca : List W64 := []
  sync : List SyncE := []
  started : Bool := false
  nflags : W32 := 0
  nlog : Nat := 0
  logged : List Nat := []
  written : List Nat := []
  raw : List Byte := []
  faulted : Option Nat := none
  finished : Bool := false
  order : Nat := 0
  resume : Option (Cells W32 × Nat) := none
  deriving DecidableEq, Repr

/-- A task graph entry (R98, R101, R103): `consumed` names the launches whose signals it took and that have not retired (R104); `parent` is the launch that appended it (R97). A free entry keeps its generation and its last task's virtual device and TAG. -/
structure Task where
  st : TaskSt := .free
  gen : W32 := 0
  vdev : Nat := 0
  list : Nat := 0
  trec : TaskRec := {}
  rcvd : Nat := 0
  npred : Nat := 0
  consumed : List Nat := []
  parent : Option Nat := none
  status : Nat := 0
  foff : Nat := 0
  tstart : W64 := 0
  tend : W64 := 0
  nroll : Nat := 0
  cblk : Bool := false
  order : Nat := 0
  launch : Launch := {}
  upd : Upd := {}
  stopped : Bool := false
  deriving DecidableEq, Repr

/-- A submission list (R94, R95, R100). `gone` keeps handle and TAG of tasks that have left the graph while an edge of a live task may still name their position (R93). -/
structure SubList where
  lbase : W64 := 0
  lsz : Nat := 4
  hdie : Nat := 0
  prio : Nat := 0
  en : Bool := false
  tail : W32 := 0
  head : W32 := 0
  stalled : Bool := false
  window : Cells (Nat × Bool) := []
  notRetired : List Nat := []
  gone : Cells (Nat × Nat) := []
  deriving DecidableEq, Repr

/-- A virtual device: configuration written and in effect (R113), credits (R115), lists, pools and vectors (R375). -/
structure Vdev where
  cfgW : W64 := 0
  cfg : W64 := 0
  credit : Int := 0
  defer : Bool := false
  ptroot : W64 := 0
  galvd : W32 := 0
  hvec : W64 := 0
  saveBase : W64 := 0
  saveSize : W64 := 0
  snapBase : W64 := 0
  snapSize : W64 := 0
  lists : Cells SubList := []
  frozen : Bool := false
  deriving DecidableEq, Repr

/-- A partition: its slice holder and a switch in progress (R115, R366): incoming device, SUMW of its choice, the deadline in ns, and the dies that have missed it. -/
structure Part where
  holder : Option Nat := none
  switching : Option (Option Nat × Nat) := none
  deadline : Nat := 0
  missed : List Nat := []
  deriving DecidableEq, Repr

/-- One event queue (R105, R107) with the entries its producers hold. -/
structure EvQueue where
  base : W64 := 0
  sz : Nat := 8
  en : Bool := false
  head : W32 := 0
  tail : W32 := 0
  stall : W64 := 0
  held : List (List Byte) := []
  deriving DecidableEq, Repr

/-- A curator (R114). `guest` is the virtual device in guest mode, none in host mode; `s` holds the registers its firmware moves with CSRR and CSRW. -/
structure Curator where
  guest : Option Nat := none
  gpc : W64 := 0
  hpc : W64 := 0
  gstart : W64 := 0
  gexit : W64 := 0
  pc : W64 := 0
  s : Cells W64 := []
  deriving DecidableEq, Repr

/-- What waits in a fault slot (R253, R255, R360). -/
inductive FaultBy
  | warp (team : Nat) (warp : Nat) (entry : Nat)
  | rill (ctx : Nat)
  | copy (team : Nat) (num : Nat) (tl : Nat)
  | form (team : Nat) (warp : Nat) (entry : Nat)
  | save (team : Nat)
  | restore (team : Nat)
  deriving DecidableEq, Repr

/-- A fault slot or a request for one (R253). kind is R255's TFAULT kind, or 0 for POISON. -/
structure FSlot where
  used : Bool := false
  by_ : FaultBy := .rill 0
  kind : Nat := 0
  va : Nat := 0
  pa : Nat := 0
  walk : Bool := false
  cause : Nat := 0
  done : W32 := 0
  mask : W32 := 0
  pc : W64 := 0
  next : W64 := 0
  deriving DecidableEq, Repr

/-- A compute die: control-space registers and units of its own. -/
structure Die where
  tinva : W64 := 0
  tinvc : W64 := 0
  hsmap : Cells (Nat × Nat) := []
  hsmapPend : Cells (Nat × Nat) := []
  galOpen : Bool := false
  galWopen : Bool := false
  xbar : Cells W64 := []
  clpart : W64 := 0
  swTotal : W32 := 0
  swConsec : Nat := 0
  flesc : W64 := 0
  tevlnch : W64 := 0
  fslots : Cells FSlot := []
  faultQ : List FSlot := []
  queues : Cells EvQueue := []
  cur : Curator := {}
  rhwrt : Cells (BitVec 4) := []
  inReset : Bool := false
  bootErr : Nat := 0
  fwdig : List Byte := []
  fwsvn : Nat := 0
  deriving DecidableEq, Repr

/-- A sector's recovery tag (R419, R423): `hbm` is its contents in HBM outside the Cistern where they are not its present ones, and empty where they are (R420). -/
structure SecTag where
  vdev : Nat := 0
  point : W32 := 0
  handle : W64 := 0
  unjournalled : Bool := false
  sealed : Bool := false
  hbm : List Byte := []
  deriving DecidableEq, Repr

/-- An undo record (R394). -/
structure UndoRec where
  pa : Nat := 0
  step : W32 := 0
  seq : W32 := 0
  task : Nat := 0
  vdev : Nat := 0
  old : List Byte := []
  deriving DecidableEq, Repr

/-- A journal line (R423) with its tag. -/
structure JLine where
  pa : Nat := 0
  vdev : Nat := 0
  jseq : W32 := 0
  handle : W64 := 0
  data : List Byte := []
  tag : W32 := 0
  deriving DecidableEq, Repr

/-- A stack's share of the Cistern (R393, R422, R424). -/
structure Stack where
  ulSize : BitVec 16 := 0
  ulOff : BitVec 16 := 0
  ulWait : W32 := 0
  undo : List UndoRec := []
  undoSeq : W32 := 0
  jrnSize : BitVec 16 := 0
  jrnOff : BitVec 16 := 0
  jrnWait : W32 := 0
  lines : List JLine := []
  jseq : W32 := 0
  jrnFull : List Nat := []
  deriving DecidableEq, Repr

/-- Recovery-point registers and state of a virtual device (R425, R428, R430). `torn` says that a die reset met the point OPEN or PENDING: it is never sealed (R433). -/
structure RPoint where
  cur : W64 := 0
  sealedN : W64 := 0
  dig : W64 := 0
  base : W64 := 0
  task : W64 := 0
  status : Nat := 0
  busy : Bool := false
  cmd : Nat := 0
  keptAddr : W64 := 0
  keptTask : List Byte := []
  armer : Option Nat := none
  covered : List Nat := []
  slots : Cells (List Byte) := []
  torn : Bool := false
  deriving DecidableEq, Repr

/-- A conservator (R379). cv is keyed 64 i + l. `pendSig` holds issue numbers that NSIG took and not yet complete: launch handle, team, counter, number (R392); `pendUndo` the sectors whose undo records the next write waits for (R395). -/
structure Cons where
  cv : Cells W32 := []
  ca : Cells W64 := []
  store : Cells W64 := []
  pc : Nat := 0
  nflags : W32 := 0
  task : Option Nat := none
  pendSig : List (Nat × Nat × Nat × Nat) := []
  pendUndo : List Nat := []
  deriving DecidableEq, Repr

/-- One end of a link, Dammal or Rhawin (R402 to R404, R412). Link keys: 2 d + e for edge e of DIE.d, 8 + j for RHW.j, 16 + j for the peer's end of RHW.j. `wire` holds the 256-byte flits that this end has transmitted and the other has not received; `half` a fallback to half width that lasts until a die reset. `via` names the die that a data flit's packet goes on to, by SEQ, `waiting` holds the flits that wait for room in the buffer, with that die (R405). -/
structure LinkEnd where
  nextSeq : BitVec 16 := 0
  expected : BitVec 16 := 0
  buffer : List (BitVec 16 × Flit) := []
  wire : List (List Byte) := []
  nakOut : Bool := false
  retries : Nat := 0
  heldSince : Nat := 0
  crce : BitVec 20 := 0
  repl : BitVec 16 := 0
  good : BitVec 4 := 0xF
  state : Nat := 0
  half : Bool := false
  delivered : List (List Byte) := []
  via : List (BitVec 16 × Nat) := []
  waiting : List (Flit × Option Nat) := []
  deriving DecidableEq, Repr

/-- Numbered requests of a source at a destination (R406): the source's next number, the destination's bound, and the responses it keeps. Keys of pairs: 4 d + s for dies, 1024 + 8 node from a peer, 1025 + 8 node to a peer. -/
structure ReqPair where
  next : W32 := 0
  bound : W32 := 0
  kept : List (W32 × List Byte) := []
  deriving DecidableEq, Repr

/-- Power registers (R450, R451). -/
structure Power where
  plim : Nat := 2400
  freq : Nat := 1800
  plimNext : Nat := 2400
  freqNext : Nat := 1800
  pw : Nat := 0
  temp : Nat := 0
  cause : BitVec 3 := 0
  f : Nat := 1800
  energy : W64 := 0
  thrc : W32 := 0
  trip : Bool := false
  deriving DecidableEq, Repr

/-- A write or reduction not yet performed at its home (R309; log 9): FRED keeps its operand and class. `num` is its team's number, `span` the size of the page that translated it (R242). `team_` says that a release at .tm has published it: it is ordered before every later access of its team (R311). With `ask`, it is no write but the request of a thread's access to host or peer memory: thread, and whether it takes ownership of its line; its path waits for the answer (R411, R414). -/
structure Pend where
  task : Nat := 0
  team : Nat := 0
  num : Nat := 0
  core : Nat := 0
  warp : Nat := 0
  vdev : Nat := 0
  va : Nat := 0
  span : Nat := 65536
  pa : Nat := 0
  data : List Byte := []
  red : Option (Nat × Nat × Nat × W64) := none
  team_ : Bool := false
  ask : Option (Nat × Bool) := none
  deriving DecidableEq, Repr

/-- An outbound CXL request (R411), until its completion: of a thread's access, or of the copy chunk that `copy` names by counter, number and chunk. `owner` says that it takes ownership of its line, which it keeps, `answered`, until its unit has written the line back. -/
structure CxlReq where
  id : Nat := 0
  pend : Pend := {}
  owner : Bool := false
  copy : Option (Nat × Nat × Nat) := none
  answered : Bool := false
  deriving DecidableEq, Repr

/-- A translation that the caches hold (R242): a VA of its leaf, and the leaf. -/
structure Xlat where
  vdev : Nat := 0
  va : Nat := 0
  e : Nat := 0
  deriving DecidableEq, Repr

/-- Who issues (R148 to R154, R162, R114, R379). -/
inductive Agent
  | part
  | warp (team : Nat) (warp : Nat) (entry : Nat)
  | rill (ctx : Nat)
  | curator (die : Nat)
  | cons (c : Nat)
  deriving DecidableEq, Repr

/-- The unit being issued: its address, the instruction's own slot address, the next unit's address, line kind, the path's AGE before the issue (R178), prefixes, the registers both slots of a pair read (R125, R136), and whether the unit stopped without its effect (a trap, a fault or a wait). -/
structure Cur where
  agent : Agent := .part
  upc : W64 := 0
  ipc : W64 := 0
  npc : W64 := 0
  handler : Bool := false
  age : Nat := 0
  pcl : Option (Nat × Nat × Nat) := none
  prg : Option W64 := none
  shadow : Option Warp := none
  rshadow : Option Rill := none
  stop : Bool := false
  deriving DecidableEq, Repr

/-- A step imposed from outside or out of the default order (log 1): a step of the part, or an agent's issue. -/
inductive Sched
  | ev (i : Instr)
  | issue (a : Agent)
  | firmware (die : Nat) (i : Instr)
  deriving DecidableEq, Repr

/-- The whole part. `opps` counts the dispatch opportunities that wait, keyed 16 × die + virtual device (R108). `mem` holds HBM, host and peer memory by PA (R238). `tlb` holds the cached translations (R242), `nextPage` counts the private pages that curators have appended (R252, log 10). `slotCyc` is the first cyc in which an issuer may issue again, by the keys of State.issuers (R149). `answers` holds the responses sent to peers, {pair, number, response} (R406), `nextEval` the device time of the next power evaluation (R451), `reflash` the images that the board writes into the flash before die d loads it, by die (R445). -/
structure State where
  agenda : List Sched
  turn : Nat
  tick : Nat
  cyc : Nat
  ns : W64
  free : Nat
  cur : Cur
  mem : Cells Byte
  gallery : Cells Byte
  poison : List Nat
  pend : List Pend
  tags : Cells SecTag
  tlb : List Xlat
  nextPage : Nat
  teams : Cells Team
  nextTeam : Nat
  handlerBank : Cells (Option (Nat × Nat))
  lastIssue : Cells (Option (Nat × Nat × Nat))
  slotCyc : Cells Nat
  rills : Cells Rill
  engines : Cells Engine
  tasks : Cells Task
  nextOrder : Nat
  opps : Cells Nat
  vdevs : Cells Vdev
  parts : Cells Part
  dies : Cells Die
  stks : Cells Stack
  rpoints : Cells RPoint
  conss : Cells Cons
  csize : BitVec 4
  clock : Bool
  stepAbt : W64
  preq : W64
  swtick : Nat
  nextTick : Nat
  nextEval : Nat
  qctl : W64
  qaddr : W64
  qsize : W64
  hdm : Cells (Option (Nat × Nat))
  hostLines : List Nat
  cxl : List CxlReq
  cxlNext : Nat
  snoops : List Nat
  hostReads : List (Nat × List Byte)
  msix : List Nat
  links : Cells LinkEnd
  reqs : Cells ReqPair
  answers : List (Nat × W32 × List Byte)
  rhwnode : BitVec 10
  power : Power
  bootstat : W64
  identity : List Byte
  flash : Cells Byte
  reflash : Cells (Cells Byte)
  powerLost : Bool
  deriving DecidableEq, Repr

/-- Why the machine stops. -/
inductive Fault
  /-- Raised by step alone, after THERMTRIP has stopped every clock (R451) or package power is lost (R435), for any step but the one that loses or restores power: no unit runs (safe). -/
  | clocksStopped
  deriving DecidableEq, Repr

/-- Why an instruction has no meaning here. -/
inductive Refusal
  /-- An arm of exec whose instruction has no meaning yet (safe): named by its mnemonic. -/
  | notModelled (mnemonic : String)
  deriving DecidableEq, Repr

/-- The part at package power-on, before any step: every register at the reset value the spec states (INVENTORY.md names each), and at the value log 3 names where it states none. -/
def State.reset : State where
  agenda := []
  turn := 0
  tick := 0
  cyc := 0
  ns := 0
  free := 0
  cur := {}
  mem := []
  gallery := []
  poison := []
  pend := []
  tags := []
  tlb := []
  nextPage := 0
  teams := []
  nextTeam := 1
  handlerBank := []
  lastIssue := []
  slotCyc := []
  rills := []
  engines := []
  tasks := []
  nextOrder := 0
  opps := []
  vdevs := []
  parts := []
  dies := []
  stks := []
  rpoints := []
  conss := []
  csize := 0
  clock := false
  stepAbt := 0
  preq := 0
  swtick := 1000
  nextTick := 1000000
  nextEval := 10000
  qctl := 0
  qaddr := 0
  qsize := 0
  hdm := []
  hostLines := []
  cxl := []
  cxlNext := 0
  snoops := []
  hostReads := []
  msix := []
  links := []
  reqs := []
  answers := []
  rhwnode := 0
  power := {}
  bootstat := 0
  identity := []
  flash := []
  reflash := []
  powerLost := false

end Sys2Proof.Machine
end

