-- ==== Sys2Proof/Machine/Flags.lean ====
section
/-! DEFINITION. Flags and range policies: ROUND_CLASS and SAT (spec/04_binding.md R88), the class counts of one delivery (R89), STEP (spec/09 R223), and the VSTAT updates (spec/09 R207, R208). -/

namespace Sys2Proof.Machine

open Sys2Proof

/-- One delivered value: its register image, flags, class counts, and whether a trap-policy breach stops the instruction. -/
structure Deliv where
  out : Nat := 0
  flg : Flg := {}
  satc : Nat := 0
  unfc : Nat := 0
  trap : Bool := false
  deriving DecidableEq, Repr

/-- |x| > RANGE(c); an infinity is a breach (R88). -/
def breaches (c : ClassB) (x : RVal) : Bool :=
  match x with
  | .nan _ _ _ => false
  | .inf _ => true
  | x => decide (cmpVal (x.withSign false) (decodeB64 c.range.toNat) > 0)

/-- SAT(x, c) (R88). -/
def satVal (c : ClassB) (neg : Bool) : RVal := (decodeB64 c.satv.toNat).withSign neg

/-- ROUND_CLASS(x, c) (R88) after an operation with flags of its own; the exact value's own flags are kept. -/
def roundClass (c : ClassB) (r : Res) : Deliv :=
  let x := r.1
  if breaches c x then
    { out := (convert false c.fmt (satVal c x.sign)).1, flg := { r.2 with breach := true }, satc := 1, trap := c.rpol == 2 }
  else
    let (w, f) := convert c.flush c.fmt x
    { out := w, flg := r.2.or f, unfc := b2n f.unf }

/-- ROUND_CLASS of a FRED: policy trap acts as evt (R326). -/
def roundClassNoTrap (c : ClassB) (r : Res) : Deliv := { roundClass c r with trap := false }

/-- STEP(x, F): nearest even into F, no flush, no range check, flags kept (R223). -/
def stepRound (fmt : Nat) (r : Res) : Res :=
  let (w, f) := convert false fmt r.1
  (decodeF fmt w, r.2.or f)

/-- A d register pair, a register's low bits: the register image of a class value in its low bits (R204). -/
def classRead (c : ClassB) (x : Nat) : RVal := decodeF c.fmt (x % 2 ^ fmtBits c.fmt)

/-- VSTAT with flags ORed in (R208). -/
def vstatOr (v : W32) (f : Flg) : W32 := v ||| f.bits

/-- VSTAT after SETS: 1 bits clear the W1C fields (R202, R207). -/
def vstatW1C (v x : W32) : W32 := v &&& ~~~(x &&& 0x37F#32)

/-- Counter addition that stops at 2^32 − 1 (R89). -/
def satAdd32 (a : W32) (n : Nat) : W32 := BitVec.ofNat 32 (min (a.toNat + n) (2 ^ 32 - 1))

/-- Whole multiples of THRESH crossed by an addition (R89). -/
def crossed (thresh old new : Nat) : Bool := thresh != 0 && decide (old / thresh < new / thresh)

end Sys2Proof.Machine
end

