-- ==== Sys2Proof/Machine/Functions.lean ====
section
/-! DEFINITION. The function forms (spec/09_real_arithmetic_instructions.md R215 to R217): the value f(a) to 200 bits and more in fixed point, its correct rounding where the spec asks for it, and elsewhere a free approximation that is used only inside the bound the spec gives. -/

namespace Sys2Proof.Machine

open Sys2Proof

/-- Fixed-point unit 2^256. -/
def fxOne : Int := 2 ^ 256
/-- ln 2 in fixed point. -/
def fxLn2 : Int := 0xb17217f7d1cf79abc9e3b39803f2f6af40f343267298b62d8a0d175b8baafa2b
/-- π in fixed point. -/
def fxPi : Int := 0x3243f6a8885a308d313198a2e03707344a4093822299f31d0082efa98ec4e6c89

/-- A fixed-point product. -/
def fxMul (a b : Int) : Int := a * b / fxOne

/-- A finite value in fixed point. -/
def fxOf (x : RVal) : Int := x.snum * fxOne / x.den

/-- Σ of terms t_k = t_(k−1) · x / (k·(k+s))-style series: starts at term, multiplies by x and divides by div k. -/
def fxSeries (x : Int) (div : Nat → Nat) : Nat → Nat → Int → Int → Int
  | 0, _, _, acc => acc
  | n + 1, k, term, acc => let t := fxMul term x / div k; fxSeries x div n (k + 1) t (acc + t)

/-- e^x for |x| ≤ 1. -/
def fxExp (x : Int) : Int := fxSeries x (fun k => k) 70 1 fxOne fxOne

/-- A fixed-point number as an exact value. -/
def fxVal (x : Int) : RVal := ofRat x (2 ^ 256)

/-- 2^a of a finite a, |a| below 2^20; beyond, the same magnitude class (overflow or zero) is kept. -/
def exp2Val (a : RVal) : RVal :=
  let x := fxOf a
  let i := x / fxOne
  let f := x % fxOne
  let i := max (-100000) (min i 100000)
  let sticky : Int := if f = 0 then 0 else 1
  (ofRat (2 * fxExp (fxMul f fxLn2) + sticky) (2 ^ 257)).mul2 i

/-- log2 of n / d > 0. -/
def log2Val (n d : Nat) : RVal :=
  let e := floorLog2 n d
  let (a, b) := scale2 n d (-e)
  let y : Int := ((a : Int) - b) * fxOne / ((a : Int) + b)
  let y2 := fxMul y y
  let go := (List.range 90).foldl (fun (s : Int × Int) (k : Nat) => (s.1 + s.2 / (2 * (k : Int) + 1), fxMul s.2 y2)) (0, y)
  fxVal (e * fxOne + 2 * go.1 * fxOne / fxLn2)

/-- The remainder of a fixed-point angle in [−π, π]. -/
def fxReduce (x : Int) : Int :=
  let k := (x + fxPi) / (2 * fxPi)
  x - k * (2 * fxPi)

/-- sin of a finite a. -/
def sinVal (a : RVal) : RVal :=
  let x := fxReduce (fxOf a)
  fxVal (fxSeries (-(fxMul x x)) (fun k => 2 * k * (2 * k + 1)) 50 1 x x)

/-- cos of a finite a. -/
def cosVal (a : RVal) : RVal :=
  let x := fxReduce (fxOf a)
  fxVal (fxSeries (-(fxMul x x)) (fun k => (2 * k - 1) * (2 * k)) 50 1 fxOne fxOne)

/-- tanh of a finite a: (e^2|a| − 1) / (e^2|a| + 1), signed. -/
def tanhVal (a : RVal) : RVal :=
  let x := fxOf (a.withSign false)
  if x > 100 * fxOne then .fin a.sign (2 ^ 200 - 1) (2 ^ 200)
  else
    let y := 2 * x * fxOne / fxLn2
    let i := (y / fxOne).toNat
    let e := fxExp (fxMul (y % fxOne) fxLn2) * 2 ^ i
    .fin a.sign (e - fxOne).toNat (e + fxOne).toNat

/-- Function forms by index: 0 FRCP, 1 FRSQ, 2 FEXP, 3 FLOG, 4 FSIN, 5 FCOS, 6 FTNH. -/
inductive FnForm | rcp | rsq | exp | log | sin | cos | tnh
  deriving DecidableEq, Repr

/-- Index of a form for the free approximation. -/
def FnForm.code : FnForm → Nat
  | .rcp => 0 | .rsq => 1 | .exp => 2 | .log => 3 | .sin => 4 | .cos => 5 | .tnh => 6

/-- Special values (R216), or none where the form approximates. -/
def fnSpecial (f : FnForm) (a : RVal) : Option Res :=
  match f, a with
  | _, .nan s c q => some (.nan s (causeOf c q) true, {})
  | .rcp, .inf s => some (.fin s 0 1, {})
  | .rcp, .fin s n _ => if n = 0 then some (.inf s, { dz := true }) else none
  | .rsq, .inf s => some (if s then invalidRes 5 else (.fin false 0 1, {}))
  | .rsq, .fin s n _ => if n = 0 then some (.inf s, { dz := true }) else if s then some (invalidRes 5) else none
  | .exp, .inf s => some (if s then .fin false 0 1 else .inf false, {})
  | .exp, .fin _ n _ => if n = 0 then some (.fin false 1 1, {}) else none
  | .log, .inf s => some (if s then invalidRes 5 else (.inf false, {}))
  | .log, .fin s n d =>
    if n = 0 then some (.inf true, { dz := true }) else if s then some (invalidRes 5)
    else if n = d then some (.fin false 0 1, {}) else none
  | .sin, .inf _ | .cos, .inf _ => some (invalidRes 5)
  | .sin, .fin s n d => if n = 0 then some (.fin s 0 1, {}) else if 2 ^ 16 * d < n then some (invalidRes 5) else none
  | .cos, .fin _ n d => if n = 0 then some (.fin false 1 1, {}) else if 2 ^ 16 * d < n then some (invalidRes 5) else none
  | .tnh, .inf s => some (.fin s 1 1, {})
  | .tnh, .fin s n _ => if n = 0 then some (.fin s 0 1, {}) else none

/-- f(a) of a finite operand without a special value. -/
def fnExact (f : FnForm) (a : RVal) : RVal :=
  match f, a with
  | .rcp, .fin s n d => .fin s d n
  | .rsq, .fin _ n d => let (m, e) := sqrtScaled d n; .fin false m e
  | .exp, x => exp2Val x
  | .log, .fin _ n d => log2Val n d
  | .sin, x => sinVal x
  | .cos, x => cosVal x
  | .tnh, x => tanhVal x
  | _, x => x

/-- The bound of R215: E_rel as 2^−r and E_abs as 2^−e or 0, for the class's format. -/
def fnBound (f : FnForm) (fmt : Nat) : Nat × Option Nat :=
  let u := if fmt = 0x02 then 8 else 11
  let low := fmt == 0x02 || fmt == 0x03
  match f with
  | .rcp | .rsq => (if low then u else 23, none)
  | .exp => (if low then u else 22, none)
  | .log | .sin | .cos => (if low then u else 22, some 24)
  | .tnh => (if low then u else 22, none)

/-- FRCP, FRSQ and FEXP round correctly into BF16 and FP16 (R215). -/
def fnRoundsCorrectly (f : FnForm) (fmt : Nat) : Bool :=
  (fmt == 0x02 || fmt == 0x03) && (match f with | .rcp | .rsq | .exp => true | _ => false)

/-- |y − x| ≤ E_rel·|x| + E_abs. -/
def withinBound (b : Nat × Option Nat) (y x : RVal) : Bool :=
  match y, x with
  | .fin .., .fin .. =>
    let diff := (subFin y x)
    let lhs := diff.snum.natAbs
    let relN := x.snum.natAbs
    let relD := x.den * 2 ^ b.1
    match b.2 with
    | none => lhs * relD ≤ relN * diff.den
    | some e => lhs * (relD * 2 ^ e) ≤ (relN * 2 ^ e + relD) * diff.den
  | _, _ => false

/-- ŷ of R215 with its flags: CONVERT(f(a), F) where that is asked for or the free approximation misses the bound; else the free approximation, whose flags say that it is not f(a) and that a nonzero result became zero (R207). -/
def fnApprox (f : FnForm) (fmt : Nat) (key : Nat) (a : RVal) : Res :=
  let x := fnExact f a
  let cand := decodeF fmt (Config.fnCandidate f.code fmt key % 2 ^ fmtBits fmt)
  if !fnRoundsCorrectly f fmt && withinBound (fnBound f fmt) cand x then (cand, { inexact := decide (cmpVal cand x ≠ 0), unf := cand.isZero && !x.isZero })
  else let r := convert false fmt x; (decodeF fmt r.1, r.2)

/-- The value a function form delivers, before ROUND_CLASS; key names the operand's encoding and format. -/
def rFn (f : FnForm) (fmt : Nat) (key : Nat) (a : RVal) : Res := (fnSpecial f a).getD (fnApprox f fmt key a)

/-- NRSQ within 2^−23 relative (R389). -/
def nrsqVal (w : W32) : Res :=
  let a := decodeFF 0x01 w.toNat
  match fnSpecial .rsq a with
  | some r => r
  | none =>
    let x := fnExact .rsq a
    let cand := decodeFF 0x01 (Config.nrsqCandidate w).toNat
    let y := if withinBound (23, none) cand x then cand else decodeFF 0x01 (convert false 0x01 x).1
    (y, { inexact := decide (cmpVal y x ≠ 0) })

end Sys2Proof.Machine
end

