-- ==== Sys2Proof/Machine/Ops.lean ====
section
/-! DEFINITION. Operations over the state that the families share: units by number, registers of the issuing path or rill thread, events, translation and the homes of memory. -/

namespace Sys2Proof.Machine

open Sys2Proof

/-- Next, fault or refused, over this part's state. -/
abbrev Out := Host.Outcome State Fault Refusal

/-! Units by number. An absent unit reads as its empty value. -/

/-- Team t. -/
def State.team (s : State) (t : Nat) : Team := Cells.get {} s.teams t
/-- Team t changed. -/
def State.modTeam (s : State) (t : Nat) (f : Team → Team) : State := { s with teams := Cells.modify {} s.teams t f }
/-- Warp w of a team. -/
def Team.warp (t : Team) (w : Nat) : Warp := Cells.get {} t.warps w
/-- Warp w of a team changed. -/
def Team.modWarp (t : Team) (w : Nat) (f : Warp → Warp) : Team := { t with warps := Cells.modify {} t.warps w f }
/-- Warp w of team t. -/
def State.warp (s : State) (t w : Nat) : Warp := (s.team t).warp w
/-- Warp w of team t changed. -/
def State.modWarp (s : State) (t w : Nat) (f : Warp → Warp) : State := s.modTeam t fun tm => tm.modWarp w f
/-- Thread t of a warp. -/
def Warp.thread (w : Warp) (t : Nat) : Thread := Cells.get {} w.th t
/-- Thread t of a warp changed. -/
def Warp.modThread (w : Warp) (t : Nat) (f : Thread → Thread) : Warp := { w with th := Cells.modify {} w.th t f }
/-- Path entry e of a warp. -/
def Warp.entry (w : Warp) (e : Nat) : Path := Cells.get {} w.path e
/-- Path entry e of a warp changed. -/
def Warp.modEntry (w : Warp) (e : Nat) (f : Path → Path) : Warp := { w with path := Cells.modify {} w.path e f }
/-- Rill context c (64 × cluster + context). -/
def State.rill (s : State) (c : Nat) : Rill := Cells.get {} s.rills c
/-- Rill context c changed. -/
def State.modRill (s : State) (c : Nat) (f : Rill → Rill) : State := { s with rills := Cells.modify {} s.rills c f }
/-- Die d. -/
def State.die (s : State) (d : Nat) : Die := Cells.get {} s.dies d
/-- Die d changed. -/
def State.modDie (s : State) (d : Nat) (f : Die → Die) : State := { s with dies := Cells.modify {} s.dies d f }
/-- Virtual device v. -/
def State.vdev (s : State) (v : Nat) : Vdev := Cells.get {} s.vdevs v
/-- Virtual device v changed. -/
def State.modVdev (s : State) (v : Nat) (f : Vdev → Vdev) : State := { s with vdevs := Cells.modify {} s.vdevs v f }
/-- Graph entry k (4,096 × die + index). -/
def State.task (s : State) (k : Nat) : Task := Cells.get {} s.tasks k
/-- Graph entry k changed. -/
def State.modTask (s : State) (k : Nat) (f : Task → Task) : State := { s with tasks := Cells.modify {} s.tasks k f }
/-- The launch of graph entry k changed. -/
def State.modLaunch (s : State) (k : Nat) (f : Launch → Launch) : State := s.modTask k fun t => { t with launch := f t.launch }
/-- The update of graph entry k changed. -/
def State.modUpd (s : State) (k : Nat) (f : Upd → Upd) : State := s.modTask k fun t => { t with upd := f t.upd }
/-- Stack i. -/
def State.stk (s : State) (i : Nat) : Stack := Cells.get {} s.stks i
/-- Stack i changed. -/
def State.modStk (s : State) (i : Nat) (f : Stack → Stack) : State := { s with stks := Cells.modify {} s.stks i f }
/-- Recovery point state of virtual device v. -/
def State.rp (s : State) (v : Nat) : RPoint := Cells.get {} s.rpoints v
/-- Recovery point state of virtual device v changed. -/
def State.modRp (s : State) (v : Nat) (f : RPoint → RPoint) : State := { s with rpoints := Cells.modify {} s.rpoints v f }
/-- Conservator c. -/
def State.cons (s : State) (c : Nat) : Cons := Cells.get {} s.conss c
/-- Conservator c changed. -/
def State.modCons (s : State) (c : Nat) (f : Cons → Cons) : State := { s with conss := Cells.modify {} s.conss c f }
/-- Engine of cluster m. -/
def State.engine (s : State) (m : Nat) : Engine := Cells.get {} s.engines m
/-- Engine of cluster m changed. -/
def State.modEngine (s : State) (m : Nat) (f : Engine → Engine) : State := { s with engines := Cells.modify {} s.engines m f }
/-- Link end l. -/
def State.link (s : State) (l : Nat) : LinkEnd := Cells.get {} s.links l
/-- Link end l changed. -/
def State.modLink (s : State) (l : Nat) (f : LinkEnd → LinkEnd) : State := { s with links := Cells.modify {} s.links l f }
/-- Partition p. -/
def State.part (s : State) (p : Nat) : Part := Cells.get {} s.parts p
/-- Partition p changed. -/
def State.modPart (s : State) (p : Nat) (f : Part → Part) : State := { s with parts := Cells.modify {} s.parts p f }
/-- List l of a virtual device; PRIO of list 15 reads 15 (R94). -/
def Vdev.list (v : Vdev) (l : Nat) : SubList := Cells.get {} v.lists l
/-- List l of virtual device v changed. -/
def State.modList (s : State) (v l : Nat) (f : SubList → SubList) : State :=
  s.modVdev v fun x => { x with lists := Cells.modify {} x.lists l f }
/-- Rendezvous point n of a team (R330). -/
def Team.rvAt (t : Team) (n : Nat) : Rv := Cells.get {} t.rv n
/-- Queue n of a team (R334). -/
def Team.chAt (t : Team) (n : Nat) : Queue := Cells.get {} t.ch n
/-- Timeline counter n of a team (R46). -/
def Team.tlAt (t : Team) (n : Nat) : Tl := Cells.get {} t.tl n
/-- Logical tile n of a team (R285). -/
def Team.tileAt (t : Team) (n : Nat) : LTile := Cells.get {} t.tiles n
/-- The batch of a team that rv n is held by (R286, R298). -/
def Team.batchOf (t : Team) (n : Nat) : Option Batch := t.batch.find? fun b => b.rv == n
/-- The batch of rv n changed. -/
def Team.modBatch (t : Team) (n : Nat) (f : Batch → Batch) : Team := { t with batch := t.batch.map fun b => if b.rv = n then f b else b }
/-- The oldest operation of a batch becomes a candidate (R287). -/
def Batch.front (b : Batch) (cyc : Nat) : Batch := match b.ops with | o :: r => { b with ops := { o with since := cyc } :: r } | [] => b
/-- Status word beside rv n (R299). -/
def Team.statAt (t : Team) (n : Nat) : MxStatus := Cells.get {} t.stat n
/-- The registers of a class in a launch's binding (R84). -/
def Launch.clsAt (l : Launch) (c : Nat) : ClassB := Cells.get {} l.cls c
/-- A launch's mirrored issue (R175). -/
def Launch.mirrored (l : Launch) : Bool := !l.adm.nomir

/-- Die of a core (R11). -/
def coreDie (c : Nat) : Nat := c / 72
/-- Cluster of a core (R11). -/
def coreClus (c : Nat) : Nat := c / 4
/-- The task handle of graph entry k (R99). -/
def State.handleOf (s : State) (k : Nat) : W64 := BitVec.ofNat 64 ((s.task k).gen.toNat * 65536 + k)
/-- The graph entry a handle names, when its generation is present (R99). -/
def State.taskOf (s : State) (h : W64) : Option Nat :=
  let k := h.toNat % 65536
  if h.toNat ≠ 0 ∧ k < 16384 ∧ h.toNat / 65536 < 2 ^ 32 ∧ (s.task k).st ≠ .free ∧ (s.task k).gen.toNat = h.toNat / 65536 then some k else none
/-- The graph entry of a handle whose GEN is the entry's present generation, its task still in the graph or not (R93, R99). -/
def State.entryOf (s : State) (h : W64) : Option Nat :=
  let k := h.toNat % 65536
  if k < 16384 ∧ h.toNat / 65536 ≠ 0 ∧ (s.task k).gen.toNat = h.toNat / 65536 then some k else none
/-- Home die of graph entry k. -/
def taskDie (k : Nat) : Nat := k / 4096

/-- Every team, by key. -/
def State.teamKeys (s : State) : List Nat := Cells.keys s.teams
/-- The team at a gang position, that is still on its core (R244). -/
def State.teamAt (s : State) (task gang pos : Nat) : Option Nat :=
  s.teamKeys.find? fun k => let t := s.team k; (t.st == .resident || t.st == .ended) && t.task == task && t.gang == gang && t.pos == pos
/-- The 32 thread indices. -/
def threads32 : List Nat := List.range 32
/-- Threads of a mask, ascending. -/
def maskList (m : W32) : List Nat := threads32.filter fun t => m.getLsbD t
/-- The mask of threads. -/
def maskOf (l : List Nat) : W32 := BitVec.ofNat 32 (l.foldl (fun a t => a ||| 2 ^ t) 0)

/-! The issuing path or rill thread. -/

/-- Team of the issuer. -/
def State.cTeam (s : State) : Nat :=
  match s.cur.agent with
  | .warp t _ _ => t
  | .rill c => (s.rill c).team
  | _ => 0
/-- Warp of the issuer. -/
def State.cWarp (s : State) : Nat :=
  match s.cur.agent with
  | .warp _ w _ => w
  | .rill c => (s.rill c).warp
  | _ => 0
/-- The issuer is a rill thread. -/
def State.onRill (s : State) : Bool := match s.cur.agent with | .rill _ => true | _ => false
/-- The issuing path's entry. -/
def State.cEntry (s : State) : Nat := match s.cur.agent with | .warp _ _ e => e | _ => 0
/-- The issuing warp's live state. -/
def State.cw (s : State) : Warp := s.warp s.cTeam s.cWarp
/-- The issuing path. -/
def State.cp (s : State) : Path := s.cw.entry s.cEntry
/-- Graph entry of the issuer's launch. -/
def State.cTask (s : State) : Nat := (s.team s.cTeam).task
/-- The issuer's launch. -/
def State.cLaunch (s : State) : Launch := (s.task s.cTask).launch
/-- Virtual device of the issuer; of a curator, the one its guest code belongs to (R114). -/
def State.cVdev (s : State) : Nat :=
  match s.cur.agent with
  | .curator d => (s.die d).cur.guest.getD 0
  | _ => (s.team s.cTeam).vdev
/-- Registers a unit reads: those before the pair (R125). -/
def State.rw (s : State) : Warp := s.cur.shadow.getD s.cw
/-- Registers a rill thread's unit reads. -/
def State.rr (s : State) : Rill :=
  match s.cur.agent with
  | .rill c => s.cur.rshadow.getD (s.rill c)
  | _ => {}
/-- Threads of the issuing path's mask, or the rill thread. -/
def State.pathThreads (s : State) : List Nat :=
  match s.cur.agent with
  | .rill c => [(s.rill c).thread]
  | .warp _ _ _ => maskList s.cp.mask
  | _ => []
/-- Mirrored issue for the issuing warp (R175, R358). -/
def State.cMirrored (s : State) : Bool := s.cLaunch.mirrored && !s.cw.mirOff

/-- v register i of thread t. -/
def State.rdV (s : State) (t i : Nat) : W32 := if s.onRill then Cells.get 0 s.rr.v i else Cells.get 0 s.rw.v (64 * t + i)
/-- Predicate i of thread t; p7 reads 1 (R127). -/
def State.rdP (s : State) (t i : Nat) : Bool :=
  if i = 7 then true else if s.onRill then Cells.get false s.rr.p i else Cells.get false s.rw.p (8 * t + i)
/-- s register i: the live one, an away thread's snapshot (R161), or that of a curator's firmware. -/
def State.rdS (s : State) (i : Nat) : W64 :=
  match s.cur.agent with
  | .rill _ => Cells.get 0 s.rr.s i
  | .curator d => Cells.get 0 (s.die d).cur.s i
  | _ => Cells.get 0 s.rw.s i
/-- q register i. -/
def State.rdQ (s : State) (i : Nat) : Bool := if s.onRill then Cells.get false s.rr.q i else Cells.get false s.rw.q i
/-- k register i: the launch's admitted constant (R40, R48). -/
def State.rdK (s : State) (i : Nat) : W64 := Cells.get 0 s.cLaunch.adm.ktab i

/-- A register write of an instruction. -/
inductive Wr
  | v (t i : Nat) (x : W32)
  | p (t i : Nat) (b : Bool)
  | s (i : Nat) (x : W64)
  | q (i : Nat) (b : Bool)
  | vst (t : Nat) (m : W32)
  deriving DecidableEq, Repr

/-- A write applied to a warp. -/
def Warp.wr (w : Warp) : Wr → Warp
  | .v t i x => { w with v := Cells.set 0 w.v (64 * t + i) x }
  | .p t i b => if i = 7 then w else { w with p := Cells.set false w.p (8 * t + i) b }
  | .s i x => { w with s := Cells.set 0 w.s i x }
  | .q i b => { w with q := Cells.set false w.q i b }
  | .vst t m => w.modThread t fun th => { th with vstat := th.vstat ||| m }

/-- A write applied to an away thread's context: s is its snapshot (R199). -/
def Rill.wr (r : Rill) : Wr → Rill
  | .v _ i x => { r with v := Cells.set 0 r.v i x }
  | .p _ i b => if i = 7 then r else { r with p := Cells.set false r.p i b }
  | .s i x => { r with s := Cells.set 0 r.s i x }
  | .q i b => { r with q := Cells.set false r.q i b }
  | .vst _ m => { r with vstat := r.vstat ||| m }

/-- Register writes of the issuer, in order. -/
def State.applyWr (s : State) (ws : List Wr) : State :=
  match s.cur.agent with
  | .warp t w _ => s.modWarp t w fun x => ws.foldl Warp.wr x
  | .rill c => s.modRill c fun r => ws.foldl Rill.wr r
  | .curator d => s.modDie d fun x => { x with cur := { x.cur with s := ws.foldl (fun m w => match w with | .s i v => Cells.set 0 m i v | _ => m) x.cur.s } }
  | _ => s

/-- The PC moves to the unit after the present one. -/
def State.advance (s : State) : State :=
  match s.cur.agent with
  | .warp t w e => s.modWarp t w fun x => x.modEntry e fun p => { p with pc := s.cur.npc, done := 0, hold := .none }
  | .rill c => s.modRill c fun r => { r with pc := s.cur.npc, hold := .none }
  | .curator d => s.modDie d fun x => { x with cur := { x.cur with pc := s.cur.npc } }
  | _ => s

/-- An instruction whose effect is register writes, then the next unit. -/
def State.finish (s : State) (ws : List Wr) : Out := .next ((s.applyWr ws).advance)

/-- The unit has no effect and its path or thread is not ready until the condition holds (R149). -/
def State.wait (s : State) (h : Hold) : State :=
  let s := { s with cur := { s.cur with stop := true } }
  match s.cur.agent with
  | .warp t w e => s.modWarp t w fun x => x.modEntry e fun p => { p with hold := h, age := s.cur.age }
  | .rill c => s.modRill c fun r => { r with hold := h }
  | _ => s

/-! Events (R105 to R107). -/

/-- The 32 bytes of an event entry (R105). -/
def eventBytes (code sdie vdev tag handle arg : Nat) : List Byte :=
  leBytes 2 code ++ leBytes 1 sdie ++ leBytes 1 vdev ++ leBytes 4 tag ++ leBytes 8 handle ++ leBytes 16 arg

/-- An event to queue q of die d's curator; the producer holds it until the ring takes it (R107). -/
def State.post (s : State) (d q code vdev tag handle arg : Nat) : State :=
  s.modDie d fun x => { x with queues := Cells.modify {} x.queues q fun eq => { eq with held := eq.held ++ [eventBytes code d vdev tag handle arg] } }

/-- An event about a task, with its TAG and handle. -/
def State.postTask (s : State) (d q code k arg : Nat) : State :=
  s.post d q code (s.task k).vdev (s.task k).trec.tag.toNat (s.handleOf k).toNat arg

/-! Homes of memory (R232 to R254). -/

/-- Space of a PA (R238). -/
inductive PaSpace | hbm | host | peer | invalid
  deriving DecidableEq, Repr

/-- The space a PA lies in (R238). -/
def paSpace (pa : Nat) : PaSpace :=
  if pa < 2 ^ 40 then (if pa % 2 ^ 37 < 80 * 2 ^ 30 then .hbm else .invalid)
  else if pa / 2 ^ 54 = 2 then .host else if pa / 2 ^ 54 = 3 then .peer else .invalid

/-- Stack of an HBM address. -/
def paStack (pa : Nat) : Nat := pa / 2 ^ 37 % 8
/-- Die of an HBM address (R11). -/
def paDie (pa : Nat) : Nat := paStack pa / 2
/-- Chunk of an HBM address within its die (R239). -/
def paChunk (pa : Nat) : Nat := 80 * (paStack pa % 2) + pa % 2 ^ 37 / 2 ^ 30
/-- An HBM address lies in the Cistern (R241). -/
def State.inCistern (s : State) (pa : Nat) : Bool := decide (80 - s.csize.toNat ≤ pa % 2 ^ 37 / 2 ^ 30) && paSpace pa == .hbm
/-- FIRST and LWAYS of a chunk (R243). -/
def State.hsmapAt (s : State) (d c : Nat) : Nat × Nat := Cells.get (0, 4) (s.die d).hsmap c
/-- Home slice of an HBM address (R239). -/
def State.homeSlice (s : State) (pa : Nat) : Nat :=
  let h := (bits pa 11 8 ^^^ bits pa 15 12) ^^^ bits pa 19 16
  let m := s.hsmapAt (paDie pa) (paChunk pa)
  16 * paDie pa + m.1 + h % 2 ^ m.2
/-- HSMASK of port p of die d (R116). -/
def State.hsmask (s : State) (d p : Nat) : W64 := Cells.get 0xFFFFFFFFFFFFFFFF (s.die d).xbar p
/-- Port of node n's route on die d, or none when unreachable or own (R413). -/
def State.peerPort (s : State) (d n : Nat) : Option Nat :=
  let p := (Cells.get 0xF (s.die d).rhwrt n).toNat
  if p < 8 ∧ n ≠ s.rhwnode.toNat ∧ (s.link (8 + p)).state ≠ 3 then some p else none
/-- The requesting port of die d may reach a PA (R117, R413, R414). -/
def State.reaches (s : State) (d p pa : Nat) : Bool :=
  match paSpace pa with
  | .hbm => (s.hsmask d p).getLsbD (s.homeSlice pa)
  | .peer => (s.peerPort d (bits pa 53 44)).isSome
  | _ => true

/-- The part's own access, made for die d, reaches a PA: no HSMASK stands in its way (R116), and a peer's node must be reachable (R413). -/
def State.partReaches (s : State) (d pa : Nat) : Bool :=
  match paSpace pa with
  | .peer => (s.peerPort d (bits pa 53 44)).isSome
  | _ => true

/-- Translation faults by TFAULT kind (R255); 0 is POISON. -/
inductive MFault | tfnv | tfro | tfnx | tfpte | pgrow | cpysp | galw | xbar | poison (pa : Nat) (walk : Bool)
  deriving DecidableEq, Repr

/-- Kind in TFAULT (R255). -/
def MFault.kind : MFault → Nat
  | .tfnv => 1 | .tfro => 2 | .tfnx => 3 | .tfpte => 4 | .pgrow => 5 | .cpysp => 6 | .galw => 7 | .xbar => 8 | .poison _ _ => 0
/-- Cause code (R347). -/
def MFault.cause : MFault → Nat
  | .galw => 0x25 | .xbar => 0x28 | .tfnv => 0x29 | .tfro => 0x2A | .tfnx => 0x2B | .tfpte => 0x2C | .pgrow => 0x2D | .poison _ _ => 0x2E
  | .cpysp => 0x30

/-- A page table entry at a PA, through the home (R235). -/
def State.pte (s : State) (pa : Nat) : Nat := readLe s.mem pa 8
/-- A 32-byte sector is poisoned (R254). -/
def State.poisoned (s : State) (pa : Nat) : Bool := s.poison.contains (pa / 32)
/-- A PA is valid and outside the Cistern (R238, R241). -/
def State.paOk (s : State) (pa : Nat) : Bool := paSpace pa != .invalid && !s.inCistern pa
/-- PPN names a valid PA outside the Cistern (R236). -/
def State.ppnOk (s : State) (e : Nat) : Bool := s.paOk (bits e 55 16 * 65536)
/-- VAs that a leaf maps: half of a 1 GiB page, or 64 KiB (R234). -/
def leafSpan (e : Nat) : Nat := if bits e 11 10 = 2 then 2 ^ 29 else 65536
/-- Size of a leaf's page (R235). -/
def pageSpan (e : Nat) : Nat := match bits e 11 10 with | 0 => 65536 | 1 => 2 ^ 21 | _ => 2 ^ 30
/-- The PA a leaf gives a VA. -/
def leafPa (e va : Nat) : Nat := bits e 55 16 * 65536 + va % leafSpan e
/-- Reserved bits of an entry are 0 (R235). -/
def pteReserved (e : Nat) : Bool := bits e 63 56 == 0 && bits e 15 12 == 0 && natBit e 9 == false && bits e 4 2 == 0
/-- A 2 MiB part lies in an aligned run of 32 like leaves, a 1 GiB half in an aligned pair (R236). -/
def State.pteRun (s : State) (pa e lvl : Nat) : Bool :=
  let sz := bits e 11 10
  if lvl = 0 ∧ sz = 0 then true
  else
    let n := if lvl = 0 then 32 else 2
    let step := if lvl = 0 then 1 else 8192
    let base := pa / (8 * n) * (8 * n)
    let e0 := s.pte base
    (if lvl = 0 then sz == 1 else sz == 2) &&
    (List.range n).all fun j =>
      let ej := s.pte (base + 8 * j)
      natBit ej 0 && natBit ej 1 && bits ej 11 10 == sz && bits ej 55 16 == bits e0 55 16 + step * j && bits ej 8 7 == bits e0 8 7

/-- An entry is malformed at a level (R236). -/
def State.pteBad (s : State) (pa e lvl : Nat) : Bool :=
  !pteReserved e || !s.ppnOk e
  || (if natBit e 1 then decide (2 ≤ lvl) || !s.pteRun pa e lvl else lvl == 0 || bits e 11 10 != 0)

/-- Index of a level (R234). -/
def vaIndex (va lvl : Nat) : Nat :=
  match lvl with
  | 4 => bits va 79 68
  | 3 => bits va 67 55
  | 2 => bits va 54 42
  | 1 => bits va 41 29
  | _ => bits va 28 16

/-- What one entry of a walk answers: a fault, a leaf {PA, entry}, or the next table (R234 to R237, R254). -/
def State.walkEntry (s : State) (va : Nat) (write fetch : Bool) (lvl table : Nat) : Except MFault (Nat × Nat) ⊕ Nat :=
  let pa := table + 8 * vaIndex va lvl
  let e := s.pte pa
  if s.poisoned pa then .inl (.error (.poison (pa / 32 * 32) true))
  else if natBit e 0 = false then .inl (.error .tfnv)
  else if s.pteBad pa e lvl then .inl (.error .tfpte)
  else if natBit e 1 then
    if !s.paOk (leafPa e va) then .inl (.error .tfpte)
    else if write && natBit e 7 == false then .inl (.error .tfro)
    else if fetch && natBit e 8 == false then .inl (.error .tfnx)
    else .inl (.ok (leafPa e va, pa))
  else .inr (bits e 55 16 * 65536)

/-- The walk from a level down. An entry of level 0 is never a table (R236). -/
def State.walkFrom (s : State) (va : Nat) (write fetch : Bool) : Nat → Nat → Except MFault (Nat × Nat)
  | 0, table => match s.walkEntry va write fetch 0 table with | .inl r => r | .inr _ => .error .tfpte
  | lvl + 1, table => match s.walkEntry va write fetch (lvl + 1) table with | .inl r => r | .inr t => s.walkFrom va write fetch lvl t

/-- A cached translation serves an access: it maps the VA and permits the access, for a write with D set already (R235, R242). -/
def Xlat.serves (x : Xlat) (v va : Nat) (write fetch : Bool) : Bool :=
  x.vdev == v && x.va / leafSpan x.e == va / leafSpan x.e && (!write || (natBit x.e 7 && natBit x.e 5)) && (!fetch || natBit x.e 8)

/-- The entry address of a cached translation: no walk reads or marks one. -/
def noEntry : Nat := 2 ^ 56

/-- Translation of an 80-bit VA of virtual device v: by the caches, else by a walk (R234, R242, R243; log 86). -/
def State.translate (s : State) (v va : Nat) (write fetch : Bool) : Except MFault (Nat × Nat) :=
  let r := (s.vdev v).ptroot
  if r.getLsbD 0 = false ∨ 0xFF0 ≤ bits va 79 68 then .error .tfnv
  else match s.tlb.find? fun x => x.serves v va write fetch && s.paOk (leafPa x.e va) with
    | some x => .ok (leafPa x.e va, noEntry)
    | none => s.walkFrom va write fetch 4 (bits r.toNat 55 15 * 32768)

/-- Size of the page that translates a VA: 64 KiB where none does. -/
def State.spanOf (s : State) (v va : Nat) : Nat :=
  match s.tlb.find? fun x => x.serves v va false false with
  | some x => pageSpan x.e
  | none => match s.translate v va false false with | .ok (_, e) => pageSpan (s.pte e) | .error _ => 65536

/-- The host's lines that a device write covers are back-invalidated (R410). -/
def State.backInvalidate (s : State) (pa n : Nat) : State := { s with hostLines := s.hostLines.filter fun l => !decide (pa / 64 ≤ l ∧ l ≤ (pa + n - 1) / 64) }

/-- A walk changes the entry at an address: A is not set, or D at a write (R235, R237). -/
def State.pteMarks (s : State) (pa : Nat) (write : Bool) : Bool := decide (pa < noEntry) && (!natBit (s.pte pa) 6 || (write && !natBit (s.pte pa) 5))
/-- The walker sets A, and D on a write (R235, R237). -/
def State.markPte (s : State) (pa : Nat) (write : Bool) : State :=
  if !s.pteMarks pa write then s else
  let e := s.pte pa
  let e := if natBit e 6 then e else e + 64
  let e := if write && !natBit e 5 then e + 32 else e
  { s.backInvalidate pa 8 with mem := writeBytes s.mem pa (leBytes 8 e) }

/-! Requests that write at another die or a peer (R406, R412). -/

/-- A numbered request is covered already: below the bound, or among those performed above it (R406). -/
def ReqPair.covers (r : ReqPair) (n : W32) : Bool := decide (2 ^ 31 ≤ (n - r.bound).toNat) || r.kept.any fun k => k.1 == n
/-- The bound moves over requests that are performed. -/
def ReqPair.settle : Nat → ReqPair → ReqPair
  | 0, r => r
  | n + 1, r => if r.kept.any (fun k => k.1 == r.bound) then settle n { r with bound := r.bound + 1 } else r
/-- A request is performed: the responses of the last 1,024 are kept, and those above the bound. -/
def ReqPair.perform (r : ReqPair) (n : W32) (resp : List Byte) : ReqPair :=
  let r := ReqPair.settle (r.kept.length + 1) { r with kept := r.kept ++ [(n, resp)] }
  let old := r.kept.length - 1024
  { r with kept := ((r.kept.take old).filter fun k => decide ((k.1 - r.bound).toNat < 2 ^ 31)) ++ r.kept.drop old }
/-- The pair that numbers a write of die d at a PA (R406, R412). -/
def reqKey (d pa : Nat) : Option Nat :=
  match paSpace pa with
  | .hbm => if d = paDie pa then none else some (4 * paDie pa + d)
  | .peer => some (1025 + 8 * bits pa 53 44)
  | _ => none
/-- A request of die d that writes at another die or a peer carries the next number of its pair; performed, it is covered there and its response is kept (R406, R412). -/
def State.numberFrom (s : State) (d pa : Nat) (resp : List Byte) : State :=
  match reqKey d pa with
  | none => s
  | some k => { s with reqs := Cells.modify {} s.reqs k fun r => ReqPair.perform { r with next := r.next + 1 } r.next resp }
/-- The same for a core's request. -/
def State.numberReq (s : State) (core pa : Nat) (resp : List Byte) : State := s.numberFrom (coreDie core) pa resp
/-- A walk for die d marks its entry: an update at another die is numbered as every request that writes there (R237, R406). -/
def State.markFrom (s : State) (d pa : Nat) (write : Bool) : State :=
  if s.pteMarks pa write then (s.markPte pa write).numberFrom d pa [] else s

/-- Bytes of an object or binding record of a launch of the virtual device that has not retired: mapped read-only to its launches (R50). They are told by their virtual addresses in region 0 of that device; another address of the same bytes is not followed (DESIGN CHOICE, log 105). -/
def State.readOnly (s : State) (v va n : Nat) : Bool :=
  s.tasks.any fun c => c.2.vdev == v && c.2.st != .free && c.2.st != .retired && c.2.st != .complete
    && c.2.launch.adm.ro.any fun r => decide (r.1 < va + n ∧ va < r.1 + r.2)

/-- Byte index of private offset o of lane l (R252). -/
def privIndex (o l : Nat) : Nat := o / 4 * 128 + 4 * l + o % 4
/-- PA of private offset o of lane l, by the warp's private page list (R252). -/
def Warp.privPa (w : Warp) (o l : Nat) : Nat := w.pages.getD (privIndex o l / 65536) 0 + privIndex o l % 65536
/-- The n-th page that curators append to private page lists: a page of HBM outside the Cistern that they choose (R252, log 10). -/
def State.privPage (s : State) (n : Nat) : Nat :=
  let per := (80 - s.csize.toNat) * 2 ^ 14
  let p := Config.privPage n % (8 * per)
  p / per * 2 ^ 37 + p % per * 65536
/-- n pages appended to warp w of team k, and HWM raised with them (R252). -/
def State.addPages (s : State) (k w n : Nat) : State :=
  let ps := (List.range n).map fun i => s.privPage (s.nextPage + i)
  { s.modWarp k w fun x => { x with pages := x.pages ++ ps, hwm := x.hwm + 2048 * n } with nextPage := s.nextPage + n }

/-- The chunk of a PA waits for a new mapping (R240). -/
def State.chunkBusy (s : State) (pa : Nat) : Bool := paSpace pa == .hbm && Cells.get (16, 16) (s.die (paDie pa)).hsmapPend (paChunk pa) != (16, 16)

/-- Gallery offset reaches a die whose chunk the virtual device may access (R249). -/
def State.galOk (s : State) (v g : Nat) : Bool := decide (g < 2 ^ 31) && (s.vdev v).galvd.getLsbD (bits g 30 26)

/-! Performing a write at its home (R309, R374, R419, R254). -/

/-- RPCUR.OPEN and N of virtual device v (R425). -/
def State.openPoint (s : State) (v : Nat) : Option W32 :=
  let c := (s.rp v).cur
  if c.getLsbD 63 then some (c.truncate 32) else none

/-- A sector lies in a write window of a running update: no home slice retains its line (R385). -/
def State.inWriteWin (s : State) (sector : Nat) : Bool :=
  s.tasks.any fun t => t.2.trec.kind == 2 && t.2.st == .running && t.2.upd.win.any fun w => w.used && w.w && decide (w.pa ≤ 32 * sector ∧ 32 * sector < w.pa + w.len)

/-- A sector's present contents stand in HBM (R385, R398). -/
def State.toHbm (s : State) (sector : Nat) : State :=
  if s.tags.any fun c => c.1 == sector then { s with tags := Cells.modify {} s.tags sector fun t => { t with hbm := [] } } else s

/-- The tag a performed write leaves on its sector: the part's own snapshot-restoring write (task none) carries handle 0 (R419, R420). A write to a running update's write window goes to HBM (R385). -/
def State.tagSector (s : State) (v : Nat) (task : Option Nat) (sector : Nat) : State :=
  match s.openPoint v with
  | none => s
  | some n =>
    let old := Cells.get {} s.tags sector
    let hbm := if s.inWriteWin sector then [] else if old.hbm.isEmpty || old.sealed then readBytes s.mem (sector * 32) 32 else old.hbm
    let tag : SecTag := { vdev := v, point := n, handle := (match task with | some k => s.handleOf k | none => 0), unjournalled := true, sealed := false, hbm := hbm }
    let s := match task with
      | some k => let h := (s.handleOf k).toNat; s.modRp v fun r => if r.covered.contains h then r else { r with covered := r.covered ++ [h] }
      | none => s
    { s with tags := Cells.set {} s.tags sector tag }

/-- The stack that holds a sector's PA (R423). -/
def sectorStack (sector : Nat) : Nat := paStack (sector * 32)
/-- The journal of a stack has room for one more line (R423, R424). -/
def Stack.jrnRoom (k : Stack) : Bool := decide (k.lines.length < k.jrnSize.toNat * 16384)

/-- A home slice journals an unjournalled sector: one line with its present value (R423). JRNFULL is posted once while a virtual device's journalling waits. -/
def State.journalSector (s : State) (sector : Nat) : State :=
  let t := Cells.get {} s.tags sector
  let i := sectorStack sector
  if !t.unjournalled then s
  else if !(s.stk i).jrnRoom then
    if (s.stk i).jrnFull.contains t.vdev then s
    else (s.post 0 t.vdev 0x51 t.vdev 0 0 i).modStk i fun k => { k with jrnFull := k.jrnFull ++ [t.vdev] }
  else
    let s := s.modStk i fun k => { k with
      jseq := k.jseq + 1, jrnFull := k.jrnFull.filter (· != t.vdev),
      lines := k.lines ++ [{ pa := sector * 32, vdev := t.vdev, jseq := k.jseq, handle := t.handle, data := readBytes s.mem (sector * 32) 32, tag := t.point }] }
    { s with tags := Cells.set {} s.tags sector { t with unjournalled := false } }

/-- Unjournalled sectors of a virtual device's open or pending point. -/
def State.unjournalled (s : State) (v : Nat) : List Nat :=
  s.tags.filterMap fun c => if c.2.vdev = v ∧ c.2.unjournalled ∧ ¬c.2.sealed then some c.1 else none

/-- A path or rill thread of virtual device v, or its pending seal or a QUIESCE, waits for the journal (R319, R423, R430). -/
def State.jrnWaits (s : State) (v : Nat) : Bool :=
  (s.rp v).cur.getLsbD 62 || (s.qctl.getLsbD 7 && bits s.qctl.toNat 5 4 == 1 && s.qctl.toNat % 16 == v) || s.rills.any (fun r => r.2.hold == .durable && (s.team r.2.team).vdev == v)
    || s.teams.any fun t => t.2.vdev == v && (t.2.copies.any (fun c => c.kind == .marker && c.scope == 5) || t.2.warps.any fun w =>
      w.2.path.any (fun p => p.2.hold == .durable) || w.2.th.any fun th => th.2.held == .durable)
/-- A device whose journalling waits no longer has no wait counted, and its next one is posted again (R423, R424). -/
def State.jrnSettle (s : State) (v : Nat) : State :=
  if s.jrnWaits v then s else { s with stks := s.stks.map fun c => (c.1, { c.2 with jrnFull := c.2.jrnFull.filter (· != v) }) }

/-- A release at .rc is complete when every tagged sector of the virtual device is journalled (R423). -/
def State.durable (s : State) (v : Nat) : Bool := (s.unjournalled v).isEmpty

/-- The sectors a range of bytes touches. -/
def sectorsOf (pa n : Nat) : List Nat := (List.range ((pa % 32 + n + 31) / 32)).map (pa / 32 + ·)

/-- A launch has a page in SNAPPOOL or needs none (R374). -/
def State.snapHas (s : State) (task page : Nat) : Bool := (s.task task).launch.snaps.any fun p => p.pa == page

/-- A snapshot of a page before the launch's first write to it (R374). -/
def State.takeSnap (s : State) (task page : Nat) : State :=
  if s.snapHas task page then s
  else
    let img := s.mem.filterMap fun c => if page * 65536 ≤ c.1 ∧ c.1 < page * 65536 + 65536 then some (c.1 - page * 65536, c.2) else none
    s.modLaunch task fun l => { l with snaps := l.snaps ++ [{ pa := page, bytes := img }] }

/-- Pages of one virtual device's launches in its SNAPPOOL (R374). -/
def State.snapUsed (s : State) (v : Nat) : Nat :=
  s.tasks.foldl (fun n (_, t) => if t.vdev = v then n + t.launch.snaps.length else n) 0

/-- SNAPPOOL can take one more page (R374). -/
def State.snapRoom (s : State) (v : Nat) : Bool := decide ((s.snapUsed v + 1) * 65536 ≤ (s.vdev v).snapSize.toNat)

/-- A device-memory write by a launch performed at its home: snapshot, tag, bytes, poison of wholly covered sectors, back-invalidation of the host's lines (R254, R374, R410, R419). -/
def State.performBytes (s : State) (v task pa : Nat) (data : List Byte) : State :=
  let s := if paSpace pa == .hbm then s.takeSnap task (pa / 65536) else s
  let secs := sectorsOf pa data.length
  let s := if paSpace pa == .hbm then secs.foldl (fun s k => s.tagSector v (some task) k) s else s
  let full := secs.filter fun k => decide (pa ≤ k * 32 ∧ k * 32 + 32 ≤ pa + data.length)
  let s := s.backInvalidate pa data.length
  { s with mem := writeBytes s.mem pa data, poison := s.poison.filter fun k => !full.contains k }

/-! Reductions performed at a home, and the counters of a class (R89, R325, R326). -/

/-- Port i of the cluster of core c on its die (R116). -/
def corePort (c : Nat) : Nat := coreClus c % 18

/-- COUNT and EVENT_FIRST for one instruction's additions to a class of task k (R88, R89): breach says a range breach was counted; it posts CLASSR under evt, and under trap where a FRED met it (R326). -/
def State.count (s : State) (k c satc unfc : Nat) (breach : Bool) : State :=
  if satc + unfc = 0 ∧ ¬breach then s
  else
    let l := (s.task k).launch
    let b := l.clsAt c
    let o := Cells.get {} l.cnt c
    let n : ClsCnt := { o with satc := satAdd32 o.satc satc, unfc := satAdd32 o.unfc unfc }
    let ev := breach && b.rpol != 0 && !o.firstDone
    let wt := crossed b.thresh (o.satc.toNat + o.unfc.toNat) (n.satc.toNat + n.unfc.toNat)
    let n := { n with firstDone := o.firstDone || ev, evc := satAdd32 n.evc (b2n ev + b2n wt) }
    let s := s.modLaunch k fun l => { l with cnt := Cells.set {} l.cnt c n }
    let q := (s.task k).vdev
    let s := if ev then s.postTask l.firstDie q 0x20 k (c + 2 ^ 32 * n.satc.toNat) else s
    if wt then s.postTask l.firstDie q 0x21 k (c + 2 ^ 32 * (n.satc.toNat + n.unfc.toNat)) else s

/-- OP of ATOM and RED on w-bit numbers (R323). -/
def atomOp (op : AtomOp) (signed : Bool) (w old c : Nat) : Nat :=
  let sv (x : Nat) : Int := if signed && decide (2 ^ (w - 1) ≤ x) then (x : Int) - 2 ^ w else x
  match op with
  | .add => (old + c) % 2 ^ w
  | .min => if sv old ≤ sv c then old else c
  | .max => if sv old ≥ sv c then old else c
  | .and => old &&& c
  | .or => old ||| c
  | .xor => old ^^^ c
  | .exch => c
  | .incw => if c ≤ old then 0 else old + 1
  | .decw => if old = 0 ∨ c < old then c else old - 1

/-- ATOM's operation of a RED (R325). -/
def redAtom : RedOp → AtomOp
  | .add => .add | .min => .min | .max => .max | .and => .and | .or => .or | .xor => .xor

/-- The element a FRED leaves, as ROUND_CLASS under a policy that never traps (R326). -/
def fredOp (op : FredOp) (b : ClassB) (old : Nat) (c : RVal) : Deliv :=
  let o := classRead b old
  roundClassNoTrap b (match op with | .add => rAdd o c | .min => rMinMax false o c | .max => rMinMax true o c)

/-- FRED operation by SUB. -/
def fredOfNat : Nat → FredOp | 0 => .add | 1 => .min | _ => .max
/-- RED operation by SUB. -/
def redOfNat : Nat → RedOp | 0 => .add | 1 => .min | 2 => .max | 3 => .and | 4 => .or | _ => .xor

/-! Requests to host and peer memory (R411, R412, R414): a unit's accesses there first send requests, and are performed when all have been answered. -/

/-- A line that an outbound RMW owns (R411). -/
def State.lineOwned (s : State) (line : Nat) : Bool := s.cxl.any fun c => c.owner && c.pend.pa / 64 == line
/-- Requests leave the CXL port, and snoops of lines that none owns any more are answered (R411). -/
def State.cxlLeave (s : State) (f : CxlReq → Bool) : State :=
  let s := { s with cxl := s.cxl.filter fun c => !f c }
  { s with snoops := s.snoops.filter s.lineOwned }
/-- The entry is a request of one of some threads of a warp. -/
def Pend.askOf (p : Pend) (team warp : Nat) (ts : List Nat) : Bool :=
  p.team == team && p.warp == warp && (match p.ask with | some (t, _) => ts.contains t | none => false)
/-- Threads of a warp have requests that are not answered. -/
def State.asking (s : State) (team warp : Nat) (ts : List Nat) : Bool :=
  s.pend.any (·.askOf team warp ts) || s.cxl.any fun c => !c.answered && c.pend.askOf team warp ts
/-- A request of thread t has its answer; the thread has all when none is left. -/
def State.answer (s : State) (team warp t : Nat) : State :=
  if s.asking team warp [t] then s else s.modWarp team warp fun w => w.modThread t fun th => { th with got := true }
/-- Requests that satisfy f are given up. -/
def State.dropAsks (s : State) (f : Pend → Bool) : State :=
  ({ s with pend := s.pend.filter fun p => !(p.ask.isSome && f p) }).cxlLeave fun c => c.pend.ask.isSome && f c.pend

/-- A write or reduction performed at its home. -/
def State.performWrite (s : State) (p : Pend) : State :=
  match p.red with
  | none => s.performBytes p.vdev p.task p.pa p.data
  | some (op, df, cls, x) =>
    let z := p.data.length
    let old := readLe s.mem p.pa z
    if 0x80 ≤ df then s.performBytes p.vdev p.task p.pa (leBytes z (atomOp (redAtom (redOfNat op)) (df % 2 == 0) (8 * z) old (x.toNat % 2 ^ (8 * z))))
    else
      let b := (s.task p.task).launch.clsAt cls
      let r := fredOp (fredOfNat op) b old (classRead b x.toNat)
      (s.performBytes p.vdev p.task p.pa (leBytes z r.out)).count p.task cls r.satc r.unfc r.flg.breach

/-- A pending write or reduction is performed at its home; a request goes out at the CXL port, or is answered by a peer. -/
def State.performOne (s : State) (p : Pend) : State :=
  match p.ask with
  | none => (s.numberReq p.core p.pa []).performWrite p
  | some (t, owner) =>
    if paSpace p.pa == .host then { s with cxl := s.cxl ++ [{ id := s.cxlNext, pend := p, owner := owner }], cxlNext := s.cxlNext + 1 }
    else s.answer p.team p.warp t

/-- A write of task k to a page has its snapshot or room for it in SNAPPOOL (R374). -/
def State.snapReady (s : State) (task pa : Nat) : Bool :=
  paSpace pa != .hbm || s.snapHas task (pa / 65536) || s.snapRoom (s.task task).vdev

/-- Of writes of task k that are to be performed together, the first at a page that SNAPPOOL has no room for, by its VA and PA; ps are the new pages before it (R374). -/
def State.snapBlock (s : State) (task : Nat) (ps : List Nat) : List (Nat × Nat) → Option (Nat × Nat)
  | [] => none
  | (va, pa) :: r =>
    if paSpace pa != .hbm || s.snapHas task (pa / 65536) || ps.contains (pa / 65536) then s.snapBlock task ps r
    else if (s.snapUsed (s.task task).vdev + ps.length + 1) * 65536 ≤ (s.vdev (s.task task).vdev).snapSize.toNat then s.snapBlock task (pa / 65536 :: ps) r
    else some (va, pa)

/-- SNAPFULL for a write at a VA and PA, once for a waiting page (R374, R376). -/
def State.snapFull (s : State) (task va pa : Nat) : State :=
  let page := pa / 65536
  if (s.task task).launch.snapWait.contains page then s
  else
    let v := (s.task task).vdev
    let d := s.homeSlice (page * 65536) / 16
    let arg := va / 65536 * 65536 + (page % 2 ^ 40) * 2 ^ 88
    ((s.postTask d v 0x45 task arg).postTask d 16 0x45 task arg).modLaunch task fun l => { l with snapWait := l.snapWait ++ [page] }

/-- A pending entry may be performed: a write whose page has a snapshot or room for one, or a request that finds room in the CXL port (R374, R411). -/
def State.pendReady (s : State) (p : Pend) : Bool :=
  match p.ask with
  | some _ => paSpace p.pa != .host || decide (s.cxl.length < 1024)
  | none => s.snapReady p.task p.pa

/-- A pending access that cannot be performed waits; SNAPFULL is posted when SNAPPOOL is what it waits for. -/
def State.pendHeld (s : State) (p : Pend) : State := if p.ask.isNone then s.snapFull p.task p.va p.pa else s

/-- An earlier pending write p is performed before the write q: one of q's warp, or one that its team's release at .tm has published (R310, R312). -/
def Pend.before (p q : Pend) : Bool := p.ask.isNone && q.ask.isNone && p.team == q.team && (p.warp == q.warp || p.team_)

/-- The pending entry at index i is performed, when no earlier one that goes before it waits and SNAPPOOL has room; else only SNAPFULL is posted. -/
def State.performAt (s : State) (i : Nat) : State :=
  match s.pend[i]? with
  | none => s
  | some p =>
    if (s.pend.take i).any (·.before p) then s
    else if s.pendReady p then ({ s with pend := s.pend.eraseIdx i }).performOne p
    else s.pendHeld p

/-- Every pending entry that satisfies f is performed, after those that go before it (R310); one that cannot be stays, and so do those that it goes before. -/
def State.drainList (s : State) (f : Pend → Bool) : List Pend → List Pend → State
  | [], kept => { s with pend := kept }
  | p :: r, kept =>
    if (f p || r.any fun q => f q && p.before q) && !kept.any (·.before p) then
      (if s.pendReady p then (s.performOne p).drainList f r kept else (s.pendHeld p).drainList f r (kept ++ [p]))
    else s.drainList f r (kept ++ [p])

/-- Performs every pending write that satisfies f. -/
def State.drain (s : State) (f : Pend → Bool) : State := s.drainList (fun p => p.ask.isNone && f p) s.pend []

/-- No pending write satisfies f. -/
def State.drained (s : State) (f : Pend → Bool) : Bool := !s.pend.any fun p => p.ask.isNone && f p

/-! A chunk that changes its mapping (R240). -/

/-- An access lies in a chunk of a die. -/
def inChunk (d c : Nat) (p : Pend) : Bool := paSpace p.pa == .hbm && paDie p.pa == d && paChunk p.pa == c
/-- Unjournalled sectors of a chunk, whose lines the slices write back to the journal (R240, R420). -/
def State.chunkTags (s : State) (d c : Nat) : List Nat :=
  s.tags.filterMap fun t => if t.2.unjournalled ∧ ¬t.2.sealed ∧ paDie (32 * t.1) = d ∧ paChunk (32 * t.1) = c then some t.1 else none
/-- A chunk's waiting mapping takes effect once its accesses in progress are performed and its lines written back, those with unsealed values to the journal. -/
def State.applyMap (s : State) (d c : Nat) : State :=
  let p := Cells.get (16, 16) (s.die d).hsmapPend c
  if p = (16, 16) then s
  else
    let s := s.drain (inChunk d c)
    let s := (s.chunkTags d c).foldl State.journalSector s
    if s.drained (inChunk d c) && (s.chunkTags d c).isEmpty then
      s.modDie d fun x => { x with hsmapPend := Cells.erase x.hsmapPend c, hsmap := Cells.set (0, 4) x.hsmap c p }
    else s
/-- An access of the part, or of another agent on the links, to a chunk that changes its mapping waits for it (R240, log 120). -/
def State.settleChunk (s : State) (pa : Nat) : State := if s.chunkBusy pa then s.applyMap (paDie pa) (paChunk pa) else s

/-- The pending entries that are before the issuing warp's accesses: its own, and what its team's releases at .tm have published (R311). -/
def State.ownPend (s : State) : Pend → Bool := fun p => p.ask.isNone && p.team == s.cTeam && (p.warp == s.cWarp || p.team_)

/-- A release at .tm: the pending entries before the issuing warp's accesses are before those of its whole team (R311). -/
def State.publish (s : State) : State := { s with pend := s.pend.map fun p => if s.ownPend p then { p with team_ := true } else p }

/-- A release of the issuing warp: its pending writes are performed first, and the path waits while SNAPPOOL has no room, keeping its place at a queue (R311, R336, R374). -/
def State.release (s : State) (k : State → Out) : Out :=
  let s' := s.drain s.ownPend
  if s'.drained s'.ownPend then k s' else .next (s'.wait (match s'.cp.hold with | .queue t n p x => .queue t n p x | _ => .snap))

/-! Program counters and lines (R118 to R124). -/

/-- A PC names a slot (R123). -/
def pcOk (pc : W64) : Bool := bits pc.toNat 5 3 == 0 && decide (pc.toNat % 8 ≤ 4)
/-- Line address of a PC. -/
def pcLine (pc : W64) : Nat := pc.toNat / 64 * 64
/-- The PC n slots on (R123). -/
def pcNext (pc : W64) (n : Nat) : W64 := BitVec.ofNat 64 (pcLine pc + (pc.toNat % 8 + n) / 5 * 64 + (pc.toNat % 8 + n) % 5)
/-- A PC from a line and a slot (R133). -/
def pcAt (line : W64) (disp : BitVec 8) (slot : BitVec 3) : W64 := line + BitVec.ofInt 64 (disp.toInt * 64) + slot.setWidth 64

/-- The 64 bytes of a line read through a port of die d, and the entry of its translation (R117, R118, R233, R254). -/
def State.readLine (s : State) (v d port : Nat) (pc : W64) : Except MFault (List Byte × Nat) :=
  match s.translate v (pcLine pc) false true with
  | .error f => .error f
  | .ok (pa, e) =>
    if !s.reaches d port pa then .error .xbar
    else if s.poisoned pa then .error (.poison (pa / 32 * 32) false)
    else if s.poisoned (pa + 32) then .error (.poison ((pa + 32) / 32 * 32) false)
    else .ok (readBytes s.mem pa 64, e)

/-- A line as the issuer's core reads it. -/
def State.cLine (s : State) (pc : W64) : Except MFault (List Byte × Nat) :=
  let c := (s.team s.cTeam).core
  s.readLine s.cVdev (coreDie c) (corePort c) pc

/-- The line at HVEC as core c reads it (R116, R348). -/
def State.hvecLine (s : State) (v c : Nat) : Except MFault (List Byte × Nat) := s.readLine v (coreDie c) (corePort c) (s.vdev v).hvec
/-- The line at HVEC has KIND 1 (R348); a line that cannot be read has no kind. -/
def State.handlerLine (s : State) (v c : Nat) : Bool :=
  (s.vdev v).hvec != 0 && (match s.hvecLine v c with | .ok (l, _) => lineKind (lineWord l) == 1 | .error _ => false)

/-- The issuer's accesses reach a PA: through its core's port, or from the curator's own (R116, R117). -/
def State.cReaches (s : State) (pa : Nat) : Bool :=
  match s.cur.agent with
  | .curator d => s.partReaches d pa
  | _ => let c := (s.team s.cTeam).core; s.reaches (coreDie c) (corePort c) pa

/-! Paths (R151 to R159). -/

/-- A free entry of the path table. -/
def Warp.freeEntry (w : Warp) : Option Nat := (List.range 8).find? fun e => !(w.entry e).valid
/-- Several threads changed. -/
def Warp.modThreads (w : Warp) (ts : List Nat) (f : Thread → Thread) : Warp := ts.foldl (fun w t => w.modThread t f) w
/-- Threads in a state. -/
def Warp.inSt (w : Warp) (st : ThState) : List Nat := threads32.filter fun t => (w.thread t).st == st

/-- Threads at a PC form a new path with AGE 0, or are spilled (R155). -/
def Warp.addPath (w : Warp) (pc : W64) (ts : List Nat) : Warp :=
  if ts.isEmpty then w
  else
    match w.freeEntry with
    | some e => (w.modThreads ts fun th => { th with st := .pathed, pc := pc, held := .none, did := false, cnt := (0, 0, false), rng := false }).modEntry e fun _ => { valid := true, pc := pc, mask := maskOf ts }
    | none => w.modThreads ts fun th => { th with st := .spilled, pc := pc, held := .none, did := false, cnt := (0, 0, false), rng := false }

/-- The wait that all of some spilled threads were evicted in; threads of different waits issue their unit anew (R155). -/
def Warp.heldBy (w : Warp) (ts : List Nat) : Hold :=
  match ts with
  | t :: r => if r.all fun u => (w.thread u).held == (w.thread t).held then (w.thread t).held else .none
  | [] => .none

/-- Counts of two parts of a unit together. -/
def addCnt (a b : Nat × Nat × Bool) : Nat × Nat × Bool := (a.1 + b.1, a.2.1 + b.2.1, a.2.2 || b.2.2)
/-- What the paths that some threads were evicted from had counted (R89, R155). -/
def Warp.cntOf (w : Warp) (ts : List Nat) : Nat × Nat × Bool := ts.foldl (fun c t => addCnt c (w.thread t).cnt) (0, 0, false)

/-- A free entry is refilled with the spilled threads of the lowest PC (R155). -/
def Warp.refillOne (w : Warp) : Warp :=
  match w.freeEntry, w.inSt .spilled with
  | some e, t :: ts =>
    let pc := ts.foldl (fun m u => if (w.thread u).pc < m then (w.thread u).pc else m) (w.thread t).pc
    let ts := (t :: ts).filter fun u => (w.thread u).pc == pc
    let done := maskOf (ts.filter fun u => (w.thread u).did)
    let rng := maskOf (ts.filter fun u => (w.thread u).rng)
    { (w.addPath pc ts).modEntry e (fun p => { p with hold := w.heldBy ts, done := done, cnt := w.cntOf ts, rng := rng }) with spillAge := 0 }
  | _, _ => w

/-- Every free entry is refilled (R155). -/
def Warp.refill (w : Warp) : Warp := (List.range 8).foldl (fun w _ => w.refillOne) w

/-- Threads leave their entries; an entry left empty is free and refilled (R155, R157). -/
def Warp.leave (w : Warp) (ts : List Nat) : Warp :=
  let m := maskOf ts
  ((List.range 8).foldl (fun w e =>
    let p := w.entry e
    if p.valid && p.mask &&& m != 0 then w.modEntry e fun p => if p.mask &&& ~~~m = 0 then {} else { p with mask := p.mask &&& ~~~m } else w) w).refill

/-- A thread parks at its present PC (R157, R168). -/
def Thread.parksAt (th : Thread) (pc : W64) : Bool :=
  match th.strag with
  | none => th.meet == pc
  | some g => g.adopted == some pc

/-- Y adopts the stragglers of a released group, at the first parking of one of its threads (R168). -/
def Warp.adopt (w : Warp) (y : W64) (g : Nat) : Warp :=
  w.modThreads threads32 fun th =>
    let th := if th.member == some g then { th with member := none } else th
    match th.strag with
    | some s => if s.group = g ∧ s.adopted = none then { th with strag := some { s with adopted := some y }, meet := if th.st == .away then th.meet else y } else th
    | none => th

/-- A thread that waits in a SYNCM learns of a member that parks before it has matched (R171). -/
def Thread.parkSeen (ts : List Nat) (th : Thread) : Thread :=
  match th.sync, th.syncPk with
  | some (_, m, seen), none => { th with syncPk := ts.find? fun u => m.getLsbD u && !seen.getLsbD u }
  | _, _ => th

/-- Threads park at an address (R157). -/
def Warp.parkAt (w : Warp) (pc : W64) (ts : List Nat) : Warp :=
  let gs := (ts.filterMap fun t => (w.thread t).member).eraseDups
  let w := ((w.leave ts).modThreads ts fun th => { th with st := .parked, pc := pc }).modThreads threads32 (Thread.parkSeen ts)
  gs.foldl (fun w g => w.adopt pc g) w

/-- Of the threads ts that stand at an address those park that it meets, and then the stragglers among them that such a parking adopts (R157, R168). -/
def Warp.parkThose : Nat → Warp → W64 → List Nat → Warp
  | 0, w, _, _ => w
  | n + 1, w, pc, ts =>
    match ts.filter fun t => (w.thread t).parksAt pc with
    | [] => w
    | x :: r => Warp.parkThose n (w.parkAt pc (x :: r)) pc (ts.filter fun t => !(x :: r).contains t)

/-- An unadopted straggler of ts that reaches its MEET takes NOMEET and runs on (R168). -/
def Warp.passMeet (w : Warp) (pc : W64) (ts : List Nat) : Warp :=
  w.modThreads ts fun th => match th.strag with | some g => if g.adopted = none ∧ th.meet = pc then { th with meet := noMeet } else th | none => th

/-- Before a path issues, its threads that stand at their MEET park; an unadopted straggler takes NOMEET and runs on (R157, R168). -/
def Warp.parkPath (w : Warp) (e : Nat) : Warp :=
  let p := w.entry e
  let ts := maskList p.mask
  (w.parkThose 32 p.pc ts).passMeet p.pc ts

/-- The await set of an address (R158, R168). -/
def Warp.awaitSet (w : Warp) (x : W64) : List Nat :=
  threads32.filter fun t =>
    let th := w.thread t
    th.st != .exited && (match th.strag with | none => th.meet == x | some g => g.adopted == some x)

/-- A thread of the await set is parked at the address. -/
def Warp.isParkedAt (w : Warp) (x : W64) (t : Nat) : Bool := (w.thread t).st == .parked && (w.thread t).pc == x

/-- The group at an address can be released; none is while the warp runs a handler (R158, R348). -/
def Warp.releasable (w : Warp) (x : W64) : Bool :=
  w.handler.isNone && !(w.awaitSet x).isEmpty && (w.awaitSet x).all (w.isParkedAt x)

/-- Threads released at an address form one path there (R158). -/
def Warp.releaseAt (w : Warp) (x : W64) (ts : List Nat) (member : Option Nat) : Warp :=
  let w := w.modThreads ts fun th => { th with meet := noMeet, strag := none, member := member }
  { (w.addPath x ts) with timers := w.timers.filter fun t => t.addr != x }

/-- A thread of an await set that a rejoin timer counts as away: AWAY, or a straggler that has not parked (R167, R168). -/
def Warp.countsAway (w : Warp) (x : W64) (t : Nat) : Bool := (w.thread t).st == .away || ((w.thread t).strag.isSome && !w.isParkedAt x t)

/-- The rejoin timer of an address may run (R167). -/
def Warp.timerRuns (w : Warp) (x : W64) : Bool :=
  let a := w.awaitSet x
  a.all (fun t => w.isParkedAt x t || w.countsAway x t) && a.any (w.countsAway x) && a.any (w.isParkedAt x)

/-- Timers start for every address whose condition now holds (R167). -/
def Warp.startTimers (w : Warp) (cyc : Nat) : Warp :=
  let xs := ((w.inSt .parked).map fun t => (w.thread t).pc).eraseDups
  xs.foldl (fun w x => if w.timerRuns x && !w.timers.any (fun t => t.addr == x) then { w with timers := w.timers ++ [{ addr := x, start := cyc, rjt := w.rjt.toNat }] } else w) w

/-- The parked threads at an address are released by timeout: away ones become their stragglers, adopted stragglers cease to be ones, and a member recalled meanwhile still awaits the address (R167, R168). -/
def Warp.timeoutAt (w : Warp) (x : W64) : Warp :=
  let a := w.awaitSet x
  let parked := a.filter (w.isParkedAt x)
  let rest := a.filter fun t => !w.isParkedAt x t
  let g := w.stragGroups
  let new := rest.filter fun t => (w.thread t).strag.isNone && (w.thread t).st == .away
  let old := rest.filter fun t => (w.thread t).strag.isSome
  let w := w.modThreads new fun th => { th with strag := some { group := g } }
  let w := w.modThreads old fun th => { th with strag := none, meet := noMeet }
  let w := { w with stragGroups := g + 1 }
  w.releaseAt x parked (if new.isEmpty then none else some g)

/-! Ends (R159, R356, R372) and the rill contexts (R160 to R166). -/

/-- Contexts of a rill thread are freed. -/
def State.freeRills (s : State) (f : Rill → Bool) : State := { s with rills := s.rills.filter fun c => !f c.2 }

/-- A handler bank held by a warp is freed (R348). -/
def State.freeBank (s : State) (team warp : Nat) : State :=
  { s with handlerBank := s.handlerBank.filter fun c => c.2 != some (team, warp) }

/-- A fault slot or request belongs to a warp. -/
def FaultBy.ofWarp (team warp : Nat) (rills : Cells Rill) : FaultBy → Bool
  | .warp t w _ | .form t w _ => t == team && w == warp
  | .rill c => let r := Cells.get {} rills c; r.used && r.team == team && r.warp == warp
  | _ => false

/-- Fault slots and requests that satisfy f are given up on every die. -/
def State.freeFaults (s : State) (f : FaultBy → Bool) : State :=
  { s with dies := s.dies.map fun c => (c.1, { c.2 with fslots := c.2.fslots.filter (fun x => !f x.2.by_), faultQ := c.2.faultQ.filter fun x => !f x.by_ }) }

/-! Timeline counters and group phases (R272, R338). -/

/-- DONE passes completed numbers in order (R272). -/
def Tl.settle : Nat → Tl → Tl
  | 0, c => c
  | n + 1, c =>
    let d := c.done + 1
    if c.early.contains d.toNat then Tl.settle n { c with done := d, early := c.early.filter (· != d.toNat) } else c

/-- Number n of a counter is complete (R272). -/
def Tl.complete (c : Tl) (n : Nat) : Tl := if n ≤ c.done.toNat then c else Tl.settle (c.early.length + 1) { c with early := c.early ++ [n] }

/-- Counter n of team k changed. -/
def State.modTl (s : State) (k n : Nat) (f : Tl → Tl) : State := s.modTeam k fun t => { t with tl := Cells.modify {} t.tl n f }

/-- Number num of counter n of team k is complete. -/
def State.tlDone (s : State) (k n num : Nat) : State := s.modTl k n fun c => c.complete num

/-- Every warp of team number n of a launch that has not ended has arrived at a group, or the team has ended (R338). -/
def State.teamArrived (s : State) (task n : Nat) (p : GroupPh) : Bool :=
  (s.task task).launch.endedTeams.contains n ||
  s.teamKeys.any fun k => let t := s.team k
    t.task == task && t.num == n && (List.range t.wpt).all fun w => (t.warp w).ended || p.arrived.contains (n, w)

/-- Team numbers of a group (R47). -/
def Launch.members (l : Launch) (g : Nat) : List Nat := (List.range l.adm.groups.length).filter fun n => (l.adm.groups.getD n []).contains g

/-- A group's phase completes when every member team has arrived; GSYNC.nb numbers complete with it (R338). -/
def State.groupTry (s : State) (task g : Nat) : State :=
  let l := (s.task task).launch
  let p := Cells.get {} l.groups g
  if !p.arrived.isEmpty && (l.members g).all (fun n => s.teamArrived task n p) then
    let s := s.modLaunch task fun l => { l with groups := Cells.set {} l.groups g { phase := p.phase + 1, arrived := [] } }
    s.teamKeys.foldl (fun s k =>
      if (s.team k).task = task then
        let mine := (s.team k).nb.filter fun b => b.group == g && b.phase == p.phase
        mine.foldl (fun s b => s.tlDone k b.tl b.num) (s.modTeam k fun t => { t with nb := t.nb.filter fun b => !(b.group == g && b.phase == p.phase) })
      else s) s
  else s

/-- Every group of a launch in which some warp has arrived is examined. -/
def State.groupsTry (s : State) (task : Nat) : State := (Cells.keys (s.task task).launch.groups).foldl (fun s g => s.groupTry task g) s

/-- Where no warp of a team runs a handler any more, the oldest operations of its frozen batches become candidates (R287, R301). -/
def State.thaw (s : State) (k : Nat) : State :=
  if (s.team k).warps.any fun w => w.2.handler.isSome then s
  else s.modTeam k fun t => { t with batch := t.batch.map fun b => if b.tile < 8 then b.front s.cyc else b }

/-- A warp whose threads are all EXITED ends; a team whose warps have all ended ends (R159, R338, R416). -/
def State.endWarp (s : State) (team warp : Nat) : State :=
  let w := s.warp team warp
  if !w.ended && threads32.all fun t => (w.thread t).st == .exited then
    let s := ((s.freeBank team warp).modWarp team warp fun w => { w with ended := true, handler := none, timers := [], fault := none })
    let s := if w.handler.isSome then s.thaw team else s
    let t := s.team team
    let s := if t.st == .resident && (List.range t.wpt).all (fun i => (s.warp team i).ended) then
        (s.modTeam team fun t => { t with st := .ended }).modLaunch t.task fun l => { l with endedTeams := l.endedTeams ++ [t.num] }
      else s
    s.groupsTry t.task
  else s

/-- Threads of a warp become EXITED (R159). -/
def State.exitThreads (s : State) (team warp : Nat) (ts : List Nat) : State :=
  let s := s.modWarp team warp fun w => (w.modThreads ts fun th => { th with st := .exited, pend := none, strag := none, member := none, sync := none, syncPk := none }).leave ts
  s.endWarp team warp

/-- Every thread of a warp exits, its rill contexts and fault slots freed (R356). -/
def State.killWarp (s : State) (team warp : Nat) : State :=
  let s := s.freeFaults fun b => b.ofWarp team warp s.rills
  let s := (s.freeRills fun r => r.team == team && r.warp == warp).dropAsks fun p => p.team == team && p.warp == warp
  s.exitThreads team warp threads32

/-- What a warp's paths, and its threads evicted in a wait, wait for. -/
def Warp.holds (w : Warp) : List Hold := w.path.map (fun p => p.2.hold) ++ (w.th.filter fun t => t.2.st == .spilled).map fun t => t.2.held

/-- MALC tickets of a team: its paths', and its own at a restore (R291, R371). -/
def Team.tickets (t : Team) : List Nat :=
  t.tileTicket.toList ++
  t.warps.flatMap fun w => w.2.holds.filterMap fun h => match h with | .malc n _ => some n | _ => none

/-- A team leaves its core: rill contexts, tiles, engine work, bank, fault slots and MALC places are freed (R365, R372, R416). -/
def State.removeTeam (s : State) (k : Nat) : State :=
  let t := s.team k
  let s := s.freeFaults fun b => match b with
    | .warp x _ _ | .form x _ _ | .copy x _ _ | .save x | .restore x => x == k
    | .rill c => (s.rill c).team == k && (s.rill c).used
  let s := (s.freeRills fun r => r.team == k).dropAsks fun p => p.team == k
  let s := { s with handlerBank := s.handlerBank.filter fun c => match c.2 with | some (x, _) => x != k | none => true }
  let ofTeam : Option (Nat × Nat) → Option (Nat × Nat) := fun o => match o with | some (x, n) => if x = k then none else some (x, n) | none => none
  let s := s.modEngine (coreClus t.core) fun e => { e with
    tiles := e.tiles.filter (fun c => match c.2.owner with | some (x, _) => x != k | none => true),
    array := ofTeam e.array, arrayNext := ofTeam e.arrayNext, conv := ofTeam e.conv, tileU := ofTeam e.tileU,
    malcWait := e.malcWait.filter fun n => !t.tickets.contains n }
  { s with teams := Cells.erase s.teams k }

/-- Teams of a launch, resident or saved. -/
def State.teamsOf (s : State) (task : Nat) : List Nat := s.teamKeys.filter fun k => (s.team k).task == task

/-- Every team of a launch stops; what the part holds for it is freed, and its issued writes are performed where they can be (R372, R373). -/
def State.stopLaunch (s : State) (task : Nat) : State :=
  ((s.teamsOf task).foldl State.removeTeam (s.drain fun p => p.task == task)).jrnSettle (s.task task).vdev

/-- Every write that a launch issued is performed (R373). -/
def State.launchQuiet (s : State) (task : Nat) : Bool := s.drained fun p => p.task == task

/-- A killed launch completes with KILLED, its snapshots freed (R372). -/
def State.endKilled (s : State) (task : Nat) : State :=
  s.modTask task fun t => { t with st := .complete, status := 0x306, tend := s.ns, launch := { t.launch with snaps := [], snapWait := [], stopping := none } }

/-- A launch is killed: stopped, and completed once its issued writes are performed (R372). -/
def State.killLaunch (s : State) (task : Nat) : State :=
  let s := s.stopLaunch task
  if s.launchQuiet task then s.endKilled task else s.modLaunch task fun l => { l with stopping := some true }

/-! Traps (R346 to R350, R354). -/

/-- The registers a handler bank takes: v56 to v63, s28 to s31, p4 to p6 (R348). -/
def bankV (k : Nat) : Bool := 56 ≤ k % 64
/-- s registers of the bank. -/
def bankS (k : Nat) : Bool := 28 ≤ k
/-- Predicates of the bank. -/
def bankP (k : Nat) : Bool := 4 ≤ k % 8

/-- Dispatch of a trap into the handler, the bank being free (R348). -/
def State.dispatchTrap (s : State) (team warp entry : Nat) (t : Trap) : State :=
  let v := (s.team team).vdev
  let h := (s.vdev v).hvec
  let s := s.modWarp team warp fun w =>
    let p := w.entry entry
    let save : HandlerSave := { v := w.v.filter fun c => bankV c.1, s := w.s.filter fun c => bankS c.1, p := w.p.filter fun c => bankP c.1,
                                mask := p.mask, pc := t.pc, nextPc := t.next, entry := entry }
    { (w.modEntry entry fun p => { p with pc := h, hold := .none, done := 0, cnt := (0, 0, false), rng := 0 }) with
      v := w.v.filter (fun c => !bankV c.1), s := w.s.filter (fun c => !bankS c.1), p := w.p.filter (fun c => !bankP c.1),
      handler := some save, look := w.look.filter (fun c => !p.mask.getLsbD c.1),
      tcause := BitVec.ofNat 64 t.cause, tpc := t.pc, tinfo := t.info, tinfo2 := t.info2, tmask := t.mask.setWidth 64, tstat := 0 }
  { s with handlerBank := Cells.set none s.handlerBank (s.team team).core (some (team, warp)) }

/-- TRAPKILL, and the launch is killed (R348, R350, R376). -/
def State.trapKill (s : State) (team : Nat) (t : Trap) : State :=
  let tm := s.team team
  (s.postTask (coreDie tm.core) tm.vdev 0x40 tm.task (t.cause + t.pc.toNat * 2 ^ 8 + tm.num * 2 ^ 72)).killLaunch tm.task

/-- XBARV to the host queue (R106, R117, log 11). -/
def State.xbarv (s : State) (d port pa : Nat) : State :=
  let h := if paSpace pa == .hbm then s.homeSlice pa else 0
  s.post d 16 0x16 0xFF 0 0 (port + h * 2 ^ 32 + d * 2 ^ 64)

/-- A read of HVEC's line that the crossbar refuses posts XBARV (R117). -/
def State.hvecRefused (s : State) (v c : Nat) : State :=
  match s.hvecLine v c with
  | .error .xbar => s.xbarv (coreDie c) (corePort c) (match s.translate v (pcLine (s.vdev v).hvec) false true with | .ok (pa, _) => pa | .error _ => 0)
  | _ => s

/-- TAKE_TRAP (R348, R350): handler says the trap arose in a handler line. -/
def State.takeTrap (s : State) (team warp entry : Nat) (handler : Bool) (t : Trap) : State :=
  let tm := s.team team
  if handler then s.trapKill team t
  else if (s.vdev tm.vdev).hvec = 0 then s.trapKill team t
  else if !s.handlerLine tm.vdev tm.core then (s.hvecRefused tm.vdev tm.core).trapKill team t
  else if (Cells.get none s.handlerBank tm.core).isNone then s.dispatchTrap team warp entry t
  else s.modWarp team warp fun w => w.modEntry entry fun p => { p with hold := .trap t }

/-- The rill context's v and p registers in the slots of its thread, from an index on. -/
def Rill.vSlots (r : Rill) (lo n : Nat) (m : Cells W32) : Cells W32 :=
  (List.range n).foldl (fun m i => Cells.set 0 m (64 * r.thread + lo + i) (Cells.get 0 r.v (lo + i))) m
/-- Its predicates. -/
def Rill.pSlots (r : Rill) (lo n : Nat) (m : Cells Bool) : Cells Bool :=
  (List.range n).foldl (fun m i => Cells.set false m (8 * r.thread + lo + i) (Cells.get false r.p (lo + i))) m
/-- An away thread leaves its rill contexts for its frozen slots (R163, R166); while its warp runs a handler, the banked ones among them stand in the bank (R348). -/
def State.writeBack (s : State) (c : Nat) : State :=
  let r := s.rill c
  let t := r.thread
  let s := s.modWarp r.team r.warp fun w =>
    let w := w.modThread t fun th => { th with vstat := r.vstat }
    match w.handler with
    | none => { w with v := r.vSlots 0 64 w.v, p := r.pSlots 0 7 w.p }
    | some h => { w with v := r.vSlots 0 56 w.v, p := r.pSlots 0 4 w.p, handler := some { h with v := r.vSlots 56 8 h.v, p := r.pSlots 4 3 h.p } }
  (s.freeFaults fun b => b == .rill c).freeRills fun x => x.team == r.team && x.warp == r.warp && x.thread == t

/-- Recall: the thread stands in the warp as a new path at a PC (R163, R168). -/
def State.recallRill (s : State) (c : Nat) (pc : W64) (pend : Option Trap) : State :=
  let r := s.rill c
  (s.writeBack c).modWarp r.team r.warp fun w =>
    (w.modThread r.thread fun th =>
      { th with pend := pend, meet := match th.strag with | some g => g.adopted.getD th.meet | none => th.meet }).addPath pc [r.thread]

/-- A precise trap of the issuing unit (R346, R165): the unit has no effect. info is TINFO, mask TMASK. -/
def State.trapWith (s : State) (cause : Nat) (info info2 : W64) (mask : W32) : State :=
  let t : Trap := { cause := cause, info := info, info2 := info2, mask := mask, pc := s.cur.upc, next := s.cur.npc }
  match s.cur.agent with
  | .warp team warp e =>
    let h := s.cur.handler
    ({ s with cur := { s.cur with stop := true } }).takeTrap team warp e h t
  | .rill c => ({ s with cur := { s.cur with stop := true } }).recallRill c s.cur.upc (some t)
  | _ => { s with cur := { s.cur with stop := true } }

/-- A trap that belongs to the path: TMASK holds the active threads (R347). -/
def State.trap (s : State) (cause : Nat) (info : Nat) (act : List Nat) : Out :=
  .next (s.trapWith cause (BitVec.ofNat 64 info) 0 (maskOf act))

/-- A precise trap in some threads, with one word of information (R347). -/
def State.trapT (s : State) (cause info : Nat) (ts : List Nat) : Out := .next (s.trapWith cause (BitVec.ofNat 64 info) 0 (maskOf ts))

/-- A translation fault or poisoned fill of the issuing unit: a fault slot is requested, and the warp or the rill context stops (R253, R165). mask holds the threads that met it. -/
def State.takeFault (s : State) (f : MFault) (va : Nat) (mask : W32) : State :=
  let d := coreDie (s.team s.cTeam).core
  let s := { s with cur := { s.cur with stop := true } }
  let pa := match f with | .poison a _ => a | _ => 0
  let walk := match f with | .poison _ w => w | _ => false
  let slot (b : FaultBy) : FSlot := { used := true, by_ := b, kind := f.kind, va := va, pa := pa, walk := walk, cause := f.cause, mask := mask, pc := s.cur.upc, next := s.cur.npc }
  match s.cur.agent with
  | .warp t w e =>
    (s.modDie d fun x => { x with faultQ := x.faultQ ++ [slot (.warp t w e)] }).modWarp t w fun x =>
      { (x.modEntry e fun p => { p with age := s.cur.age }) with fault := some (d, 1024) }
  | .rill c =>
    (s.modDie d fun x => { x with faultQ := x.faultQ ++ [slot (.rill c)] }).modRill c fun r => { r with fault := some (d, 1024) }
  | _ => s

/-- A fault of an instruction fetch at a PC: XBAR is a trap, the others take a slot (R117, R253). -/
def State.fetchFault (s : State) (f : MFault) (pc : W64) : Out :=
  match f with
  | .xbar =>
    let c := (s.team s.cTeam).core
    let pa := match s.translate s.cVdev (pcLine pc) false true with | .ok (pa, _) => pa | .error _ => 0
    (s.xbarv (coreDie c) (corePort c) pa).trapT 0x28 (pcLine pc) s.pathThreads
  | f => .next (s.takeFault f (pcLine pc) (maskOf s.pathThreads))

/-- ILLOP (R140, R347): TINFO is the offending slot's address. -/
def State.illop (s : State) : Out := .next (s.trapWith 4 s.cur.ipc 0 (maskOf s.pathThreads))

/-- A path of a warp in handler code is a handler path when its threads are the trapping path's (R348). -/
def Warp.isHandlerPath (w : Warp) (e : Nat) : Bool := match w.handler with | some h => (w.entry e).mask &&& h.mask != 0 | none => false

/-- A tile of the team is EVICTED (R302). -/
def Team.anyEvicted (t : Team) : Bool := t.tiles.any fun c => c.2.evicted

/-- A handler path of the warp other than that of entry e runs on: it can restore a tile (R354). -/
def Warp.othersRestore (w : Warp) (e : Nat) : Bool :=
  match w.handler with
  | none => false
  | some h =>
    (List.range 8).any (fun x => x != e && (w.entry x).valid && (w.entry x).mask &&& h.mask != 0 && (w.entry x).hold != .evicted)
    || (maskList h.mask).any fun t => (w.thread t).st == .spilled && (w.thread t).held != .evicted

/-- The return from a trap (R354), the team holding no EVICTED tile: the bank returns, other handler paths vanish, and the saved path resumes with no lookahead window open (R135). -/
def State.eretPath (s : State) (team warp : Nat) : State :=
  match (s.warp team warp).handler with
  | none => s
  | some h =>
    let s := s.modWarp team warp fun w =>
      let mine := (maskList h.mask).filter fun t => (w.thread t).st != .exited
      let w := (List.range 8).foldl (fun w e => if (w.entry e).mask &&& h.mask != 0 then w.modEntry e fun _ => {} else w) w
      let pc := if w.tstat.getLsbD 0 then h.nextPc else h.pc
      let w := if mine.isEmpty then w else if (w.entry h.entry).valid then w.addPath pc mine
        else (w.modThreads mine fun th => { th with st := .pathed, pc := pc }).modEntry h.entry fun _ => { valid := true, pc := pc, mask := maskOf mine }
      { w.refill with
        v := h.v.foldl (fun m c => Cells.set 0 m c.1 c.2) (w.v.filter fun c => !bankV c.1),
        s := h.s.foldl (fun m c => Cells.set 0 m c.1 c.2) (w.s.filter fun c => !bankS c.1),
        p := h.p.foldl (fun m c => Cells.set false m c.1 c.2) (w.p.filter fun c => !bankP c.1),
        look := w.look.filter (fun c => !h.mask.getLsbD c.1), handler := none }
    (s.thaw team).freeBank team warp

/-- A unit executed by an away thread only after its recall to the warp (R163). -/
def State.inWarp (s : State) (k : State → Out) : Out :=
  match s.cur.agent with
  | .rill c => .next (({ s with cur := { s.cur with stop := true } }).recallRill c s.cur.upc none)
  | _ => k s

end Sys2Proof.Machine
end

