-- ==== Sys2Proof/Machine/Graph.lean ====
section
/-! DEFINITION. The task graph's shared operations: the part's own reads and writes of records through a virtual device's page table, task records (spec/05 R92), releases (R93, R100, R104), list fetching (R96 to R98), LAUNCH's append (R97), and how a failed task's successors end (R102). -/

namespace Sys2Proof.Machine

open Sys2Proof

/-! Records in memory. The part's own accesses for a die's curator come from a port that no HSMASK checks (R116); a peer's node they name must be reachable from that die (R413, log 18). -/

/-- A range of VAs cut at 64 KiB pages: {VA, length}. -/
def pageSegs : Nat → Nat → Nat → List (Nat × Nat)
  | 0, _, _ => []
  | f + 1, va, n => if n = 0 then [] else (va, min n (65536 - va % 65536)) :: pageSegs f (va + min n (65536 - va % 65536)) (n - min n (65536 - va % 65536))

/-- A poisoned sector that an access meets: any for a read, one it does not wholly cover for a write (R254). -/
def State.poisonHit (s : State) (pa n : Nat) (write : Bool) : Option Nat :=
  (sectorsOf pa n).find? fun k => s.poison.contains k && !(write && decide (pa ≤ 32 * k ∧ 32 * k + 32 ≤ pa + n))

/-- Segments of VAs translated for die d: {PA, length} with the entries' A and D set (R234, R237); where a chunk changes its mapping the access waits for it (R240, log 120). -/
def State.mapSegs (s : State) (d v : Nat) (write : Bool) : List (Nat × Nat) → Except MFault (List (Nat × Nat) × State)
  | [] => .ok ([], s)
  | (va, n) :: r =>
    match s.translate v va write false with
    | .error e => .error e
    | .ok (pa, pte) =>
      let s := s.settleChunk pa
      if !s.partReaches d pa then .error .xbar
      else match s.poisonHit pa n write with
      | some k => .error (.poison (32 * k) false)
      | none =>
        match (s.markFrom d pte write).mapSegs d v write r with
        | .error e => .error e
        | .ok (l, s) => .ok ((pa, n) :: l, s)

/-- n bytes at a VA, read for die d. -/
def State.devRead (s : State) (d v va n : Nat) : Except MFault (List Byte × State) :=
  match s.mapSegs d v false (pageSegs (n / 65536 + 2) va n) with
  | .error e => .error e
  | .ok (l, s) => .ok (l.flatMap fun x => readBytes s.mem x.1 x.2, s)

/-- Bytes placed at physical segments. -/
def writeSegs (m : Cells Byte) : List (Nat × Nat) → List Byte → Cells Byte
  | [], _ => m
  | (pa, n) :: r, bs => writeSegs (writeBytes m pa (bs.take n)) r (bs.drop n)

/-- The part's own write at a VA for die d: a wholly covered sector loses its poison, the host's lines are back-invalidated, and it is numbered at another die or a peer (R254, R406, R410). It is no task's write, so it carries no tag (R419). -/
def State.devWrite (s : State) (d v va : Nat) (bs : List Byte) : Except MFault State :=
  match s.mapSegs d v true (pageSegs (bs.length / 65536 + 2) va bs.length) with
  | .error e => .error e
  | .ok (l, s) =>
    let full := l.flatMap fun x => (sectorsOf x.1 x.2).filter fun k => decide (x.1 ≤ 32 * k ∧ 32 * k + 32 ≤ x.1 + x.2)
    let s := l.foldl (fun (s : State) x => (s.numberFrom d x.1 []).backInvalidate x.1 x.2) s
    .ok { s with mem := writeSegs s.mem l bs, poison := s.poison.filter fun k => !full.contains k }

/-! Task records (R92). -/

/-- SUCC entries as 4-byte words. -/
def succWords (bs : List Byte) : List Nat := (List.range 4).map fun i => fieldAt bs (0x20 + 4 * i) 4

/-- A record as the graph keeps it; its position is its list's. -/
def parseTask (bs : List Byte) (pos : Nat) : TaskRec :=
  let n := fieldAt bs 6 1
  { kind := fieldAt bs 4 1, npred := fieldAt bs 5 1, nsucc := n, seq := pos, tag := BitVec.ofNat 32 (fieldAt bs 0xC 4),
    desc := BitVec.ofNat 64 (fieldAt bs 0x10 8), caddr := BitVec.ofNat 64 (fieldAt bs 0x18 8),
    succ := ((succWords bs).take n).map (· % 2 ^ 24), raw := bs }

/-- A record keeps R92; one on the launch list has no successor (R97). -/
def taskRecOk (bs : List Byte) (list : Nat) : Bool :=
  let n := fieldAt bs 6 1
  let ws := succWords bs
  fieldAt bs 0 4 == 0x4B544A46 && (fieldAt bs 4 1 == 1 || fieldAt bs 4 1 == 2) && decide (n ≤ 4) && zeroAt bs 7 1 && zeroAt bs 0x38 8
  && fieldAt bs 0x18 8 % 64 == 0 && (ws.take n).all (fun w => decide (1 ≤ w ∧ w ≤ 4095)) && (ws.drop n).all (· == 0) && (list != 15 || n == 0)

/-! Releases. -/

/-- The dispatch mode in effect (R108, R113). -/
def State.gdisp (s : State) (v : Nat) : Bool := (s.vdev v).cfg.getLsbD 0

/-- Partition of a virtual device in effect (R113). -/
def Vdev.partId (v : Vdev) : Nat := bits v.cfg.toNat 34 32
/-- The virtual device holds its slice (R108, R115). -/
def State.holdsSlice (s : State) (v : Nat) : Bool := (s.part (s.vdev v).partId).holder == some v
/-- A dispatch opportunity arises on a die for a virtual device that hardware dispatches for and that holds its slice (R108). -/
def State.opportune (s : State) (d v : Nat) : State :=
  if !s.gdisp v && s.holdsSlice v then { s with opps := Cells.modify 0 s.opps (16 * d + v) (· + 1) } else s

/-- A task becomes READY, an opportunity on its home die; READY is posted in guest mode (R108). -/
def State.makeReady (s : State) (k : Nat) : State :=
  let s := s.modTask k fun t => { t with st := .ready }
  if s.gdisp (s.task k).vdev then s.postTask (taskDie k) (s.task k).vdev 0x11 k (s.task k).list else s.opportune (taskDie k) (s.task k).vdev

/-- One release of a task from source 0 edge, 1 signal or 2 TGDEC (R93); by_ is the signaller it consumes (R104). -/
def State.releaseTask (s : State) (k src : Nat) (by_ : Option Nat) : State :=
  let t := s.task k
  if t.st = .waiting then
    let s := s.modTask k fun t => { t with rcvd := t.rcvd + 1, consumed := match by_ with | some h => t.consumed ++ [h] | none => t.consumed }
    if t.npred ≤ t.rcvd + 1 then s.makeReady k else s
  else s.postTask (taskDie k) t.vdev 0x15 k src

/-- STALESIG of a TLSIG on die d by task me (R99, R106). -/
def State.staleSig (s : State) (d me : Nat) (h : W64) : State := s.postTask d (s.task me).vdev 0x14 me h.toNat

/-- TLSIG's release of the task a handle names (R93, R104, R339). -/
def State.signal (s : State) (d me : Nat) (h : W64) : State :=
  let l := (s.task me).launch
  if l.sigSkip.contains h.toNat then s.modLaunch me fun l => { l with sigSkip := l.sigSkip.erase h.toNat }
  else
    match s.entryOf h with
    | none => s.staleSig d me h
    | some k =>
      if (s.task k).vdev ≠ (s.task me).vdev then s.staleSig d me h
      else
        let s' := s.releaseTask k 1 (some (s.handleOf me).toNat)
        if (s.task k).st = .waiting then s' else s'.modLaunch me fun l => { l with signalled := l.signalled ++ [h.toNat] }

/-! Fetching (R96, R98). -/

/-- The live task at a position of a list. -/
def State.taskAt (s : State) (v l pos : Nat) : Option Nat :=
  (Cells.keys s.tasks).find? fun k => let t := s.task k; t.st != .free && t.vdev == v && t.list == l && t.trec.seq == pos

/-- A free graph entry of a die; the lowest (R96: which is not architectural). -/
def State.freeEntry (s : State) (d : Nat) : Option Nat := ((List.range 4096).find? fun i => (s.task (4096 * d + i)).st == .free).map (4096 * d + ·)

/-- The next generation of an entry (R99). -/
def nextGen (g : W32) : W32 := if g = 0xFFFFFFFF then 1 else g + 1

/-- Address of a list's slot for a position (R94). -/
def SubList.slot (x : SubList) (pos : Nat) : Nat := x.lbase.toNat + 64 * (pos % 2 ^ x.lsz)

/-- The record at position pos − 4,096 has retired (R98). -/
def SubList.aged (x : SubList) (pos : Nat) : Bool := !x.notRetired.contains ((pos + 2 ^ 32 - 4096) % 2 ^ 32)

/-- The excess releases of an edge window above NPRED are posted (R100). -/
def State.postExcess (s : State) (k : Nat) : Nat → State
  | 0 => s
  | n + 1 => (s.postTask (taskDie k) (s.task k).vdev 0x15 k 0).postExcess k n

/-- A fetched record takes graph entry k (R96, R97, R99 to R101). -/
def State.enterTask (s : State) (v l k : Nat) (bs : List Byte) (parent : Option Nat) : State :=
  let x := (s.vdev v).list l
  let pos := x.head.toNat
  let slot := Cells.get (0, false) x.window (pos % 4096)
  let r := parseTask bs pos
  let n := r.npred + b2n parent.isSome
  let t : Task := { gen := nextGen (s.task k).gen, vdev := v, list := l, trec := r, npred := n, rcvd := min slot.1 n, parent := parent, order := s.nextOrder }
  let s := { (s.modTask k fun _ => { t with st := .waiting }) with nextOrder := s.nextOrder + 1 }
  let s := s.modList v l fun x => { x with head := x.head + 1, window := Cells.erase x.window (pos % 4096), notRetired := x.notRetired ++ [pos] }
  if !taskRecOk bs l then s.modTask k fun t => { t with st := .complete, status := 0x300 }
  else
    let s := s.postExcess k (slot.1 - n)
    if n ≤ slot.1 then s.makeReady k
    else if slot.2 then s.modTask k fun t => { t with st := .complete, status := 0x305 }
    else s

/-- One record of a list is fetched, when it can be (R96, R98); a record that cannot be read, or whose handle cannot be written back, stops the list as one with another SEQ (log 19). -/
def State.fetchTask (s : State) (v l : Nat) : State :=
  let x := (s.vdev v).list l
  if !x.en || x.stalled || x.head == x.tail || !x.aged x.head.toNat then s
  else
    match s.freeEntry x.hdie with
    | none => s
    | some k =>
      let a := x.slot x.head.toNat
      let stall := (s.modList v l fun x => { x with stalled := true }).post x.hdie v 0x13 v 0 0 (x.head.toNat + l * 2 ^ 32)
      match s.devRead x.hdie v a 64 with
      | .error _ => stall
      | .ok (bs, s) =>
        if fieldAt bs 8 4 ≠ x.head.toNat then stall
        else
          match s.devWrite x.hdie v (a + 0x30) (leBytes 8 ((nextGen (s.task k).gen).toNat * 65536 + k)) with
          | .error _ => stall
          | .ok s => s.enterTask v l k bs none

/-- LAUNCH's append of a record to list 15 by task me: the new handle, or 0 with nothing changed (R97), as where the slot cannot be written (DESIGN CHOICE, log 115). -/
def State.appendLaunch (s : State) (me : Nat) (bs : List Byte) : State × W64 :=
  let v := (s.task me).vdev
  let x := (s.vdev v).list 15
  let pos := x.tail.toNat
  if !x.en || x.head != x.tail || !x.aged pos then (s, 0)
  else
    match s.freeEntry x.hdie with
    | none => (s, 0)
    | some k =>
      let h := (nextGen (s.task k).gen).toNat * 65536 + k
      let rec_ := bs.take 8 ++ leBytes 4 pos ++ (bs.drop 12).take 36 ++ leBytes 8 h ++ bs.drop 56
      match s.devWrite x.hdie v (x.slot pos) rec_ with
      | .error _ => (s, 0)
      | .ok s => ((s.modList v 15 fun x => { x with tail := x.tail + 1 }).enterTask v 15 k rec_ (some me), BitVec.ofNat 64 h)

/-! Ends of tasks (R97, R98, R101, R102, R104, R417). -/

/-- Records that task k appended, their parent link cleared (R97). -/
def State.orphanKids (s : State) (k : Nat) : List Nat × State :=
  let cs := (Cells.keys s.tasks).filter fun c => (s.task c).parent == some k && (s.task c).st != .free
  (cs, cs.foldl (fun s c => s.modTask c fun t => { t with parent := none }) s)

/-- A launch has retired: the tasks that consumed its signals wait for it no longer (R104). -/
def State.signallerRetired (s : State) (h : Nat) : State := { s with tasks := s.tasks.map fun c => (c.1, { c.2 with consumed := c.2.consumed.filter (· != h) }) }
/-- Every launch whose signal a task consumed has retired (R104). One that was killed never has: its dependent stays until a recovery ends it (log 72). -/
def Task.signallersDone (t : Task) : Bool := t.consumed.isEmpty

/-- A task retires: its snapshots are freed, its list position has retired, its signals are settled, the records it appended take its release, and an update gives a dispatch opportunity (R97, R98, R104, R108, R417). -/
def State.retire (s : State) (k : Nat) : State :=
  let t := s.task k
  let s := s.modTask k fun t => { t with st := .retired, tend := s.ns, launch := { t.launch with snaps := [], snapWait := [] } }
  let s := s.modList t.vdev t.list fun x => { x with notRetired := x.notRetired.filter (· != t.trec.seq) }
  let s := s.signallerRetired (s.handleOf k).toNat
  let (cs, s) := s.orphanKids k
  let s := cs.foldl (fun s c => s.releaseTask c 0 none) s
  if t.trec.kind = 2 then s.opportune (taskDie k) t.vdev else s

/-- A task ends with a fault or KILLED: it waits for its completion event (R101, R103). -/
def State.failTask (s : State) (k status : Nat) : State := s.modTask k fun t => { t with st := .complete, status := status }

/-- An edge of a retired or failed task to position pos of its list (R100, R102). A release to a task that has gone posts TASKUF with its handle (R93). -/
def State.edge (s : State) (v l pos : Nat) (ok : Bool) : State :=
  let x := (s.vdev v).list l
  if 1 ≤ (x.head.toNat + 2 ^ 32 - pos) % 2 ^ 32 ∧ (x.head.toNat + 2 ^ 32 - pos) % 2 ^ 32 < 2 ^ 31 then
    match s.taskAt v l pos with
    | none =>
      let g := Cells.get (0, 0) x.gone pos
      if ok && g.1 != 0 then s.post (taskDie (g.1 % 65536)) v 0x15 v g.2 g.1 0 else s
    | some k => if ok then s.releaseTask k 0 none else if (s.task k).st = .waiting then s.failTask k 0x305 else s
  else
    s.modList v l fun x => { x with window := Cells.modify (0, false) x.window (pos % 4096) fun w => if ok then (w.1 + 1, w.2) else (w.1, true) }

/-- A task that leaves the graph has had its signals: a replay of a launch whose signal it consumed passes over them (R104). -/
def State.signalsSpent (s : State) (k : Nat) : State :=
  (s.task k).consumed.foldl (fun s h => match s.taskOf (BitVec.ofNat 64 h) with
    | some j => s.modLaunch j fun l => { l with signalled := l.signalled ++ [(s.handleOf k).toNat] }
    | none => s) s
/-- A task leaves the graph: its position is kept for edges still to come, and positions that no live task's edge can name are forgotten (R92, R93). -/
def State.leaveGraph (s : State) (k : Nat) : State :=
  let t := s.task k
  let s := s.signalsSpent k
  let s := s.modTask k fun t => { gen := t.gen, vdev := t.vdev, trec := { tag := t.trec.tag } }
  let live := s.tasks.filterMap fun c => if c.2.st != .free && c.2.vdev == t.vdev && c.2.list == t.list then some c.2.trec.seq else none
  s.modList t.vdev t.list fun x => { x with
    gone := (Cells.set (0, 0) x.gone t.trec.seq ((s.handleOf k).toNat, t.trec.tag.toNat)).filter fun c =>
      live.any fun p => decide (1 ≤ (c.1 + 2 ^ 32 - p) % 2 ^ 32 ∧ (c.1 + 2 ^ 32 - p) % 2 ^ 32 ≤ 4095) }

/-- A launch that wrote under a recovery point has retired, or has gone (R430). -/
def State.writerDone (s : State) (h : Nat) : Bool :=
  match s.taskOf (BitVec.ofNat 64 h) with
  | none => true
  | some k => (s.task k).st == .retired || (s.task k).st == .complete

end Sys2Proof.Machine
end

