-- ==== Sys2Proof/Machine/Conservator.lean ====
section
/-! DEFINITION. The conservator tier (spec/20): the instruction set, NSIG and NWAIT, the undo log, update start, rollback and step abort. -/

namespace Sys2Proof.Machine

open Sys2Proof

/-! The issuing conservator. -/

/-- The conservator that issues. -/
def State.cc (s : State) : Nat := match s.cur.agent with | .cons c => c | _ => 0
/-- Its state. -/
def State.ccons (s : State) : Cons := s.cons s.cc
/-- Graph entry of the running update. -/
def State.cUpdTask (s : State) : Nat := s.ccons.task.getD 0
/-- The running update. -/
def State.cUpd (s : State) : Upd := (s.task s.cUpdTask).upd

/-- Lane l of cv i. -/
def Cons.lane (c : Cons) (i l : Nat) : W32 := Cells.get 0 c.cv (64 * i + l)
/-- Register ca i. -/
def Cons.caAt (c : Cons) (i : Nat) : W64 := Cells.get 0 c.ca i
/-- The 64 lanes. -/
def lanes64 : List Nat := List.range 64
/-- cv i written in every lane. -/
def Cons.setCv (c : Cons) (i : Nat) (x : Nat → W32) : Cons := { c with cv := lanes64.foldl (fun m l => Cells.set 0 m (64 * i + l) (x l)) c.cv }
/-- ca i written. -/
def Cons.setCa (c : Cons) (i : Nat) (x : W64) : Cons := { c with ca := Cells.set 0 c.ca i x }
/-- The next instruction. -/
def Cons.next (c : Cons) : Cons := { c with pc := c.pc + 1 }

/-- The conservator changed, then its next instruction. -/
def State.consDone (s : State) (f : Cons → Cons) : Out := .next (s.modCons s.cc fun c => (f c).next)

/-- The update ends with a fault: it rolls back before it completes (R387, R397). -/
def State.consFault (s : State) (code : Nat) : State :=
  ({ s with cur := { s.cur with stop := true } }).modUpd s.cUpdTask fun u => { u with faulted := some code }

/-! Arithmetic (R389, R390). -/

/-- Lane l of cv i as a value. -/
def Cons.val (c : Cons) (i l : Nat) : RVal := decodeF 0x01 (c.lane i l).toNat

/-- An arithmetic form: each lane's exact result as CONVERT(x, FP32), with every lane's flags. -/
def State.consArith (s : State) (f : NForm) (res : Cons → Nat → Res) : Out :=
  let c := s.ccons
  let out (l : Nat) : Nat × Flg := let r := res c l; let (w, g) := convert false 0x01 r.1; (w, r.2.or g)
  let fl := lanes64.foldl (fun m l => m ||| (out l).2.bits) 0
  s.consDone fun c => { (c.setCv f.d.toNat fun l => BitVec.ofNat 32 (out l).1) with nflags := c.nflags ||| fl }

/-- NADD (R389). -/
def execNadd (f : NForm) (s : State) : Out :=
  s.consArith f fun c l => if f.sub = 0 then rAdd (c.val f.a.toNat l) (c.val f.b.toNat l) else rSub (c.val f.a.toNat l) (c.val f.b.toNat l)
/-- NADD with AR (R389). -/
def execNaddAddr (f : NForm) (s : State) : Out := s.consDone fun c => c.setCa f.d.toNat (c.caAt f.a.toNat + f.imm.signExtend 64)
/-- NMUL (R389). -/
def execNmul (f : NForm) (s : State) : Out := s.consArith f fun c l => rMul (c.val f.a.toNat l) (c.val f.b.toNat l)
/-- NFMA (R389). -/
def execNfma (f : NForm) (s : State) : Out := s.consArith f fun c l => rFma (c.val f.a.toNat l) (c.val f.b.toNat l) (c.val f.c.toNat l)
/-- NDIV (R389). -/
def execNdiv (f : NForm) (s : State) : Out := s.consArith f fun c l => rDiv (c.val f.a.toNat l) (c.val f.b.toNat l)
/-- NSQT (R389). -/
def execNsqt (f : NForm) (s : State) : Out := s.consArith f fun c l => rSqt (c.val f.a.toNat l)
/-- NRSQ (R389). -/
def execNrsq (f : NForm) (s : State) : Out := s.consArith f fun c l => nrsqVal (c.lane f.a.toNat l)
/-- NMAX (R389, R211). -/
def execNmax (f : NForm) (s : State) : Out := s.consArith f fun c l => rMinMax true (c.val f.a.toNat l) (c.val f.b.toNat l)
/-- NMIN (R389, R211). -/
def execNmin (f : NForm) (s : State) : Out := s.consArith f fun c l => rMinMax false (c.val f.a.toNat l) (c.val f.b.toNat l)
/-- NSCL (R389). -/
def execNscl (f : NForm) (s : State) : Out := s.consArith f fun c l => rScl (c.val f.a.toNat l) f.imm.toInt
/-- NCVT (R389): through BF16 or FP16. -/
def execNcvt (f : NForm) (s : State) : Out := s.consArith f fun c l => stepRound (if f.sub = 0 then 0x02 else 0x03) (c.val f.a.toNat l, {})

/-! Memory (R388, R395). -/

/-- Bytes a form moves. -/
def consBytes (sub : Nat) : Nat := match sub with | 1 => 128 | 3 => 4 | _ => 256

/-- The PA a window access names, or none for CONS.ADDR. -/
def State.consAddr (s : State) (f : NForm) (write : Bool) : Option Nat :=
  let a := (s.ccons.caAt f.a.toNat).toNat
  let w := s.cUpd.win.getD (bits a 33 32) {}
  let off : Int := (a % 2 ^ 32 : Nat) + f.imm.toInt
  let z : Int := consBytes f.sub.toNat
  if 2 ^ 34 ≤ a ∨ !w.used ∨ off % z ≠ 0 ∨ off < 0 ∨ (w.len : Int) < off + z ∨ (write ∧ !w.w) then none else some (w.pa + off.toNat)

/-- ca[A] after an access. -/
def Cons.incA (c : Cons) (f : NForm) : Cons := if f.inc then c.setCa f.a.toNat (c.caAt f.a.toNat + BitVec.ofNat 64 (consBytes f.sub.toNat)) else c

/-- Lane l of an NLD from the bytes it moved. -/
def nldLane (sub : Nat) (bs : List Byte) (l : Nat) : Nat × Flg :=
  match sub with
  | 0 => (fieldAt bs (4 * l) 4, {})
  | 1 => convert false 0x01 (decodeF 0x02 (fieldAt bs (2 * l) 2))
  | 2 => convert false 0x01 (decodeF 0x04 (fieldAt bs (4 * l) 4))
  | _ => (fieldAt bs 0 4, {})

/-- Lane l of an NST as bytes. -/
def nstLane (sub : Nat) (x : W32) : List Byte × Flg :=
  match sub with
  | 0 => (leBytes 4 x.toNat, {})
  | 1 => let r := convert false 0x02 (decodeF 0x01 x.toNat); (leBytes 2 r.1, r.2)
  | _ => let r := convert false 0x04 (decodeF 0x01 x.toNat); (leBytes 4 r.1, r.2)

/-- NLD (R388): a poisoned sector ends the update. -/
def execNld (f : NForm) (s : State) : Out :=
  match s.consAddr f false with
  | none => .next (s.consFault 0x315)
  | some pa =>
    let z := consBytes f.sub.toNat
    if (s.poisonHit pa z false).isSome then .next (s.consFault 0x319)
    else
      let bs := readBytes s.mem pa z
      let fl := lanes64.foldl (fun m l => m ||| (nldLane f.sub.toNat bs l).2.bits) 0
      s.consDone fun c => { ((c.setCv f.d.toNat fun l => BitVec.ofNat 32 (nldLane f.sub.toNat bs l).1).incA f) with nflags := c.nflags ||| fl }

/-- A conservator's write stands in HBM: its sector carries the open point's tag and is never journalled (R419, R423). -/
def State.consTag (s : State) (k x : Nat) : State :=
  match s.openPoint (s.task k).vdev with
  | none => s.toHbm x
  | some n => { s with tags := Cells.set {} s.tags x { vdev := (s.task k).vdev, point := n, handle := s.handleOf k } }

/-- NST (R388, R395): sectors that the update has not written before wait for their undo records. -/
def execNst (f : NForm) (s : State) : Out :=
  match s.consAddr f true with
  | none => .next (s.consFault 0x315)
  | some pa =>
    let k := s.cUpdTask
    let secs := sectorsOf pa (consBytes f.sub.toNat)
    let need := secs.filter fun x => !s.cUpd.logged.contains x
    if !need.isEmpty then .next (({ s with cur := { s.cur with stop := true } }).modCons s.cc fun c => { c with pendUndo := need })
    else
      let out := lanes64.map fun l => nstLane f.sub.toNat (s.ccons.lane f.b.toNat l)
      let fl := out.foldl (fun m x => m ||| x.2.bits) 0
      let s := s.backInvalidate pa (consBytes f.sub.toNat)
      let s := { s with mem := writeBytes s.mem pa (out.flatMap Prod.fst), poison := s.poison.filter fun x => !secs.contains x }
      let s := secs.foldl (fun s x => s.consTag k x) s
      let s := s.modUpd k fun u => { u with written := u.written ++ secs.filter fun x => !u.written.contains x }
      s.consDone fun c => { (c.incA f) with nflags := c.nflags ||| fl }

/-! Undo log (R393 to R397). -/

/-- A stack's ring has room for one more record. -/
def Stack.ulRoom (k : Stack) : Bool := decide (k.undo.length < k.ulSize.toNat * 16384)

/-- One undo record of a sector's contents. -/
def State.pushUndo (s : State) (sector task v : Nat) (step : W32) (old : List Byte) : State :=
  s.modStk (sectorStack sector) fun k => { k with
    undoSeq := k.undoSeq + 1, undo := k.undo ++ [{ pa := 32 * sector, step := step, seq := k.undoSeq, task := task, vdev := v, old := old }] }

/-- UNDO_LOG_WRITE (R395): the next record that a conservator's write waits for becomes durable, when the ring has room. -/
def execUndoLogWrite (cons : Nat) (s : State) : Out :=
  let c := s.cons cons
  match c.pendUndo, c.task with
  | x :: r, some k =>
    if (s.stk (sectorStack x)).ulRoom then
      let s := s.pushUndo x (s.handleOf k).toNat (s.task k).vdev (s.task k).upd.stepNo (readBytes s.mem (32 * x) 32)
      let s := s.modUpd k fun u => { u with logged := u.logged ++ [x], nlog := u.nlog + 1 }
      .next (s.modCons cons fun c => { c with pendUndo := r })
    else .next s
  | _, _ => .next s

/-- A record's old sector written back as a whole-sector write. -/
def State.undoOne (s : State) (r : UndoRec) : State :=
  ({ s.backInvalidate r.pa 32 with mem := writeBytes s.mem r.pa r.old, poison := s.poison.filter (· != r.pa / 32) }).toHbm (r.pa / 32)

/-- Records of a stack that satisfy f are restored in descending SEQ and freed. -/
def State.undoStack (s : State) (f : UndoRec → Bool) (i : Nat) : State :=
  let rs := (s.stk i).undo.filter f
  (rs.reverse.foldl State.undoOne s).modStk i fun k => { k with undo := k.undo.filter fun r => !f r }

/-- Records of every stack that satisfy f are restored and freed. -/
def State.undoAll (s : State) (f : UndoRec → Bool) : State := (List.range 8).foldl (fun s i => s.undoStack f i) s

/-- The conservator that runs an update is freed; the update keeps its NFLAGS (R400). -/
def State.freeCons (s : State) (k : Nat) : State :=
  let c := (s.task k).upd.cons
  if (s.cons c).task = some k then
    (s.modUpd k fun u => { u with nflags := (s.cons c).nflags }).modCons c fun c => { c with task := none, pendUndo := [] }
  else s

/-- An update's records are restored (R397). -/
def State.undoUpdate (s : State) (k : Nat) : State :=
  let h := (s.handleOf k).toNat
  s.undoAll fun r => r.task == h

/-- UPDATE_ROLLBACK (R397): a faulted update completes with its code once its records are restored. -/
def execUpdateRollback (task : Nat) (s : State) : Out :=
  match (s.task task).upd.faulted with
  | none => .next s
  | some code => if (s.task task).st = .running ∧ ¬(s.task task).stopped then .next (((s.undoUpdate task).freeCons task).failTask task code) else .next s

/-- An update of a step has been dispatched and not completed. -/
def Task.inStep (t : Task) (step : W32) : Bool := t.trec.kind == 2 && (t.st == .dispatched || t.st == .running) && t.upd.stepNo == step

/-- STEP_ABORT (R398), while GO reads 1: its updates' records are restored; those of their windows, which are the part's own, stay, and with them the SIMT values tagged with the step (R435, log 24). -/
def execStepAbort (s : State) : Out :=
  if s.stepAbt.getLsbD 32 = false then .next s
  else
    let n : W32 := s.stepAbt.truncate 32
    let ks := (Cells.keys s.tasks).filter fun k => (s.task k).inStep n
    let s := ks.foldl State.freeCons s
    let s := s.undoAll fun r => r.step == n && r.task != 0
    .next { ks.foldl (fun s k => s.failTask k 0x318) s with stepAbt := s.stepAbt &&& 0xFFFFFFFF }

/-! Control (R391). -/

/-- A transfer by IMM: outside the code ends the update (R391). -/
def State.consJump (s : State) (f : NForm) (g : Cons → Cons) : Out :=
  let t : Int := s.ccons.pc + f.imm.toInt
  if t < 0 ∨ (s.cUpd.code.length : Int) ≤ t then .next (s.consFault 0x316) else .next (s.modCons s.cc fun c => { (g c) with pc := t.toNat })

/-- NLOOP (R391). -/
def execNloop (f : NForm) (s : State) : Out :=
  let x := s.ccons.caAt f.a.toNat - 1
  let g : Cons → Cons := fun c => c.setCa f.a.toNat x
  if x ≠ 0 then s.consJump f g else s.consDone g
/-- NBRZ (R391). -/
def execNbrz (f : NForm) (s : State) : Out := if s.ccons.caAt f.a.toNat = 0 then s.consJump f id else s.consDone id

/-- An update's writes are complete: it retires when R104 allows, and its conservator is free. -/
def execNdone (_f : NForm) (s : State) : Out :=
  let k := s.cUpdTask
  let s := (s.modUpd k fun u => { u with finished := true }).freeCons k
  .next (if (s.task k).signallersDone then s.retire k else s)

/-! Signals (R392). -/

/-- The team of a launch by number. -/
def State.teamNo (s : State) (k n : Nat) : Option Nat := s.teamKeys.find? fun t => (s.team t).task == k && (s.team t).num == n
/-- A counter's BASE as admitted (R46). -/
def Launch.tlBase (l : Launch) (n : Nat) : W64 := (l.adm.tld.getD n (0, 0, 0)).1
/-- Address of a saved team's counter in its record (R369). -/
def Team.tlAddr (t : Team) (n : Nat) : Option Nat := match t.st, t.record with | .saved, some (a, _) => some (a + 0x1100 + 32 * n) | _, _ => none

/-- ISS and DONE of a placed or saved team's counter. -/
def State.tlNums (s : State) (k n : Nat) : Nat × Nat :=
  let t := s.team k
  match t.tlAddr n with
  | none => ((t.tlAt n).iss.toNat, (t.tlAt n).done.toNat)
  | some a => match s.devRead (taskDie t.task) t.vdev a 16 with | .ok (bs, _) => (fieldAt bs 0 8, fieldAt bs 8 8) | .error _ => (0, 0)

/-- ISS or DONE of a saved record written. -/
def State.tlPut (s : State) (k a x : Nat) : State := match s.devWrite (taskDie (s.team k).task) (s.team k).vdev a (leBytes 8 x) with | .ok s => s | .error _ => s

/-- The issue number of an NSIG is taken in a team's counter: live, or in its saved record. -/
def State.tlIssue (s : State) (k n : Nat) : Nat × State :=
  let m := (s.tlNums k n).1 + 1
  match (s.team k).tlAddr n with
  | none => (m, s.modTl k n fun c => { c with iss := c.iss + 1 })
  | some a => (m, s.tlPut k a m)

/-- Where an NSIG or NWAIT entry stands: its launch's graph entry, or none when the launch has retired or gone. -/
def State.syncTarget (s : State) (e : SyncE) : Option Nat :=
  match s.taskOf (BitVec.ofNat 64 e.launch) with
  | none => none
  | some k => if (s.task k).st = .retired ∨ (s.task k).st = .complete then none else some k

/-- NSIG's issue for a team not yet placed. -/
def State.nsigHold (s : State) (k team tl : Nat) : Nat × State :=
  let l := (s.task k).launch
  let m := (l.tlBase tl).toNat + 1 + (l.heldNsig.filter fun h => h.1 == team && h.2.1 == tl).length
  (m, s.modLaunch k fun l => { l with heldNsig := l.heldNsig ++ [(team, tl, m, false)] })

/-- NSIG (R392). -/
def execNsig (f : NForm) (s : State) : Out :=
  let e := s.cUpd.sync.getD f.sub.toNat {}
  if e.kind ≠ 2 then .next (s.consFault 0x310)
  else
    match s.syncTarget e with
    | none => s.consDone id
    | some k =>
      if (s.task k).launch.retiredGangs.contains (e.team / (s.task k).launch.adm.tpg) then s.consDone id
      else
        let (m, s) := match s.teamNo k e.team with | some t => s.tlIssue t e.tl | none => s.nsigHold k e.team e.tl
        s.consDone fun c => { c with pendSig := c.pendSig ++ [(e.launch, e.team, e.tl, m)] }

/-- Completion of number m for a target (R392); none while an earlier number of a saved counter is incomplete. -/
def State.nsigFinish (s : State) (launch team tl m : Nat) : Option State :=
  match s.syncTarget { launch := launch } with
  | none => some s
  | some k =>
    match s.teamNo k team with
    | some t =>
      (match (s.team t).tlAddr tl with
       | none => some (s.tlDone t tl m)
       | some a => if (s.tlNums t tl).2 + 1 = m then some (s.tlPut t (a + 8) m) else none)
    | none => some (s.modLaunch k fun l => { l with heldNsig := l.heldNsig.map fun h => if h.1 = team ∧ h.2.1 = tl ∧ h.2.2.1 = m then (h.1, h.2.1, h.2.2.1, true) else h })

/-- NSIG_COMPLETE (R392): the oldest number that a conservator took is complete, its update's earlier writes being performed. -/
def execNsigComplete (cons : Nat) (s : State) : Out :=
  match (s.cons cons).pendSig with
  | [] => .next s
  | (l, t, n, m) :: r =>
    match s.nsigFinish l t n m with
    | none => .next s
    | some s => .next (s.modCons cons fun c => { c with pendSig := r })

/-- DONE of a source counter (R392). -/
def State.sourceDone (s : State) (k team tl : Nat) : Nat :=
  let l := (s.task k).launch
  match s.teamNo k team with
  | some t => (s.tlNums t tl).2
  | none => if l.retiredGangs.contains (team / l.adm.tpg) then (Cells.get 0 l.tlDone (8 * team + tl)).toNat else (l.tlBase tl).toNat

/-- NWAIT (R392): while it waits the instruction issues again. -/
def execNwait (f : NForm) (s : State) : Out :=
  let e := s.cUpd.sync.getD f.sub.toNat {}
  let n := (s.ccons.caAt f.a.toNat + f.imm.signExtend 64).toNat
  if e.kind ≠ 1 then .next (s.consFault 0x310)
  else
    match s.taskOf (BitVec.ofNat 64 e.launch) with
    | none => .next (s.consFault 0x317)
    | some k =>
      if n ≤ s.sourceDone k e.team e.tl then s.consDone id
      else if (s.syncTarget e).isNone then .next (s.consFault 0x317)
      else .next { s with cur := { s.cur with stop := true } }

/-! Start (R384, R385). -/

/-- The dispatched updates of a conservator, oldest first. -/
def State.consQueue (s : State) (c : Nat) : List Nat :=
  let ks := (Cells.keys s.tasks).filter fun k => let t := s.task k; t.trec.kind == 2 && t.st == .dispatched && t.upd.cons == c && !(s.vdev t.vdev).frozen && !t.stopped
  sortOn (fun k => (s.task k).upd.order) ks

/-- Unsealed values in a window: their sectors (R420). -/
def State.windowTags (s : State) (w : Win) : List Nat :=
  s.tags.filterMap fun c => if w.used ∧ w.pa ≤ 32 * c.1 ∧ 32 * c.1 < w.pa + w.len ∧ !c.2.sealed ∧ !c.2.hbm.isEmpty then some c.1 else none

/-- The undo record of a window sector's HBM contents, then its write-back, after which no slice holds another value of it; the record is the part's, under handle 0 (log 24). -/
def State.windowUndo (s : State) (step : W32) (x : Nat) : State :=
  let t := Cells.get {} s.tags x
  (s.pushUndo x 0 t.vdev step t.hbm).toHbm x

/-- The point of an update is open or pending, and is its own (R384). -/
def State.stepOk (s : State) (v : Nat) (step : W32) : Bool :=
  let c := (s.rp v).cur
  c.truncate 32 == step && (c.getLsbD 63 || c.getLsbD 62)

/-- The ring of a conservator's stack has room for the window records of an update; one that a restore starts again at its PC takes none (R439). -/
def State.startRoom (s : State) (cons k : Nat) : Bool :=
  let st := s.stk (cons / 16)
  (s.task k).upd.resume.isSome || decide (st.undo.length + ((s.task k).upd.win.flatMap s.windowTags).length ≤ st.ulSize.toNat * 16384)

/-- A conservator with an update's code, registers and PC. -/
def Cons.load (c : Cons) (k : Nat) (u : Upd) (cv : Cells W32) (pc : Nat) (nflags : W32) : Cons :=
  { c with
    cv := cv, ca := (List.range 8).foldl (fun m i => Cells.set 0 m i (u.ca.getD i 0)) [],
    store := (List.range u.code.length).foldl (fun m i => Cells.set 0 m i (u.code.getD i 0)) c.store,
    pc := pc, nflags := nflags, task := some k, pendUndo := [] }

/-- UPDATE_START (R385, R439): the oldest dispatched update of an idle conservator starts, once the ring has room for the records of its windows; one that was restored while it ran goes on at its PC. -/
def execUpdateStart (cons : Nat) (s : State) : Out :=
  match (s.cons cons).task, s.consQueue cons with
  | none, k :: _ =>
    let u := (s.task k).upd
    let v := (s.task k).vdev
    match u.resume with
    | some (cv, pc) =>
      let s := s.modTask k fun t => { t with st := .running, upd := { t.upd with started := true, resume := none } }
      .next (s.modCons cons fun c => c.load k u cv pc u.nflags)
    | none =>
    if !s.stepOk v u.stepNo then .next (s.failTask k 0x312)
    else
      let xs := u.win.flatMap s.windowTags
      if !s.startRoom cons k then .next s
      else
        let s := xs.foldl (fun s x => s.windowUndo u.stepNo x) s
        let s := s.modTask k fun t => { t with st := .running, tstart := s.ns, upd := { t.upd with started := true } }
        .next (s.modCons cons fun c => c.load k u [] 0 0)
  | _, _ => .next s

end Sys2Proof.Machine
end

