-- ==== Sys2Proof/Machine/Hash.lean ====
section
/-! DEFINITION. The hash, the check codes and the signatures the part computes: SHA-384 (spec/02 R30, spec/04 R85, spec/22 R438), CRC-32C (spec/20 R394, spec/22 R423, spec/21 R402) and ECDSA on brainpoolP384r1 (spec/24 R444, R449). -/

namespace Sys2Proof.Machine

open Sys2Proof

/-- The greatest r whose k-th power is at most n, bit b − 1 of it first. -/
def rootBits (k n : Nat) : Nat → Nat → Nat
  | 0, r => r
  | b + 1, r => rootBits k n b (if (r + 2 ^ b) ^ k ≤ n then r + 2 ^ b else r)
/-- The first 80 primes, by trial division. -/
def primes80 : List Nat := (List.range 410).filter fun n => decide (2 ≤ n) && (List.range 21).all fun d => decide (d < 2 ∨ n ≤ d) || n % d != 0
/-- SHA-384's round constants: the first 64 fraction bits of the cube roots of the first 80 primes. -/
def shaK : List W64 := primes80.map fun p => BitVec.ofNat 64 (rootBits 3 (p * 2 ^ 192) 67 0)
/-- SHA-384's initial value: the first 64 fraction bits of the square roots of the ninth to sixteenth primes. -/
def shaInit : List W64 := ((primes80.drop 8).take 8).map fun p => BitVec.ofNat 64 (rootBits 2 (p * 2 ^ 128) 68 0)

/-- A number as n bytes, highest first. -/
def beBytes (n x : Nat) : List Byte := (leBytes n x).reverse
/-- A 64-bit word from 8 bytes, highest first. -/
def beWord (bs : List Byte) : W64 := BitVec.ofNat 64 (leNat bs.reverse)

/-- The message schedule, latest word first: n more words. -/
def shaSchedule : Nat → List W64 → List W64
  | 0, w => w
  | n + 1, w =>
    let x := w.getD 1 0
    let y := w.getD 14 0
    let s1 := x.rotateRight 19 ^^^ x.rotateRight 61 ^^^ (x >>> 6)
    let s0 := y.rotateRight 1 ^^^ y.rotateRight 8 ^^^ (y >>> 7)
    shaSchedule n ((s1 + w.getD 6 0 + s0 + w.getD 15 0) :: w)

/-- One round on the eight working words. -/
def shaRound (v : List W64) (kw : W64 × W64) : List W64 :=
  match v with
  | [a, b, c, d, e, f, g, h] =>
    let t1 := h + (e.rotateRight 14 ^^^ e.rotateRight 18 ^^^ e.rotateRight 41) + ((e &&& f) ^^^ (~~~e &&& g)) + kw.1 + kw.2
    let t2 := (a.rotateRight 28 ^^^ a.rotateRight 34 ^^^ a.rotateRight 39) + ((a &&& b) ^^^ (a &&& c) ^^^ (b &&& c))
    [t1 + t2, a, b, c, d + t1, e, f, g]
  | v => v

/-- One 128-byte block. -/
def shaBlock (h : List W64) (bs : List Byte) : List W64 :=
  let w := (shaSchedule 64 ((List.range 16).map fun i => beWord ((bs.drop (8 * i)).take 8)).reverse).reverse
  ((shaK.zip w).foldl shaRound h).zip h |>.map fun x => x.1 + x.2

/-- Blocks in order. -/
def shaBlocks : Nat → List W64 → List Byte → List W64
  | 0, h, _ => h
  | n + 1, h, bs => shaBlocks n (shaBlock h (bs.take 128)) (bs.drop 128)

/-- SHA-384 of a message: 48 bytes. -/
def sha384 (m : List Byte) : List Byte :=
  let z := (239 - m.length % 128) % 128
  let p := m ++ [0x80] ++ List.replicate z 0 ++ beBytes 16 (8 * m.length)
  ((shaBlocks (p.length / 128) shaInit p).take 6).flatMap fun w => beBytes 8 w.toNat

/-- One byte into a CRC-32C. -/
def crcByte (c : W32) (b : Byte) : W32 :=
  (List.range 8).foldl (fun c _ => if c.getLsbD 0 then (c >>> 1) ^^^ 0x82F63B78 else c >>> 1) (c ^^^ b.setWidth 32)

/-- CRC-32C of a message. -/
def crc32c (m : List Byte) : W32 := ~~~(m.foldl crcByte 0xFFFFFFFF)

/-! ECDSA with SHA-384 on brainpoolP384r1 (R85, R444, R449). The curve's numbers are those of RFC 5639, which R444 names (PRESUMED, log 7). -/

/-- The prime of the curve's field. -/
def curveP : Nat := 0x8CB91E82A3386D280F5D6F7E50E641DF152F7109ED5456B412B1DA197FB71123ACD3A729901D1A71874700133107EC53
/-- The coefficient of x. -/
def curveA : Nat := 0x7BC382C63D8C150C3C72080ACE05AFA0C2BEA28E4FB22787139165EFBA91F90F8AA5814A503AD4EB04A8C7DD22CE2826
/-- The constant coefficient. -/
def curveB : Nat := 0x04A8C7DD22CE28268B39B55416F0447C2FB77DE107DCD2A62E880EA53EEB62D57CB4390295DBC9943AB78696FA504C11
/-- The base point. -/
def curveG : Nat × Nat :=
  (0x1D1C64F068CF45FFA2A63A81B7C13F6B8847A3E77EF14FE3DB7FCAFE0CBD10E8E826E03436D646AAEF87B2E247D4AF1E,
   0x8ABE1D7520F9C2A45CB1EB8E95CFD55262B70B29FEEC5864E19C054FF99129280E4646217791811142820341263C5315)
/-- Its order, a prime. -/
def curveQ : Nat := 0x8CB91E82A3386D280F5D6F7E50E641DF152F7109ED5456B31F166E6CAC0425A7CF3AB6AF6B7FC3103B883202E9046565
/-- r times b to the power of the low n bits of e, modulo m. -/
def powMod (m : Nat) : Nat → Nat → Nat → Nat → Nat
  | 0, _, _, r => r
  | n + 1, b, e, r => powMod m n (b * b % m) (e / 2) (if e % 2 = 1 then r * b % m else r)
/-- The inverse modulo a prime below 2^384. -/
def invMod (m x : Nat) : Nat := powMod m 384 (x % m) (m - 2) 1
/-- The sum of two points; none is the point at infinity. -/
def ptAdd : Option (Nat × Nat) → Option (Nat × Nat) → Option (Nat × Nat)
  | none, q => q
  | p, none => p
  | some (x, y), some (u, v) =>
    if x = u ∧ (y + v) % curveP = 0 then none
    else
      let l := if x = u then (3 * x * x + curveA) * invMod curveP (2 * y) % curveP else (v + curveP - y) * invMod curveP (u + curveP - x) % curveP
      let z := (l * l + 2 * curveP - x - u) % curveP
      some (z, (l * (x + curveP - z) + curveP - y) % curveP)
/-- r plus the low n bits of k times a point. -/
def ptMul : Nat → Nat → Option (Nat × Nat) → Option (Nat × Nat) → Option (Nat × Nat)
  | 0, _, _, r => r
  | n + 1, k, p, r => ptMul n (k / 2) (ptAdd p p) (if k % 2 = 1 then ptAdd r p else r)
/-- k times a point. -/
def ptTimes (k : Nat) (p : Nat × Nat) : Option (Nat × Nat) := ptMul 384 k (some p) none
/-- A point of the curve other than infinity. -/
def onCurve (x y : Nat) : Bool := decide (x < curveP ∧ y < curveP) && y * y % curveP == (x * x * x + curveA * x + curveB) % curveP
/-- A hash as a number, its first byte highest. -/
def hashNat (h : List Byte) : Nat := leNat h.reverse
/-- A number pair as 96 bytes, 48 bytes each, little-endian (R443, R449). -/
def pairBytes (a b : Nat) : List Byte := leBytes 48 a ++ leBytes 48 b
/-- A private key: a number from 1 to the order less 1. -/
def dieKey (n : Nat) : Nat := n % (curveQ - 1) + 1
/-- The public key of a private one. -/
def ecdsaPub (d : Nat) : List Byte := match ptTimes (dieKey d) curveG with | some (x, y) => pairBytes x y | none => pairBytes 0 0
/-- A signature of a hash. -/
def ecdsaSign (d : Nat) (h : List Byte) : List Byte :=
  let k := dieKey (Config.nonce d h)
  let r := match ptTimes k curveG with | some (x, _) => x % curveQ | none => 0
  pairBytes r (invMod curveQ k * (hashNat h + r * dieKey d) % curveQ)
/-- A signature verifies: public key, signature, hash (R444). -/
def ecdsaVerify (pub sig h : List Byte) : Bool :=
  let x := leNat (pub.take 48)
  let y := leNat ((pub.drop 48).take 48)
  let r := leNat (sig.take 48)
  let s := leNat ((sig.drop 48).take 48)
  let w := invMod curveQ s
  decide (1 ≤ r ∧ r < curveQ ∧ 1 ≤ s ∧ s < curveQ) && onCurve x y &&
    (match ptAdd (ptTimes (hashNat h * w % curveQ) curveG) (ptTimes (r * w % curveQ) (x, y)) with | some (u, _) => u % curveQ == r | none => false)

end Sys2Proof.Machine
end

