-- ==== Sys2Proof/Machine/Object.lean ====
section
/-! DEFINITION. The Fjouk object as the binder and admission read it: header, sections, tables and their form checks (spec/02 R29 to R44), and the class names that code makes (R37, R76). -/

namespace Sys2Proof.Machine

open Sys2Proof

/-- A positive rational, or zero: numerator and denominator. -/
abbrev Q := Nat × Nat

/-- One form check: byte offset, section kind, whether it holds. -/
abbrev Chk := Nat × Nat × Bool

/-- Reserved bytes must be 0 (R32). -/
def zeroChk (bs : List Byte) (off n item base : Nat) : List Chk := (List.range n).map fun i => (base + off + i, item, fieldAt bs (off + i) 1 == 0)

/-- A section (R31). -/
structure Sect where
  kind : Nat := 0
  off : Nat := 0
  size : Nat := 0
  deriving DecidableEq, Repr

/-- Entry size of a section kind. -/
def sectEntry : Nat → Nat
  | 1 => 64 | 2 => 64 | 3 => 32 | 4 => 8 | 5 => 64 | 6 => 16 | 7 => 32 | 8 => 1 | 9 => 8 | _ => 16
/-- Alignment of a section kind. -/
def sectAlign : Nat → Nat | 1 => 64 | 8 => 1 | _ => 8

/-- Header checks (R29). -/
def headerChk (h : List Byte) : List Chk :=
  [(0, 0, fieldAt h 0 4 == 0x424F4A46), (4, 0, fieldAt h 4 2 == 1), (6, 0, fieldAt h 6 2 == 0x80),
   (8, 0, decide (1 ≤ fieldAt h 8 2 ∧ fieldAt h 8 2 ≤ 8))]
  ++ zeroChk h 0x0A 6 0 0 ++ zeroChk h 0x18 40 0 0 ++ zeroChk h 0x70 16 0 0

/-- The sections a table lists. -/
def parseSects (t : List Byte) (n : Nat) : List Sect :=
  (List.range n).map fun i => { kind := fieldAt t (24 * i) 4, off := fieldAt t (24 * i + 8) 8, size := fieldAt t (24 * i + 16) 8 }

/-- Section table checks (R31, R32): known, unrepeated, aligned, whole entries, no overlap, all required present. -/
def sectChk (t : List Byte) (stab n : Nat) : List Chk :=
  let ss := parseSects t n
  ((List.range n).flatMap fun i =>
    let s := ss.getD i {}
    let at_ := stab + 24 * i
    let before := ss.take i
    [(at_, s.kind, decide (1 ≤ s.kind ∧ s.kind ≤ 10)), (at_, s.kind, !before.any fun x => x.kind == s.kind)]
    ++ zeroChk t (24 * i + 4) 4 s.kind stab
    ++ [(at_ + 8, s.kind, s.off % sectAlign s.kind == 0), (at_ + 8, s.kind, !before.any fun x => decide (x.off < s.off + s.size ∧ s.off < x.off + x.size)),
        (at_ + 16, s.kind, s.size % sectEntry s.kind == 0), (at_ + 16, s.kind, s.kind != 4 || s.size == 512)])
  ++ [1, 2, 7].map (fun k => (0x10, k, ss.any fun s => s.kind == k))
  ++ [(0x10, 9, (ss.any fun s => s.kind == 9) == (ss.any fun s => s.kind == 10))]

/-- An object as read, with its sections. -/
structure Obj where
  bytes : List Byte := []
  sects : List Sect := []
  deriving DecidableEq, Repr

/-- A section of a kind; size 0 where the object has none. -/
def Obj.sect (o : Obj) (k : Nat) : Sect := (o.sects.find? fun s => s.kind == k).getD {}
/-- Entries of a section. -/
def Obj.entries (o : Obj) (k : Nat) : List (Nat × List Byte) :=
  let s := o.sect k
  (List.range (s.size / sectEntry k)).map fun i => (s.off + sectEntry k * i, (o.bytes.drop (s.off + sectEntry k * i)).take (sectEntry k))

/-- A binary64 field that is not negative and finite. -/
def b64Q (x : Nat) : Option Q := match decodeB64 x with | .fin s n d => if s && n != 0 then none else some (n, d) | _ => none
/-- a ≤ b. -/
def qle (a b : Q) : Bool := decide (a.1 * b.2 ≤ b.1 * a.2)

/-- A name offset lies in NAMES (R34, R43). -/
def Obj.nameOk (o : Obj) (x : Nat) : Bool := decide (x < (o.sect 8).size)

/-- Class entry checks (R33 to R36). -/
def Obj.classChk (o : Obj) (before : List (Nat × List Byte)) (a : Nat) (e : List Byte) : List Chk :=
  let f (off n : Nat) := fieldAt e off n
  let c (off : Nat) (ok : Bool) : Chk := (a + off, 2, ok)
  let range := b64Q (f 8 8)
  let floor := b64Q (f 0x10 8)
  let accu := b64Q (f 0x18 8)
  let eacc := b64Q (f 0x20 8)
  [c 0 (decide (1 ≤ f 0 1 ∧ f 0 1 ≤ 63)), c 0 (!before.any fun b => fieldAt b.2 0 1 == f 0 1), c 1 (decide (f 1 1 ≤ 2)), c 2 (decide (f 2 1 ≤ 1)),
   c 2 (f 1 1 != 2 || f 2 1 == 0), c 3 (decide (f 3 1 ≤ 2)), c 4 (decide (f 4 1 ≤ 2)), c 5 (decide (f 5 1 < 4)),
   c 6 (if f 3 1 = 2 then f 6 1 != 128 && f 6 1 != 129 else f 6 1 == 0), c 7 (f 7 1 == 0),
   c 8 (match range with | some r => r.1 != 0 | none => false),
   c 0x10 (match floor, range with | some x, some r => x.1 != 0 && qle x r | _, _ => false),
   c 0x18 (match accu with | some x => x.1 != 0 && qle x (1, 2) | none => false),
   c 0x20 (match eacc with | some x => qle x (1, 2) && (f 1 1 != 2 || x.1 == 0) | none => false),
   c 0x28 (decide (f 0x28 8 ≤ 2 ^ 40) && (f 1 1 != 1 || f 0x28 8 != 0)),
   c 0x30 ((f 0x30 4 != 0) == natBit (f 5 1) 0), c 0x34 (f 0x34 4 == 0xFFFFFFFF || o.nameOk (f 0x34 4))]
  ++ zeroChk e 0x38 8 2 a

/-- A class is declared. -/
def Obj.declared (o : Obj) (c : Nat) : Bool := (o.entries 2).any fun e => fieldAt e.2 0 1 == c
/-- The entry of a class. -/
def Obj.classEntry (o : Obj) (c : Nat) : List Byte := ((o.entries 2).find? fun e => fieldAt e.2 0 1 == c).map (·.2) |>.getD []

/-- Chain entry checks (R39). -/
def Obj.chainChk (o : Obj) (i a : Nat) (e : List Byte) : List Chk :=
  let f (off n : Nat) := fieldAt e off n
  let c (off : Nat) (ok : Bool) : Chk := (a + off, 3, ok)
  let nmax := fieldAt (o.classEntry (f 4 1)) 0x28 8
  [c 0 (f 0 1 == i && decide (i < 64)), c 1 (decide (f 1 1 ≤ 2)), c 2 (o.declared (f 2 1)), c 3 (if f 1 1 = 1 then f 3 1 == 0 else o.declared (f 3 1)),
   c 4 (o.declared (f 4 1)), c 5 (o.declared (f 5 1)), c 8 (match b64Q (f 8 8) with | some x => x.1 != 0 && qle x (1, 1) | none => false),
   c 0x10 (decide (1 ≤ f 0x10 8 ∧ f 0x10 8 ≤ 2 ^ 40) && (nmax == 0 || decide (f 0x10 8 ≤ nmax))), c 0x18 (o.nameOk (f 0x18 4))]
  ++ zeroChk e 6 2 3 a ++ zeroChk e 0x1C 4 3 a

/-- A code offset names a slot of the CODE section (R452). -/
def Obj.codeOff (o : Obj) (x : Nat) : Bool := bits x 5 3 == 0 && decide (x % 8 ≤ 4) && decide (x / 64 < (o.sect 1).size / 64)
/-- Line l of the CODE section. -/
def Obj.line (o : Obj) (l : Nat) : List Byte := (o.bytes.drop ((o.sect 1).off + 64 * l)).take 64

/-- Kernel entry checks (R43). -/
def Obj.kernelChk (o : Obj) (a : Nat) (e : List Byte) : List Chk :=
  let f (off n : Nat) := fieldAt e off n
  let c (off : Nat) (ok : Bool) : Chk := (a + off, 7, ok)
  [c 0 (o.codeOff (f 0 8) && lineTgt (lineWord (o.line (f 0 8 / 64))) (f 0 8 % 8)), c 8 (decide (1 ≤ f 8 1 ∧ f 8 1 ≤ 32)), c 9 (decide (1 ≤ f 9 1 ∧ f 9 1 ≤ 4)),
   c 0xA (decide (f 0xA 1 ≤ 24)), c 0xB (decide (f 0xB 1 ≤ 16)), c 0xC (decide (f 0xC 2 ≤ 1024)), c 0xE (decide (f 0xE 1 ≤ 1)), c 0xF (f 0xF 1 == 0),
   c 0x10 (o.nameOk (f 0x10 4))]
  ++ zeroChk e 0x14 12 7 a

/-- Pin, relocation and update entry checks (R41, R42, R44). -/
def Obj.otherChk (o : Obj) : List Chk :=
  let pins := o.entries 5
  ((List.range pins.length).flatMap fun i =>
    let (a, e) := pins.getD i (0, [])
    [(a, 5, decide (i < 8) && !(pins.take i).any fun p => fieldAt p.2 0 8 == fieldAt e 0 8), (a + 0x38, 5, decide (fieldAt e 0x38 1 < 2))] ++ zeroChk e 0x39 7 5 a)
  ++ ((o.entries 6).flatMap fun (a, e) =>
    [(a, 6, decide (fieldAt e 0 1 < 64)), (a + 1, 6, decide (1 ≤ fieldAt e 1 1 ∧ fieldAt e 1 1 ≤ 3)),
     (a + 8, 6, fieldAt e 1 1 != 1 || o.codeOff (fieldAt e 8 8))] ++ zeroChk e 2 6 6 a)
  ++ ((o.entries 10).flatMap fun (a, e) =>
    [(a + 4, 10, decide (1 ≤ fieldAt e 4 4 ∧ fieldAt e 4 4 ≤ 4096 ∧ fieldAt e 0 4 + fieldAt e 4 4 ≤ (o.sect 9).size / 8)), (a + 8, 10, o.nameOk (fieldAt e 8 4))] ++ zeroChk e 12 4 10 a)

/-- The bytes a digest takes as zero: DIGEST and the PIN section (R30). -/
def Obj.digest (o : Obj) : List Byte :=
  let p := o.sect 5
  sha384 ((List.range o.bytes.length).map fun i => if (0x40 ≤ i ∧ i < 0x70) ∨ (p.off ≤ i ∧ i < p.off + p.size) then 0 else o.bytes.getD i 0)

/-- Every check of an object's tables. -/
def Obj.chk (o : Obj) : List Chk :=
  let cs := o.entries 2
  ((List.range cs.length).flatMap fun i => let (a, e) := cs.getD i (0, []); o.classChk (cs.take i) a e)
  ++ ((List.range (o.entries 3).length).flatMap fun i => let (a, e) := (o.entries 3).getD i (0, []); o.chainChk i a e)
  ++ ((o.entries 7).flatMap fun (a, e) => o.kernelChk a e) ++ o.otherChk

/-- The failing check of the lowest offset. -/
def firstBad (l : List Chk) : Option (Nat × Nat) :=
  ((l.filter fun c => !c.2.2).map fun c => (c.1, c.2.1)).foldl (fun b c => match b with | none => some c | some x => if c.1 < x.1 then some c else some x) none

/-- A section can be read; one that cannot runs past the end of the object (R32). -/
def State.sectReads (s : State) (d v a : Nat) (x : Sect) : Bool :=
  decide (a + x.off + x.size < 2 ^ 64) && (match s.devRead d v (a + x.off) x.size with | .ok _ => true | .error _ => false)

/-- The checks of a section table and of what its sections hold, and the object of the sections that can be read. The digest is checked where every byte up to the last section's end can be. -/
def State.bodyChk (s : State) (d v a stab n : Nat) (h t : List Byte) : List Chk × Obj :=
  let ss := parseSects t n
  let past := (List.range n).map fun i => let x := ss.getD i {}; (stab + 24 * i + 16, x.kind, s.sectReads d v a x)
  let ok := ss.filter (s.sectReads d v a)
  let whole := s.devRead d v a (ok.foldl (fun m x => max m (x.off + x.size)) 0)
  let o : Obj := { bytes := match whole with | .ok r => r.1 | .error _ => h, sects := ok }
  let dig : List Chk := match whole with
    | .ok _ => if past.all (·.2.2) then [(0x40, 0, o.digest == (o.bytes.drop 0x40).take 48)] else []
    | .error _ => [(0x10, 0, false)]
  (sectChk t stab n ++ past ++ o.chk ++ dig, o)

/-- An object at a device address, read for die d, or OBJ.FORM's {offset, section kind}: the violation of the lowest offset (R32). What cannot be read lies past the end of the object. DESIGN CHOICE (log 61): a breach of the header or of the digest reports kind 0, a missing section and sections 9 and 10 without each other report offset 0x10, and an address that is not a multiple of 64 (R29) reports offset 0 and kind 0. -/
def State.readObj (s : State) (d v a : Nat) : Except (Nat × Nat) (Obj × State) :=
  match s.devRead d v a 128 with
  | .error _ => .error (0, 0)
  | .ok (h, s) =>
    let head := headerChk h ++ [(0, 0, a % 64 == 0)]
    let n := if fieldAt h 8 2 ≤ 8 then fieldAt h 8 2 else 0
    let stab := fieldAt h 0x10 8
    match s.devRead d v (a + stab) (24 * n) with
    | .error _ => .error ((firstBad (head ++ [(0x10, 0, false)])).getD (0x10, 0))
    | .ok (t, s) =>
      let b := s.bodyChk d v a stab n h t
      match firstBad (head ++ b.1) with
      | some x => .error x
      | none => .ok (b.2, s)

/-! Class names in code (R37, R76). -/

/-- How an instruction names a class. -/
inductive Role | vec | pair | edge | meas | cvt | streamed | stationary | passAcc | drainSrc | drainOut
  deriving DecidableEq, Repr

/-- The real class forms of class A: every form of opcodes 0x40 to 0x61 but SHFL, VOTE, HRAND.n and HRAND.p. -/
def realA : Instr → Option AForm
  | .fadd f | .fsub f | .fmul f | .fma f | .fmin f | .fmax f | .fcmp f | .fsel f | .fcls f | .fscl f | .frnd f | .frcp f | .frsq f | .fsqt f | .fdiv f
  | .fexp f | .flog f | .fsin f | .fcos f | .ftnh f | .cvif f | .cvfi f | .cvccCc f | .cvccIn f | .cvccOut f | .fdot4 f | .amax f | .hrandU f | .lutb f
  | .lutm f | .redw _ f | .scanw _ f => some f
  | _ => none

/-- The classes an instruction names in its own field or through the default of its operands, given the prefix's CA, CB and CC (0 for none). -/
def classNames (i : Instr) (p : Nat × Nat × Nat) : List (Nat × Role) :=
  let a (own : Nat) := if p.1 = 0 then own else p.1
  let b (own : Nat) := if p.2.1 = 0 then own else p.2.1
  match realA i with
  | some f => [(f.cls.toNat, .vec)]
  | none =>
    match i with
    | .cadd f => [(f.cls.toNat, .pair)]
    | .cfold f => if p.1 = 0 then [(f.cls.toNat, .pair)] else [(f.cls.toNat, .vec)]
    | .ld f | .st f | .lds f | .sts f | .ldg f => if f.df.toNat < 0x80 ∨ f.cls ≠ 0 then [(f.cls.toNat, .edge)] else []
    | .fred _ f => [(f.cls.toNat, .edge)]
    | .meas f => [(f.cls.toNat, .meas)]
    | .mcvt f => [(f.cls.toNat, .cvt)]
    | .mldb f => [(f.cls.toNat, .stationary)]
    | .mma f | .mmat f => [(f.cls.toNat, .passAcc), (a f.cls.toNat, .streamed), (b f.cls.toNat, .stationary)]
    | .mdrn f => [(f.cls.toNat, .drainOut), (a f.cls.toNat, .drainSrc)]
    | _ => []

/-- How a class named by a prefix is used by its target. -/
def prefixRole (i : Instr) (operand : Nat) : Role :=
  match i with
  | .cfold _ => if operand = 0 then .pair else .vec
  | .mma _ | .mmat _ => if operand = 0 then .streamed else .stationary
  | .mdrn _ => .drainSrc
  | _ => .vec

/-- A class named at a code offset. -/
structure Use where
  off : Nat
  cls : Nat
  role : Role
  /-- The a class and b class of a pass (R78). -/
  pass : Option (Nat × Nat) := none
  deriving DecidableEq, Repr

/-- A load or store with a real DF and CLS 0, which the binder counts as naming c0 (R37) though it issues as ILLOP (R258): any class in that field decodes it. -/
def realMemC0 (r : Raw) : Option Instr :=
  if r.cls ≠ 0 ∨ 0x80 ≤ r.fsp / 256 then none
  else match decodeRaw { r with cls := 1 } with
    | .ok (.ld f) => some (.ld { f with cls := 0 })
    | .ok (.st f) => some (.st { f with cls := 0 })
    | .ok (.lds f) => some (.lds { f with cls := 0 })
    | .ok (.sts f) => some (.sts { f with cls := 0 })
    | .ok (.ldg f) => some (.ldg { f with cls := 0 })
    | _ => none

/-- The instruction of a slot as the binder scans it. -/
def scanSlot (w : Nat) : Option Instr :=
  match decode w with
  | .ok i => some i
  | .error _ => realMemC0 (Raw.ofWord w)

/-- Each line of the CODE section, in ascending code offset: its slots, none where a slot does not decode. -/
def Obj.codeLines (o : Obj) : List (List (Nat × Option Instr)) :=
  (List.range ((o.sect 1).size / 64)).map fun l => (List.range 5).map fun s =>
    (64 * l + s, scanSlot (lineSlot (o.line l) s))

/-- The nonzero classes of a PFX.CL with the operand each supplies (R137). -/
def pfxClasses (p : Nat × Nat × Nat × Nat) : List (Nat × Nat) := [(p.2.1, 0), (p.2.2.1, 1), (p.2.2.2, 2)].filter fun z => z.1 != 0
/-- Uses of a PFX.CL that no instruction follows in its line: they are not matrix operands (R76), and must be declared like any (R37). -/
def dangling (p : Option (Nat × Nat × Nat × Nat)) : List Use :=
  match p with
  | some p => (pfxClasses p).map fun z => { off := p.1, cls := z.1, role := .edge }
  | none => []

/-- Uses of classes in the slots of a line, in scan order; a prefix's classes stand at its own slot. -/
def usesFrom : List (Nat × Option Instr) → Option (Nat × Nat × Nat × Nat) → List Use
  | [], p => dangling p
  | (_, none) :: r, p => dangling p ++ usesFrom r none
  | (_, some (.pfxRg _)) :: r, p => usesFrom r p
  | (x, some (.pfxCl a b c)) :: r, p => dangling p ++ usesFrom r (some (x, a.toNat, b.toNat, c.toNat))
  | (x, some i) :: r, p =>
    let q := match p with | some (_, y) => y | none => (0, 0, 0)
    let pre := match p with
      | some p => (pfxClasses p).map fun z => { off := p.1, cls := z.1, role := prefixRole i z.2 }
      | none => []
    let pass (n : Nat × Role) : Option (Nat × Nat) := match i with
      | .mma f | .mmat f => if n.2 = .streamed then some (if q.1 = 0 then f.cls.toNat else q.1, if q.2.1 = 0 then f.cls.toNat else q.2.1) else none
      | _ => none
    pre ++ (classNames i q).map (fun n => { off := x, cls := n.1, role := n.2, pass := pass n }) ++ usesFrom r none

/-- Uses of every class. -/
def Obj.uses (o : Obj) : List Use := o.codeLines.flatMap fun l => usesFrom l none

/-- OBJ.CLASS: the first use of an undeclared class, c0 among them where a real form names it (R37). A prefix names only nonzero classes. -/
def Obj.badUse (o : Obj) : Option Use := o.uses.find? fun u => !o.declared u.cls

end Sys2Proof.Machine
end

