-- ==== Sys2Proof/Machine/Admit.lean ====
section
/-! DEFINITION. Admission of a launch (spec/02 R45 to R50), the checks of an update descriptor at dispatch (spec/20 R381 to R384), and dispatch (spec/05 R108). -/

namespace Sys2Proof.Machine

open Sys2Proof

/-! The launch record. -/

/-- Reserved ranges of a launch record: offset, size (R45). -/
def lrecReserved : List (Nat × Nat) := [(0x1C, 4), (0x35, 3), (0x3E, 2), (0x52, 46), (0x300, 256)]

/-- A timeline descriptor's checks (R46); owners are those of the earlier descriptors. -/
def tldChk (bs : List Byte) (i : Nat) (owners : List Nat) : List Chk :=
  let o := 0x80 + 16 * i
  let base := fieldAt bs o 8
  let scope := fieldAt bs (o + 8) 1
  let owner := fieldAt bs (o + 9) 1
  let used := owner != 0
  [(o, 0, if used then decide (base < 2 ^ 63) else base == 0), (o + 8, 0, if used then decide (1 ≤ scope ∧ scope ≤ 5) else scope == 0),
   (o + 9, 0, decide (owner ≤ 5) && (!used || !owners.contains owner))] ++ zeroChk bs (o + 10) 6 0 0

/-- Owners of the first i descriptors. -/
def tldOwners (bs : List Byte) (i : Nat) : List Nat := (List.range i).map fun j => fieldAt bs (0x89 + 16 * j) 1

/-- The checks of a launch record that do not name the kernel (R45, R46). -/
def lrecChk (bs : List Byte) : List Chk :=
  let f (o n : Nat) := fieldAt bs o n
  let c (o : Nat) (ok : Bool) : Chk := (o, 0, ok)
  [c 0 (f 0 4 == 0x524C4A46), c 4 (f 4 2 == 1), c 6 (f 6 2 == 0x400), c 0x28 (decide (1 ≤ f 0x28 4 ∧ f 0x28 4 ≤ 2 ^ 24)), c 0x2C (decide (1 ≤ f 0x2C 1)), c 0x2D (decide (1 ≤ f 0x2D 1)),
   c 0x2E (decide (f 0x2E 1 ≤ 3)), c 0x2F (decide (f 0x2F 1 ≤ 1)), c 0x30 (if f 0x2E 1 = 0 then decide (1 ≤ f 0x30 4 ∧ f 0x30 4 ≤ 10 ^ 6) else f 0x30 4 == 0),
   c 0x34 (decide (f 0x34 1 ≤ 8)), c 0x38 (decide (64 ≤ f 0x38 4 ∧ f 0x38 4 ≤ 2 ^ 20)), c 0x3C (decide (f 0x3C 2 ≤ 1024)),
   c 0x40 (f 0x40 4 % 256 == 0 && decide (f 0x40 4 ≤ f 0x44 4)), c 0x44 (f 0x44 4 % 256 == 0 && decide (f 0x44 4 ≤ 2 ^ 31)),
   c 0x48 (f 0x50 2 != 0 || f 0x48 8 == 0), c 0x50 (decide (f 0x50 2 ≤ 256))]
  ++ (lrecReserved.flatMap fun r => zeroChk bs r.1 r.2 0 0) ++ (List.range 8).flatMap fun i => tldChk bs i (tldOwners bs i)

/-- Group numbers of an entry; 0xFFFF is none (R47). -/
def groupsOf (bs : List Byte) (i : Nat) : List Nat := ((List.range 4).map fun j => fieldAt bs (8 * i + 2 * j) 2).filter (· != 0xFFFF)

/-- The checks of the group table (R47): a number at or above NGROUP is a breach of NGROUP, a repeated one of GTAB. -/
def groupChk (gs : List (List Nat)) (ngroup : Nat) : List Chk :=
  [(0x50, 0, gs.all fun g => g.all (· < ngroup)), (0x48, 0, gs.all fun g => g.eraseDups.length == g.length)]

/-- A kernel entry read (R43). -/
def kernelFrom (e : List Byte) : Kernel :=
  { entry := BitVec.ofNat 64 (fieldAt e 0 8), maxw := fieldAt e 8 1, maxt := fieldAt e 9 1, nrv := fieldAt e 0xA 1, nq := fieldAt e 0xB 1, scrk := fieldAt e 0xC 2, grp := fieldAt e 0xE 1 == 1 }

/-- The limits that name the kernel (R49 step 3), by ascending offset. -/
def kernelLimits (bs : List Byte) (k : Kernel) : List Chk :=
  [(0x2C, 0, decide (fieldAt bs 0x2C 1 ≤ k.maxt)), (0x2D, 0, decide (fieldAt bs 0x2D 1 ≤ k.maxw)), (0x3C, 0, decide (k.scrk ≤ fieldAt bs 0x3C 2)), (0x50, 0, !k.grp || fieldAt bs 0x50 2 != 0)]

/-- A signed byte. -/
def int8 (x : Nat) : Int := if x < 128 then x else (x : Int) - 256

/-- The binding of a class, from its record entry and its object entry (R33, R34, R84). -/
def classFrom (r e : List Byte) : ClassB :=
  { fmt := fieldAt r 1 1, scheme := fieldAt r 2 1, npl := fieldAt r 3 1, flush := natBit (fieldAt r 4 1) 0, satv := BitVec.ofNat 64 (fieldAt r 0x30 8),
    range := BitVec.ofNat 64 (fieldAt e 8 8), rpol := fieldAt e 4 1, nmax := fieldAt e 0x28 8, fix := int8 (fieldAt e 6 1), thresh := fieldAt e 0x30 4 }

/-- The bindings of every class of a record. -/
def classesFrom (o : Obj) (brec : List Byte) : Cells ClassB :=
  (List.range (fieldAt brec 0xC 1)).foldl (fun m i =>
    let r := (brec.drop (128 + 64 * i)).take 64
    Cells.set {} m (fieldAt r 0 1) (classFrom r (o.classEntry (fieldAt r 0 1)))) []

/-- The admitted copy (R48). -/
def admFrom (bs : List Byte) (o : Obj) (k : Kernel) (groups : List (List Nat)) (brecSize : Nat) : Adm :=
  let f (off n : Nat) := fieldAt bs off n
  { obj := BitVec.ofNat 64 (f 8 8), brec := BitVec.ofNat 64 (f 0x10 8), code := BitVec.ofNat 64 (f 8 8 + (o.sect 1).off), rgn := BitVec.ofNat 64 (f 0x20 8),
    ngang := f 0x28 4, tpg := f 0x2C 1, wpt := f 0x2D 1, pmode := f 0x2E 1, nomir := natBit (f 0x2F 1) 0, latb := f 0x30 4, ejt := f 0x34 1, rjt := f 0x38 4, scrk := f 0x3C 2,
    priv := f 0x40 4, pmax := f 0x44 4, ngroup := f 0x50 2, tld := (List.range 8).map fun i => (BitVec.ofNat 64 (f (0x80 + 16 * i) 8), f (0x88 + 16 * i) 1, f (0x89 + 16 * i) 1),
    ktab := (List.range 64).foldl (fun m i => Cells.set 0 m i (BitVec.ofNat 64 (f (0x100 + 8 * i) 8))) [], groups := groups, kernel := k,
    ro := [(f 8 8, o.bytes.length), (f 0x10 8, brecSize)], raw := bs }

/-- Steps 2 to 4 of R49 for a record that has passed step 1. A binding record is told by MAGIC, VERSION and the object's digest, whatever HSIZE, SIZE, RDIG and BREC's alignment (DESIGN CHOICE, log 114). -/
def State.admitObj (s : State) (k : Nat) (bs : List Byte) (groups : List (List Nat)) : State :=
  let v := (s.task k).vdev
  let fail (s : State) (code off : Nat) : State := (s.failTask k code).modTask k fun t => { t with foff := off }
  match s.readObj (taskDie k) v (fieldAt bs 8 8) with
  | .error _ => fail s 0x302 0
  | .ok (o, s) =>
    match s.devRead (taskDie k) v (fieldAt bs 0x10 8) 128 with
    | .error _ => fail s 0x302 0
    | .ok (h, s) =>
      match s.devRead (taskDie k) v (fieldAt bs 0x10 8) (128 + 64 * fieldAt h 0xC 1) with
      | .error _ => fail s 0x302 0
      | .ok (brec, s) =>
        let ks := o.entries 7
        if fieldAt h 0 4 ≠ 0x52424A46 ∨ fieldAt h 4 2 ≠ 1 ∨ (h.drop 0x20).take 48 ≠ (o.bytes.drop 0x40).take 48 ∨ ks.length ≤ fieldAt bs 0x18 4 then fail s 0x302 0
        else
          let kn := kernelFrom (ks.getD (fieldAt bs 0x18 4) (0, [])).2
          match firstBad (kernelLimits bs kn) with
          | some (off, _) => fail s 0x301 off
          | none =>
            if 1020 < fieldAt bs 0x3C 2 then fail s 0x303 0
            else
              (s.modTask k fun t => { t with st := .dispatched }).modLaunch k fun l => { l with
                admitted := true, adm := admFrom bs o kn groups (fieldAt h 8 4), cls := classesFrom o brec }

/-- Admission (R48, R49): a launch that holds an admitted copy passes without it. Of several breaches of step 1 the one of the lowest offset is reported; the group table is checked after the record's own fields, and there a repeated number before one at or above NGROUP (DESIGN CHOICE, log 104). GTAB may have any alignment (DESIGN CHOICE, log 114). -/
def State.admitLaunch (s : State) (k : Nat) : State :=
  let t := s.task k
  let fail (s : State) (off : Nat) : State := (s.failTask k 0x301).modTask k fun t => { t with foff := off }
  if t.launch.admitted then s.modTask k fun t => { t with st := .dispatched }
  else if t.trec.desc.toNat % 64 ≠ 0 then fail s 0
  else
    match s.devRead (taskDie k) t.vdev t.trec.desc.toNat 1024 with
    | .error _ => fail s 0
    | .ok (bs, s) =>
      let n := fieldAt bs 0x28 4 * fieldAt bs 0x2C 1
      let base := firstBad (lrecChk bs)
      let read : Except Nat (List (List Nat) × State) :=
        if fieldAt bs 0x50 2 = 0 ∨ base.isSome then .ok (List.replicate n [], s)
        else match s.devRead (taskDie k) t.vdev (fieldAt bs 0x48 8) (8 * n) with
          | .error _ => .error 0x48
          | .ok (g, s) => .ok ((List.range n).map (groupsOf g), s)
      match base, read with
      | some (off, _), _ => fail s off
      | none, .error off => fail s off
      | none, .ok (groups, s) =>
        match firstBad (groupChk groups (fieldAt bs 0x50 2)) with
        | some (off, _) => fail s off
        | none => s.admitObj k bs groups

/-! Update descriptors. -/

/-- A window entry's checks (R382). -/
def winOk (bs : List Byte) (i : Nat) : Bool :=
  let o := 0x20 + 16 * i
  let va := fieldAt bs o 8
  let len := fieldAt bs (o + 8) 4
  let fl := fieldAt bs (o + 12) 1
  zeroAt bs (o + 13) 3 && (if va = 0 then len == 0 && fl == 0 else va % 256 == 0 && len % 256 == 0 && decide (256 ≤ len ∧ len ≤ 2 ^ 31 ∧ fl ≤ 1))

/-- A synchronisation entry (R383). -/
def syncFrom (bs : List Byte) (i : Nat) : SyncE :=
  let o := 0xA0 + 16 * i
  { launch := fieldAt bs o 8, team := fieldAt bs (o + 8) 4, tl := fieldAt bs (o + 12) 1, kind := fieldAt bs (o + 13) 1 }

/-- A synchronisation entry keeps R383 and names an admitted launch of the virtual device (R384). -/
def State.syncOk (s : State) (v : Nat) (bs : List Byte) (i : Nat) : Bool :=
  let e := syncFrom bs i
  zeroAt bs (0xA0 + 16 * i + 14) 2 &&
  (if e.kind = 0 then e.launch == 0 && e.team == 0 && e.tl == 0
   else decide (e.kind ≤ 2 ∧ e.tl ≤ 7) &&
    (match s.taskOf (BitVec.ofNat 64 e.launch) with
     | none => false
     | some k =>
       let l := (s.task k).launch
       let d := l.adm.tld.getD e.tl (0, 0, 0)
       (s.task k).vdev == v && (s.task k).trec.kind == 1 && l.admitted && decide (e.team < l.adm.ngang * l.adm.tpg) && decide (3 ≤ d.2.1) && (e.kind == 1 || d.2.2 == 5)))

/-- A descriptor's own fields (R381). -/
def udescOk (bs : List Byte) : Bool :=
  let f (o n : Nat) := fieldAt bs o n
  f 0 4 == 0x44554A46 && f 4 2 == 1 && f 6 2 == 0x100 && decide (f 8 1 ≤ 127) && zeroAt bs 9 3 && decide (1 ≤ f 0xC 4 ∧ f 0xC 4 ≤ 4096) && f 0x10 8 % 8 == 0 && zeroAt bs 0x1C 4
  && zeroAt bs 0xE0 32 && (List.range 4).all (winOk bs)

/-- PAs of pages with their lengths, or nothing where one does not translate. -/
def State.mapPages (s : State) (v : Nat) (w : Bool) (l : List (Nat × Nat)) : List (Nat × Nat) :=
  let ps := l.map fun x => match s.translate v x.1 w false with | .ok (pa, _) => some (pa, x.2) | .error _ => none
  if ps.any Option.isNone then [] else ps.filterMap id

/-- A window translated page by page (R384): one contiguous range on the conservator's stack outside the Cistern, writable where W asks. -/
def State.winMap (s : State) (v cons : Nat) (bs : List Byte) (i : Nat) : Option Win :=
  let o := 0x20 + 16 * i
  let va := fieldAt bs o 8
  let len := fieldAt bs (o + 8) 4
  let w := fieldAt bs (o + 12) 1 == 1
  if va = 0 then some {}
  else
    match s.mapPages v w (pageSegs (len / 65536 + 2) va len) with
    | [] => none
    | (pa, n) :: r =>
      let flat := r.foldl (fun (a : Nat × Bool) x => (a.1 + x.2, a.2 && x.1 == a.1)) (pa + n, true)
      if flat.2 && flat.1 == pa + len && paSpace pa == .hbm && paSpace (pa + len - 1) == .hbm && paStack pa == cons / 16 && paStack (pa + len - 1) == cons / 16
          && !s.inCistern pa && !s.inCistern (pa + len - 1)
      then some { pa := pa, len := len, w := w, used := true } else none

/-- Two windows' physical ranges overlap. -/
def winsOverlap (ws : List Win) : Bool :=
  (List.range ws.length).any fun i => (List.range i).any fun j =>
    let a := ws.getD i {}
    let b := ws.getD j {}
    a.used && b.used && decide (a.pa < b.pa + b.len ∧ b.pa < a.pa + a.len)

/-- A descriptor checked, its synchronisation entries aside, and its code read for die d (R384): the update, or its fault code. -/
def State.updRead (s : State) (d v : Nat) (bs : List Byte) : Except Nat (Upd × State) :=
  let n := fieldAt bs 0xC 4
  if !udescOk bs then .error 0x310
  else
    match s.devRead d v (fieldAt bs 0x10 8) (8 * n) with
    | .error _ => .error 0x310
    | .ok (code, s) =>
      let cons := fieldAt bs 8 1
      let step : W32 := BitVec.ofNat 32 (fieldAt bs 0x18 4)
      let ws := (List.range 4).map (s.winMap v cons bs)
      if !s.stepOk v step then .error 0x312
      else if (s.stk (cons / 16)).ulSize = 0 then .error 0x313
      else if ws.any Option.isNone || winsOverlap (ws.filterMap id) then .error 0x311
      else .ok ({
        cons := cons, code := (List.range n).map fun i => BitVec.ofNat 64 (fieldAt code (8 * i) 8), stepNo := step, win := ws.filterMap id,
        ca := (List.range 8).map fun i => BitVec.ofNat 64 (fieldAt bs (0x60 + 8 * i) 8), sync := (List.range 4).map (syncFrom bs), raw := bs, order := s.nextOrder }, s)

/-- An update's descriptor read once and checked (R384). -/
def State.dispatchUpd (s : State) (k : Nat) : State :=
  let t := s.task k
  let a := t.trec.desc.toNat
  match if a % 64 = 0 then s.devRead (taskDie k) t.vdev a 256 else .error .tfnv with
  | .error _ => s.failTask k 0x310
  | .ok (bs, s) =>
    match if (List.range 4).all (s.syncOk t.vdev bs) then s.updRead (taskDie k) t.vdev bs else .error 0x310 with
    | .error c => s.failTask k c
    | .ok (u, s) => { (s.modTask k fun t => { t with st := .dispatched, upd := u }) with nextOrder := s.nextOrder + 1 }

/-! Dispatch (R108). -/

/-- Weight in effect (R113). -/
def Vdev.weight (v : Vdev) : Nat := bits v.cfg.toNat 55 48

/-- A READY task is dispatched. -/
def State.dispatchTask (s : State) (k : Nat) : State := if (s.task k).trec.kind = 2 then s.dispatchUpd k else s.admitLaunch k

/-- A task may be dispatched: READY, its virtual device holding the slice and not frozen, its rollback as a dependent over (R104). -/
def State.canDispatch (s : State) (k : Nat) : Bool :=
  let t := s.task k
  t.st == .ready && !t.stopped && t.launch.stopping.isNone && s.holdsSlice t.vdev && !(s.vdev t.vdev).frozen

/-- PRIO of a list; list 15 has 15 (R94). -/
def Vdev.prio (v : Vdev) (l : Nat) : Nat := if l = 15 then 15 else (v.list l).prio

/-- The READY task of a virtual device on a die that hardware dispatches next: lowest PRIO, then list, then oldest (R108). -/
def State.nextReady (s : State) (d v : Nat) : Option Nat :=
  let ks := (Cells.keys s.tasks).filter fun k => taskDie k == d && (s.task k).vdev == v && s.canDispatch k
  let key (k : Nat) : Nat := let t := s.task k; ((s.vdev v).prio t.list * 16 + t.list) * 2 ^ 64 + t.order
  ks.foldl (fun b k => match b with | none => some k | some x => if key k < key x then some k else some x) none

/-- One dispatch opportunity of a die and virtual device is used. -/
def State.useOpp (s : State) (d v : Nat) : State := { s with opps := Cells.modify 0 s.opps (16 * d + v) (· - 1) }
/-- HW_DISPATCH (R108): an opportunity that waits dispatches the next READY task; a task that fails its checks leaves it to the next one, and with no READY task it passes. -/
def execHwDispatch (die vdev : Nat) (s : State) : Out :=
  if s.gdisp vdev || (s.vdev vdev).frozen || (s.die die).inReset || Cells.get 0 s.opps (16 * die + vdev) == 0 then .next s
  else match s.nextReady die vdev with
    | some k => let s' := s.dispatchTask k; .next (if (s'.task k).st = .dispatched then s'.useOpp die vdev else s')
    | none => .next (s.useOpp die vdev)

/-- CSRVIOL of a curator in guest mode for v (R106, R114): ARG holds the low 16 bits of the offset. -/
def State.csrViol (s : State) (d v off : Nat) (write : Bool) : State := s.post d 16 0x17 v 0 0 (d + 16 * v + 2 ^ 16 * (off % 2 ^ 16) + 2 ^ 32 * b2n write)

/-- A curator's write that names a task, of a die that is not held in reset (R444): guest firmware reaches its own virtual device's tasks only (R114). -/
def State.guestOn (s : State) (d off : Nat) (o : Option Nat) (go : Nat → State) (stale : State) : State :=
  if (s.die d).inReset then s
  else match o with
  | none => stale
  | some k =>
    match (s.die d).cur.guest with
    | none => go k
    | some v => if (s.task k).vdev = v then go k else s.csrViol d v off true

/-- A write that names a task in the graph by its handle. -/
def State.guestTask (s : State) (d off : Nat) (h : W64) (go : Nat → State) (stale : State) : State := s.guestOn d off (s.taskOf h) go stale

/-- DISPATCH_WRITE (R108): a task that is not READY, or a stale handle, is passed over. -/
def execDispatchWrite (die : Nat) (val : W64) (s : State) : Out :=
  .next (s.guestTask die 0x128 val (fun k => if s.canDispatch k then s.dispatchTask k else s) s)

/-- TGDEC_WRITE (R93, R99): STALESIG names the writer's queue; a task that has left the graph is past releasing, and TASKUF is posted. -/
def execTgdecWrite (die : Nat) (val : W64) (s : State) : Out :=
  let stale := match (s.die die).cur.guest with
    | some v => s.post die v 0x14 v 0 0 (val.toNat + 2 ^ 64)
    | none => s.post die 16 0x14 0xFF 0 0 (val.toNat + 2 ^ 64)
  .next (s.guestOn die 0x120 (s.entryOf val) (fun k => s.releaseTask k 2 none) stale)

end Sys2Proof.Machine
end

