-- ==== Sys2Proof/Machine/Binder.lean ====
section
/-! DEFINITION. The Bexid binder (spec/04 R74 to R87): candidates, eligibility, the bounds in binary64 rounded upward, chains, pins, the binding record and the fault report. -/

namespace Sys2Proof.Machine

open Sys2Proof

/-- CAPCODE (R74). -/
def capCode : Nat := 0x0000000100030A80

/-! Binary64, rounded toward +∞ (R77). -/

/-- The least binary64 value not below n / d. -/
def up64 (x : Q) : Q :=
  if x.1 = 0 then (0, 1)
  else
    let e := floorLog2 x.1 x.2
    let (a, b) := scale2 x.1 x.2 (52 - e)
    scale2 ((a + b - 1) / b) 1 (e - 52)

/-- Encoding of a binary64 value; +∞ for none. -/
def enc64 (x : Option Q) : Nat :=
  match x with
  | none => 0x7FF0000000000000
  | some x =>
    let x := up64 x
    if x.1 = 0 then 0
    else
      let e := floorLog2 x.1 x.2
      let (a, b) := scale2 x.1 x.2 (52 - e)
      ((e + 1023).toNat * 2 ^ 52) + (a / b - 2 ^ 52)

/-- Sum rounded up. -/
def qadd (a b : Q) : Q := up64 (a.1 * b.2 + b.1 * a.2, a.2 * b.2)
/-- Product rounded up. -/
def qmul (a b : Q) : Q := up64 (a.1 * b.1, a.2 * b.2)

/-- γ(k, u) = k·u / (1 − k·u), or none where k·u ≥ 1 (R77). -/
def gammaOf (k : Nat) (u : Q) : Option Q :=
  let p := qmul (up64 (k, 1)) u
  if p.2 ≤ p.1 then none
  else
    let r := up64 (p.2 - p.1, p.2)
    some (up64 (p.1 * r.2, p.2 * r.1))

/-! Candidates (R75, R77). -/

/-- 2^e. -/
def pow2Q (e : Int) : Q := scale2 1 1 e
/-- The master list, as format codes. -/
def candidates : List Nat := (List.range 15).map (· + 0x12) ++ [0x30, 0x02, 0x03, 0x04, 0x01]
/-- A plane format. -/
def isPlane (f : Nat) : Bool := decide (0x12 ≤ f ∧ f ≤ 0x20)
/-- A vector format. -/
def isVector (f : Nat) : Bool := decide (1 ≤ f ∧ f ≤ 4)

/-- U(F). -/
def candU (f : Nat) : Q :=
  match f with
  | 0x01 => pow2Q (-24) | 0x02 => pow2Q (-8) | 0x03 => pow2Q (-11) | 0x04 => pow2Q (-16) | 0x30 => (0, 1)
  | f => pow2Q (1 - ((f : Int) - 0x10))
/-- MAXR(F). -/
def candMax (f : Nat) : Q :=
  match f with
  | 0x01 => scale2 (2 ^ 24 - 1) 1 104 | 0x02 | 0x04 => scale2 (2 ^ 8 - 1) 1 120 | 0x03 => (65504, 1) | 0x30 => scale2 (2 ^ 79 - 1) 1 511
  | f => scale2 (2 ^ (f - 0x11) - 1) 1 127
/-- MINR(F). -/
def candMin (f : Nat) : Q :=
  match f with
  | 0x01 | 0x02 => pow2Q (-126) | 0x03 => pow2Q (-14) | 0x04 => pow2Q (-118) | 0x30 => pow2Q (-512)
  | f => pow2Q ((f : Int) - 0x10 - 128)
/-- G(F, N). -/
def candG (f n : Nat) : Option Q := if isPlane f || f == 0x30 then some (0, 1) else gammaOf (n - 1) (candU f)

/-- The roles in which code names a class. -/
def rolesOf (us : List Use) (c : Nat) : List Role := (us.filter fun u => u.cls == c).map (·.role)
/-- A matrix operand role. -/
def Role.operand (r : Role) : Bool := r == .meas || r == .cvt || r == .streamed || r == .stationary
/-- A matrix accumulator role. -/
def Role.accum (r : Role) : Bool := r == .passAcc || r == .drainSrc

/-- Eligibility of a candidate (R76): kind and mode of the class, its roles. -/
def eligible (f kind amode : Nat) (rs : List Role) : Bool :=
  let mat := rs.any fun r => r.operand || r.accum
  let pair := rs.contains .pair
  if isPlane f then kind == 0 && amode == 1 && !rs.isEmpty && rs.all Role.operand && (!rs.contains .stationary || decide (f ≤ 0x1D))
  else if f = 0x30 then kind == 1 && !rs.isEmpty && rs.all Role.accum
  else if kind = 2 ∧ f ≠ 0x01 ∧ f ≠ 0x02 then false
  else if f = 0x04 then pair && !mat
  else !mat && !pair

/-- The declaration of a class as exact numbers (R34). -/
structure Decl where
  id : Nat
  kind : Nat
  amode : Nat
  spol : Nat
  flushOk : Bool
  range : Q
  floor : Q
  accu : Q
  eacc : Q
  nmax : Nat
  deriving DecidableEq, Repr

/-- A class entry read. -/
def declOf (e : List Byte) : Decl :=
  let q (o : Nat) := (b64Q (fieldAt e o 8)).getD (0, 1)
  { id := fieldAt e 0 1, kind := fieldAt e 1 1, amode := fieldAt e 2 1, spol := fieldAt e 3 1, flushOk := natBit (fieldAt e 5 1) 1,
    range := q 8, floor := q 0x10, accu := q 0x18, eacc := q 0x20, nmax := fieldAt e 0x28 8 }

/-- N of the accumulation test. -/
def Decl.n (d : Decl) : Nat := if d.nmax = 0 then 2 else d.nmax
/-- The accumulation test applies. -/
def Decl.accTest (d : Decl) : Bool := d.kind == 1 || d.eacc.1 != 0

/-- The four tests of a candidate: range, floor, accuracy, accumulation (R77). RANGE is compared with the exact MAXR(A80), which is no binary64 value (DESIGN CHOICE, log 113). -/
def tests (d : Decl) (f : Nat) : List Bool :=
  [qle d.range (candMax f), qle (candMin f) d.floor, (d.amode == 1 || !isPlane f) && qle (candU f) d.accu,
   !d.accTest || (match candG f d.n with | some g => qle g d.eacc | none => false)]

/-- The candidates eligible for a class. -/
def eligibleFor (d : Decl) (rs : List Role) : List Nat := candidates.filter fun f => eligible f d.kind d.amode rs
/-- The class's format (R75). -/
def bindClass (d : Decl) (rs : List Role) : Option Nat := (eligibleFor d rs).find? fun f => (tests d f).all id

/-- MISS of an unmet class (R87). -/
def missOf (d : Decl) (rs : List Role) : Nat :=
  let l := eligibleFor d rs
  let miss (i : Nat) : Bool := !l.any fun f => (tests d f).getD i false
  b2n (miss 0) + 2 * b2n (miss 1) + 4 * b2n (miss 2) + 8 * b2n (miss 3) + 16 * b2n l.isEmpty
    + 32 * b2n (!l.isEmpty && (List.range 4).all fun i => !miss i)

/-- The smaller of two values, none being +∞. -/
def qmin? (a b : Option Q) : Option Q := match a, b with | some x, some y => if qle x y then a else b | none, b => b | a, none => a

/-- DATA of an unmet class: the best of the eligible candidates (R87); zeros where there is none. AEACC is 0 where the accumulation test does not apply (R84), and +∞ where every candidate has k·u ≥ 1 (DESIGN CHOICE, log 112). -/
def unmetData (d : Decl) (rs : List Role) : List Byte :=
  match eligibleFor d rs with
  | [] => List.replicate 48 0
  | f :: l =>
    let u := l.foldl (fun m x => if qle (candU x) m then candU x else m) (candU f)
    let g := if d.accTest then l.foldl (fun m x => qmin? m (candG x d.n)) (candG f d.n) else some (0, 1)
    let r := l.foldl (fun m x => if qle m (candMax x) then candMax x else m) (candMax f)
    let n := l.foldl (fun m x => if qle (candMin x) m then candMin x else m) (candMin f)
    leBytes 8 (enc64 (some u)) ++ leBytes 8 (enc64 g) ++ leBytes 8 (enc64 (some r)) ++ leBytes 8 (enc64 (some n)) ++ List.replicate 16 0

/-! SATV (R84). -/

/-- The largest k × 2^q not above x, k of at most p bits, q at least emin. -/
def floorTo (p : Nat) (emin : Int) (x : Q) : Q :=
  if x.1 = 0 then (0, 1)
  else
    let e := floorLog2 x.1 x.2
    let q := max (e - p + 1) emin
    let (a, b) := scale2 x.1 x.2 (-q)
    scale2 (a / b) 1 q

/-- SATV: the largest value of F not above x; for KB16 the largest BF16 value (R84, R205). -/
def satOf (f : Nat) (x : Q) : Q :=
  match f with
  | 0x01 => floorTo 24 (-149) x | 0x02 | 0x04 => floorTo 8 (-133) x | 0x03 => floorTo 11 (-24) x | 0x30 => floorTo 79 (-512) x
  | f => floorTo (f - 0x11) (-127) x

/-! The record (R84). -/

/-- FORMS of a class. A load, a store and FRED are none of the forms that a bit names (log 61). -/
def formsOf (d : Decl) (rs : List Role) : Nat :=
  let h (r : Role) := b2n (rs.contains r)
  h .vec + 2 * h .pair + 2 ^ (2 + d.spol) * h .cvt + 32 * h .streamed + 64 * h .stationary + 128 * h .passAcc + 256 * h .drainSrc + 512 * h .drainOut

/-- Plane count of a format. -/
def nplOf (f : Nat) : Nat := if isPlane f then f - 0x10 else 0

/-- A class entry (R84). fm gives the format of every class. -/
def recClassEntry (us : List Use) (fm : Nat → Nat) (d : Decl) : List Byte :=
  let f := fm d.id
  let rs := rolesOf us d.id
  let scheme := if isPlane f then d.spol + 1 else 0
  let wider := us.any fun u => u.cls == d.id && (match u.pass with | some (a, b) => a == d.id && decide (nplOf (fm b) < nplOf (fm a)) | none => false)
  let sfl := b2n (d.flushOk && isVector f) + 2 * b2n (decide (2 ≤ scheme)) + 4 * b2n (f == 0x30) + 8 * b2n (rs.contains .stationary) + 16 * b2n wider
  let g := if d.accTest then (candG f d.n).getD (0, 1) else (0, 1)
  leBytes 1 d.id ++ leBytes 1 f ++ leBytes 1 scheme ++ leBytes 1 (nplOf f) ++ leBytes 1 sfl ++ [0] ++ leBytes 2 (formsOf d rs)
    ++ leBytes 8 (enc64 (some (candU f))) ++ leBytes 8 (enc64 (some g)) ++ leBytes 8 (enc64 (some (candMax f))) ++ leBytes 8 (enc64 (some (candMin f)))
    ++ leBytes 8 (if d.accTest then d.n else 0) ++ leBytes 8 (enc64 (some (satOf f d.range))) ++ List.replicate 8 0

/-- The composed bound of a chain, none for +∞ (R82), which it also is where k·u ≥ 1 leaves ε_acc undefined (DESIGN CHOICE, log 112). -/
def chainBound (fm : Nat → Nat) (e : List Byte) : Option Q :=
  let f (o n : Nat) := fieldAt e o n
  let fa := fm (f 2 1)
  let fb := fm (f 3 1)
  let fc := fm (f 4 1)
  let fo := fm (f 5 1)
  if f 1 1 = 2 ∧ ¬(isPlane fa ∧ isPlane fb ∧ fc = 0x30 ∧ isVector fo) then none
  else
    match candG fc (f 0x10 8) with
    | none => none
    | some ec =>
      let ea := candU fa
      let eb := candU fb
      let one : Q := (1, 1)
      let e1 := if f 1 1 = 1 then qadd ea (qmul ec (qadd one ea))
        else qadd (qadd (qadd ea eb) (qmul ea eb)) (qmul (qmul ec (qadd one ea)) (qadd one eb))
      let uo : Q := if f 5 1 = f 4 1 then (0, 1) else candU fo
      some (qadd e1 (qmul uo (qadd one e1)))

/-- A chain entry of the record (R84). -/
def recChainEntry (fm : Nat → Nat) (e : List Byte) : List Byte :=
  e.take 6 ++ [0, 0] ++ (e.drop 8).take 8 ++ leBytes 8 (enc64 (chainBound fm e)) ++ (e.drop 0x10).take 8

/-- The record's header (R84). -/
def recHeader (o : Obj) (flags bver step : Nat) : List Byte :=
  let nc := (o.entries 2).length
  let nh := (o.entries 3).length
  leBytes 4 0x52424A46 ++ leBytes 2 1 ++ leBytes 2 0x80 ++ leBytes 4 (288 + 64 * nc + 32 * nh) ++ leBytes 1 nc ++ leBytes 1 nh ++ leBytes 1 flags ++ [0]
    ++ leBytes 8 capCode ++ leBytes 4 bver ++ leBytes 1 step ++ List.replicate 3 0 ++ (o.bytes.drop 0x40).take 48 ++ List.replicate 48 0

/-- STEP (R28, R84). -/
def stepByte : Nat := Config.stepL.toNat * 16 + Config.stepN.toNat % 10

/-- A load fault (R87): code, item, MISS, offset, DATA. -/
def faultReport (code item miss off : Nat) (data : List Byte) : List Byte :=
  leBytes 2 code ++ leBytes 1 item ++ leBytes 1 miss ++ List.replicate 4 0 ++ leBytes 8 off ++ (data ++ List.replicate 48 0).take 48

/-- Class declarations in ascending ID. -/
def Obj.decls (o : Obj) : List Decl := sortOn Decl.id ((o.entries 2).map fun e => declOf e.2)

/-- The record of an object, or its fault report, in R87's order. `attest` names the BDIG of DIE.0's firmware, whose attestation key signs (R449); the signature covers the bytes as they stand before FLAGS[0] is set (R85). Where no pin matches the capability code and several are strict, the first of them is reported (log 61). -/
def Obj.bind (o : Obj) (attest : Option (List Byte)) : Except (List Byte) (List Byte) :=
  match o.badUse with
  | some u => .error (faultReport 0x0102 u.cls 0 u.off [])
  | none =>
    let us := o.uses
    let ds := o.decls
    match ds.find? fun d => (bindClass d (rolesOf us d.id)).isNone with
    | some d => .error (faultReport 0x0201 d.id (missOf d (rolesOf us d.id)) 0 (unmetData d (rolesOf us d.id)))
    | none =>
      let fm (c : Nat) : Nat := match ds.find? fun d => d.id == c with | some d => (bindClass d (rolesOf us c)).getD 0 | none => 0
      let chains := (o.entries 3).map (·.2)
      match chains.find? fun e => match chainBound fm e, b64Q (fieldAt e 8 8) with | some x, some b => !qle x b | _, _ => true with
      | some e => .error (faultReport 0x0202 (fieldAt e 0 1) 0 0 (leBytes 8 (enc64 (chainBound fm e))))
      | none =>
        let body := ds.flatMap (recClassEntry us fm) ++ chains.flatMap (recChainEntry fm)
        let rdig := sha384 (recHeader o 0 0 0 ++ body)
        let pins := (o.entries 5).map (·.2)
        let hit := pins.findIdx? fun p => fieldAt p 0 8 == capCode
        let strict := pins.findIdx? fun p => natBit (fieldAt p 0x38 1) 0
        let bad := match hit, strict with
          | some i, _ => if ((pins.getD i []).drop 8).take 48 == rdig then none else some i
          | none, some j => some j
          | none, none => none
        match bad with
        | some i => .error (faultReport 0x0203 i 0 0 rdig)
        | none =>
          let all (signed : Bool) := recHeader o (b2n signed + 2 * b2n hit.isSome) Config.bver.toNat stepByte ++ body ++ rdig
          let sig := match attest with | some bdig => ecdsaSign (Config.attestKey 0 bdig) (sha384 (all false)) | none => List.replicate 96 0
          .ok (all attest.isSome ++ sig ++ List.replicate 16 0)

/-- Bytes written by the binder, or nothing where they cannot be. -/
def State.putBytes (s : State) (d v a : Nat) (bs : List Byte) : State := match s.devWrite d v a bs with | .ok s => s | .error _ => s

/-- BIND (R75 to R87): the record at its address, or the fault report at the report address. -/
def execBind (die vdev : Nat) (obj record report : W64) (attest : Bool) (s : State) : Out :=
  match s.readObj die vdev obj.toNat with
  | .error (off, item) => .next (s.putBytes die vdev report.toNat (faultReport 0x0101 item 0 off []))
  | .ok (o, s) =>
    match o.bind (if attest then some (s.die 0).fwdig else none) with
    | .error r => .next (s.putBytes die vdev report.toNat r)
    | .ok r => .next (s.putBytes die vdev record.toNat r)

end Sys2Proof.Machine
end

