-- ==== Sys2Proof/Machine/Operands.lean ====
section
/-! DEFINITION. Operand forms: guards and active threads (spec/06 R127, R150, R153), register operands (R128, R130), integer operands and results (spec/08 R192 to R194), class operands and their delivery (spec/09 R204 to R208), and the drivers that run a form once per active thread or once for the path. -/

namespace Sys2Proof.Machine

open Sys2Proof

/-! Guards. -/

/-- The guard of a per-thread form in thread t (R127). -/
def State.guardT (s : State) (g : Guard) (t : Nat) : Bool := s.rdP t g.idx.toNat != g.neg
/-- The guard of a .s form: q0 to q3, or always (R127). -/
def State.guardU (s : State) (g : Guard) : Bool := (if g.idx.toNat < 4 then s.rdQ g.idx.toNat else true) != g.neg
/-- Active threads of a per-thread form, ascending (R153). -/
def State.active (s : State) (g : Guard) : List Nat := s.pathThreads.filter (s.guardT g)
/-- Some active thread's guard is true. -/
def State.anyActive (s : State) (g : Guard) : Bool := !(s.active g).isEmpty
/-- Lowest thread of the issuing path's mask. -/
def State.lowThread (s : State) : Nat := s.pathThreads.headD 0

/-! Register operands. -/

/-- A register operand as 64 bits: a v register zero-extended, a d register whole (R128). -/
def State.rdReg (s : State) (t : Nat) (sp : Spec) (wide : Bool) : W64 :=
  match sp.file with
  | .v => if wide then (s.rdV t (sp.idx.toNat + 1)) ++ (s.rdV t sp.idx.toNat) else (s.rdV t sp.idx.toNat).setWidth 64
  | .s => s.rdS sp.idx.toNat
  | .k => s.rdK sp.idx.toNat
  | .x => 0

/-- A result register written: v takes the low word, d both, s all 64 bits. -/
def wrReg (sp : Spec) (t : Nat) (wide : Bool) (x : W64) : List Wr :=
  match sp.file with
  | .v => if wide then [.v t sp.idx.toNat (x.setWidth 32), .v t (sp.idx.toNat + 1) ((x >>> 32).setWidth 32)] else [.v t sp.idx.toNat (x.setWidth 32)]
  | .s => [.s sp.idx.toNat x]
  | _ => []

/-- A predicate operand: p0 to p7, or q0 to q3 at 8 to 11 (R128). -/
def State.rdPred (s : State) (t : Nat) (sp : Spec) : Bool :=
  if sp.idx.toNat < 8 then s.rdP t sp.idx.toNat else s.rdQ (sp.idx.toNat - 8)
/-- A predicate written; p7 never is (R179). -/
def wrPred (sp : Spec) (t : Nat) (b : Bool) : List Wr :=
  if sp.idx.toNat < 8 then [.p t sp.idx.toNat b] else [.q (sp.idx.toNat - 8) b]

/-! Integer operands and results. -/

/-- The low w bits of an operand as the type reads them (R192). -/
def intOf (ty : IType) (x : Nat) : Int :=
  let m := x % 2 ^ ty.width
  if ty.signed && decide (2 ^ (ty.width - 1) ≤ m) then (m : Int) - 2 ^ ty.width else m

/-- A result reduced modulo 2^w and extended to 64 bits by the type (R192). -/
def intBits (ty : IType) (x : Int) : W64 := BitVec.ofInt 64 (intOf ty (x % 2 ^ ty.width).toNat)

/-- IMM as the type reads it (R193). -/
def immInt (ty : IType) (imm : BitVec 8) : Int := if ty.signed then imm.toInt else imm.toNat

/-- Integer operand a register names (R192). -/
def State.rdInt (s : State) (t : Nat) (sp : Spec) (ty : IType) : Int := intOf ty (s.rdReg t sp ty.wide).toNat
/-- Operand a. -/
def State.intA (s : State) (f : AForm) (t : Nat) : Int := s.rdInt t f.a f.ty
/-- Operand b, or IMM with BI (R193). -/
def State.intB (s : State) (f : AForm) (t : Nat) : Int := if f.bi then immInt f.ty f.imm else s.rdInt t f.b f.ty
/-- Operand c. -/
def State.intC (s : State) (f : AForm) (t : Nat) : Int := s.rdInt t f.c f.ty
/-- A shift count: B[7:0] unsigned, IMM read 0 to 255 (R193, R195). -/
def State.shiftB (s : State) (f : AForm) (t : Nat) : Nat := if f.bi then f.imm.toNat else (s.rdReg t f.b f.ty.wide).toNat % 256
/-- Operand a as w unsigned bits. -/
def State.natA (s : State) (f : AForm) (t : Nat) : Nat := (s.rdReg t f.a f.ty.wide).toNat % 2 ^ f.ty.width
/-- The integer result written (R192). -/
def wrInt (f : AForm) (t : Nat) (x : Int) : List Wr := wrReg f.dst t f.ty.wide (intBits f.ty x)

/-! Drivers. -/

/-- A form that writes registers: once per active thread, or once for the path under MU (R150); body gives a thread's writes. -/
def State.each (s : State) (mu : Bool) (g : Guard) (body : State → Nat → List Wr) : Out :=
  if mu then s.inWarp fun s => s.finish (if s.guardU g then body s s.lowThread else [])
  else s.finish ((s.active g).flatMap (body s))

/-- An integer form: its result in each thread. -/
def State.intForm (s : State) (f : AForm) (res : State → Nat → Int) : Out :=
  s.each f.mu f.grd fun s t => wrInt f t (res s t)

/-- A form of the path, executed in the warp when some active thread's guard is true (R329, R352); otherwise it only issues. -/
def State.once (s : State) (g : Guard) (body : State → Out) : Out :=
  s.inWarp fun s => if s.anyActive g then body s else s.finish []

/-- The issuing team. -/
def State.ct (s : State) : Team := s.team s.cTeam

/-- A trap of the path with one number as information. -/
def State.pathTrap (s : State) (f : SForm) (cause info : Nat) : Out := s.trap cause info (s.active f.grd)

/-- An s destination, or none where the field is 0. -/
def sDst (d : Spec) (x : W64) : List Wr := if d.file == .s then [.s d.idx.toNat x] else []

/-- MEET of threads of the issuing warp set (R183, R202). -/
def State.setMeet (s : State) (ts : List Nat) (x : Nat → W64) : State :=
  s.modWarp s.cTeam s.cWarp fun w => ts.foldl (fun w t => w.modThread t fun th => { th with meet := x t }) w

/-- The issuing path's hold after its PC has moved. -/
def State.holdPath (s : State) (h : Hold) : State :=
  match s.cur.agent with
  | .warp t w e => s.modWarp t w fun x => x.modEntry e fun p => { p with hold := h }
  | _ => s

/-- The issuing warp changed, then the next unit. -/
def State.warpDone (s : State) (f : Warp → Warp) : Out := .next (s.modWarp s.cTeam s.cWarp f).advance

/-- An RJT value the part accepts (R178). -/
def rjtOk (x : Nat) : Bool := 64 ≤ x && x ≤ 2 ^ 20

/-! Class operands and delivery. -/

/-- The class of operand a, b or c (0, 1, 2) under a PFX.CL (R137). -/
def State.clsFor (s : State) (own : Nat) (i : Nat) : Nat :=
  match s.cur.pcl with
  | none => own
  | some (a, b, c) => let x := if i = 0 then a else if i = 1 then b else c; if x = 0 then own else x

/-- The binding of a class of the issuer's launch. -/
def State.cls (s : State) (c : Nat) : ClassB := s.cLaunch.clsAt c

/-- A class operand's value (R204, R205). -/
def State.rdCls (s : State) (t : Nat) (sp : Spec) (c : Nat) : RVal := classRead (s.cls c) (s.rdReg t sp false).toNat
/-- Class operand a. -/
def State.clsA (s : State) (f : AForm) (t : Nat) : RVal := s.rdCls t f.a (s.clsFor f.cls.toNat 0)
/-- Class operand b. -/
def State.clsB (s : State) (f : AForm) (t : Nat) : RVal := s.rdCls t f.b (s.clsFor f.cls.toNat 1)
/-- Class operand c. -/
def State.clsC (s : State) (f : AForm) (t : Nat) : RVal := s.rdCls t f.c (s.clsFor f.cls.toNat 2)

/-- What one thread of a class form gives: its delivered values' flags and counts, and its writes. -/
structure ThreadOut where
  thread : Nat := 0
  flg : Flg := {}
  satc : Nat := 0
  unfc : Nat := 0
  trap : Bool := false
  ws : List Wr := []
  deriving DecidableEq, Repr

/-- A thread that delivers one value of the class into dst (R204, R205). -/
def deliver1 (dst : Spec) (t : Nat) (d : Deliv) : ThreadOut :=
  { thread := t, flg := d.flg, satc := d.satc, unfc := d.unfc, trap := d.trap, ws := wrReg dst t false (BitVec.ofNat 64 d.out) }

/-- Class results of every thread: RANGE if some thread breached under policy trap (R88), else all writes, flags and counts together, with counts c of the instruction that wait (R89, R208). -/
def State.classDoneWith (s : State) (cls : Nat) (mu : Bool) (c : Nat × Nat × Bool) (os : List ThreadOut) : Out :=
  let bad := os.filter (·.trap)
  if !bad.isEmpty then .next (s.trapWith 0x18 (BitVec.ofNat 64 cls) 0 (if mu then maskOf s.pathThreads else maskOf (bad.map (·.thread))))
  else
    let sat := os.foldl (fun n o => n + o.satc) c.1
    let unf := os.foldl (fun n o => n + o.unfc) c.2.1
    let s := s.count s.cTask cls sat unf (c.2.2 || os.any (·.flg.breach))
    let fl := if mu then (match os with | [] => [] | o :: _ => s.pathThreads.map fun t => Wr.vst t o.flg.bits) else os.map fun o => Wr.vst o.thread o.flg.bits
    s.finish (os.flatMap (·.ws) ++ fl)

/-- Class results of every thread, none of its counts waiting. -/
def State.classDone (s : State) (cls : Nat) (mu : Bool) (os : List ThreadOut) : Out := s.classDoneWith cls mu (0, 0, false) os

/-- A class form: each thread's outcome, per active thread or once under MU. -/
def State.classForm (s : State) (f : AForm) (body : State → Nat → ThreadOut) : Out :=
  if f.mu then s.inWarp fun s => if s.guardU f.grd then s.classDone f.cls.toNat true [body s s.lowThread] else s.finish []
  else s.classDone f.cls.toNat false ((s.active f.grd).map (body s))

/-- A class form that delivers ROUND_CLASS of one exact result (R205). -/
def State.realForm (s : State) (f : AForm) (res : State → Nat → Res) : Out :=
  s.classForm f fun s t => deliver1 f.dst t (roundClass (s.cls f.cls.toNat) (res s t))

/-! Addresses of the per-thread forms (R257). -/

/-- The 64-bit offset BASE + IDX of thread t (R257); a .s form whose index field is unused has none (R442, log 37). -/
def State.mOff (s : State) (f : MForm) (t : Nat) : W64 :=
  let base := s.rdReg t f.a true
  let idx : W64 :=
    if f.bi then f.imm.signExtend 64
    else if f.mu && f.b.file == .v then 0
    else if f.b.file == .v && !f.iw then (s.rdV t f.b.idx.toNat).signExtend 64
    else s.rdReg t f.b true
  base + idx

/-- The region a selector names: RG.n, or the prefix's (R132, R138). -/
def State.regionOf (s : State) (rs : Nat) : Nat :=
  if rs = 4 then (s.cur.prg.getD 0).toNat % 65536
  else (if s.onRill then Cells.get 0 s.rr.rg rs else Cells.get 0 s.rw.rg rs).toNat % 65536

/-- An s, k or IMM operand b of a class S form, as 64 bits. -/
def State.sB (s : State) (f : SForm) : W64 := if f.bi then f.imm.setWidth 64 else s.rdReg s.lowThread f.b true
/-- An s or k operand a. -/
def State.sA (s : State) (f : SForm) : W64 := s.rdReg s.lowThread f.a true
/-- An s or k operand c. -/
def State.sC (s : State) (f : SForm) : W64 := s.rdReg s.lowThread f.c true

end Sys2Proof.Machine
end

