-- ==== Sys2Proof/Machine/Collective.lean ====
section
/-! DEFINITION. Warp collectives within the tiles of PART (spec/09 R227 to R229; spec/07 R170, R174). -/

namespace Sys2Proof.Machine

open Sys2Proof

/-- Tile size by PART code (R174). -/
def tileSize (p : BitVec 3) : Nat := match p.toNat with | 1 => 2 | 2 => 4 | 3 => 8 | 4 => 16 | _ => 32

/-- Tile size of the issuing warp. -/
def State.tile (s : State) : Nat := tileSize s.rw.part
/-- Active threads of thread t's tile, ascending. -/
def State.tileActive (s : State) (g : Guard) (t : Nat) : List Nat := (s.active g).filter fun u => u / s.tile == t / s.tile

/-- The source position of SHFL (R227), or none outside the tile. -/
def shflPos (op : ShflOp) (z l b : Nat) : Option Nat :=
  let p : Int := match op with | .idx => (b % z : Nat) | .up => (l : Int) - b | .down => (l : Int) + b | .xor => (l ^^^ b : Nat)
  if 0 ≤ p ∧ p < z then some p.toNat else none

/-- SHFL (R227): an away source gives its frozen value and sets AWAY in the reader. -/
def execShfl (op : ShflOp) (f : AForm) (s : State) : Out :=
  s.inWarp fun s =>
    s.finish ((s.active f.grd).flatMap fun t =>
      let z := s.tile
      let b := if f.bi then f.imm.toNat else (s.rdReg t f.b false).toNat % 2 ^ 32
      match shflPos op z (t % z) b with
      | none => wrReg f.dst t f.x20 (s.rdReg t f.a f.x20)
      | some p =>
        let u := t / z * z + p
        wrReg f.dst t f.x20 (s.rdReg u f.a f.x20) ++ (if (s.cw.thread u).st == .away then [.vst t 0x100] else []))

/-- VOTE's result for thread t: a predicate, or a ballot (R228). -/
def State.voteBit (s : State) (op : VoteOp) (f : AForm) (ts : List Nat) : Bool :=
  match op with
  | .all => ts.all fun u => s.rdPred u f.a
  | .any => ts.any fun u => s.rdPred u f.a
  | .eq => match ts with | [] => true | u :: r => r.all fun v => s.rdReg v f.a f.x20 == s.rdReg u f.a f.x20
  | .ballot => false

/-- VOTE (R228). -/
def execVote (op : VoteOp) (f : AForm) (s : State) : Out :=
  s.inWarp fun s =>
    s.finish ((s.active f.grd).flatMap fun t =>
      let ts := s.tileActive f.grd t
      match op with
      | .ballot => wrReg f.dst t false ((maskOf (ts.filter fun u => s.rdPred u f.a)).setWidth 64)
      | _ => wrPred f.dst t (s.voteBit op f ts))

/-- ⊕ of REDW and SCANW (R229): add is a STEP, the others choose exactly. -/
def combine (op : ReduceOp) (fmt : Nat) (u v : Res) : Res :=
  match op with
  | .add => let r := rAdd u.1 v.1; stepRound fmt (r.1, (r.2.or u.2).or v.2)
  | .min => let r := rMinMax false u.1 v.1; (r.1, (r.2.or u.2).or v.2)
  | .max => let r := rMinMax true u.1 v.1; (r.1, (r.2.or u.2).or v.2)
  | .amax => let r := rAmax u.1 v.1; (r.1, (r.2.or u.2).or v.2)

/-- One level of TREE (R229). -/
def treeLevel (op : ReduceOp) (fmt : Nat) : List Res → List Res
  | u :: v :: l => combine op fmt u v :: treeLevel op fmt l
  | l => l

/-- TREE before its ROUND_CLASS; five levels reduce 32 values (R229). -/
def tree (op : ReduceOp) (fmt : Nat) (l : List Res) : Res :=
  ((List.range 5).foldl (fun l _ => treeLevel op fmt l) l).headD (.fin false 0 1, {})

/-- REDW and SCANW (R229): each thread's value over the listed threads of its tile. A tile's one result is counted once (log 14). -/
def State.treeForm (s : State) (op : ReduceOp) (f : AForm) (scan : Bool) : Out :=
  s.inWarp fun s =>
    let c := s.cls f.cls.toNat
    s.classDone f.cls.toNat false ((s.active f.grd).map fun t =>
      let ts := s.tileActive f.grd t
      let ts' := if scan then ts.filter (· ≤ t) else ts
      let d := roundClass c (tree op c.fmt (ts'.map fun u => (s.clsA f u, {})))
      let o := deliver1 f.dst t d
      if scan || ts.head? == some t then o else { o with satc := 0, unfc := 0 })

/-- REDW (R229). -/
def execRedw (op : ReduceOp) (f : AForm) (s : State) : Out := s.treeForm op f false
/-- SCANW (R229). -/
def execScanw (op : ReduceOp) (f : AForm) (s : State) : Out := s.treeForm op f true

end Sys2Proof.Machine
end

