-- ==== Sys2Proof/Machine/Control.lean ====
section
/-! DEFINITION. Control, divergence and pacing instructions (spec/08 R179 to R190; spec/07 R156 to R162), and the prefixes (spec/06 R136 to R138). -/

namespace Sys2Proof.Machine

open Sys2Proof

/-! Prefixes. A prefix takes effect in the unit it begins: it moves no PC of its own. -/

/-- PFX.CL (R137): source classes for the target. -/
def execPfxCl (ca cb cc : BitVec 6) (s : State) : Out := .next { s with cur := { s.cur with pcl := some (ca.toNat, cb.toNat, cc.toNat) } }
/-- PFX.RG (R138): the region register, read as the prefix issues. -/
def execPfxRg (a : Spec) (s : State) : Out := .next { s with cur := { s.cur with prg := some (s.rdS a.idx.toNat) } }

/-! Targets (R123, R124, R133). -/

/-- What checking a target finds. -/
inductive TgtCheck
  /-- It is a legal target. -/
  | ok
  /-- A trap of this cause. -/
  | bad (cause : Nat)
  /-- Its line cannot be read. -/
  | fault (f : MFault)
  deriving DecidableEq, Repr

/-- BADSLOT, then BADTGT: the slot is a target in a line of the issuing line's KIND (R121, R123, R124). -/
def State.checkTarget (s : State) (pc : W64) : TgtCheck :=
  if !pcOk pc then .bad 8
  else
    match s.cLine pc with
    | .error f => .fault f
    | .ok (l, _) => if lineKind (lineWord l) = b2n s.cur.handler ∧ lineTgt (lineWord l) (pc.toNat % 8) then .ok else .bad 9

/-- The first target that fails, in order of threads. -/
def State.firstBadTarget (s : State) (dest : Nat → W64) : List Nat → Option (Nat × TgtCheck)
  | [] => none
  | t :: ts => if s.checkTarget (dest t) = .ok then s.firstBadTarget dest ts else some (t, s.checkTarget (dest t))

/-- The target's displacement form, from the branch's own line (R133). -/
def State.target (s : State) (f : BForm) : W64 := pcAt (BitVec.ofNat 64 (pcLine s.cur.ipc)) f.tdisp f.tslot
/-- The meeting address (R133). -/
def State.meetAddr (s : State) (f : BForm) : W64 := if f.mr then s.rdReg s.lowThread f.b true else pcAt (BitVec.ofNat 64 (pcLine s.cur.ipc)) f.mdisp f.mslot

/-- PCs of a list in ascending order without repeats. -/
def sortPcs (l : List W64) : List W64 := (sortOn id (l.map BitVec.toNat).eraseDups).map (BitVec.ofNat 64)

/-- XFER's groups after the checks (R181). -/
def Warp.xfer (w : Warp) (e : Nat) (next : W64) (act : List Nat) (dest : Nat → W64) (x : Option W64) : Warp :=
  let ts := maskList (w.entry e).mask
  let goes := fun t => if act.contains t then dest t else next
  let pcs := sortPcs (ts.map goes)
  let keep := if pcs.contains next then next else pcs.headD next
  let w := match x with | some x => if pcs.length ≤ 1 then w else w.modThreads ts fun th => { th with meet := x } | none => w
  let w := w.modEntry e fun p => { p with pc := keep, mask := maskOf (ts.filter fun t => goes t == keep), hold := .none, done := 0 }
  (pcs.filter (· != keep)).foldl (fun w pc => w.addPath pc (ts.filter fun t => goes t == pc)) w

/-- Threads whose targets a transfer checks: the active ones; an encoded target is checked whatever the guard (R127, R181). -/
def State.checked (s : State) (f : BForm) : List Nat :=
  let act := s.active f.grd
  if act.isEmpty && !f.tr then s.pathThreads.take 1 else act

/-- A transfer of the issuing path or rill thread (R181): checks first, then links, then moves. A line that only inactive threads name faults in none (R127). -/
def State.xfer (s : State) (f : BForm) (dest : Nat → W64) (x : Option W64) (links : Nat → List Wr) : Out :=
  let act := s.active f.grd
  let go (s : State) : Out :=
    if (match x with | some x => !pcOk x | none => false) then s.trapT 8 s.cur.ipc.toNat act
    else
      let s := s.applyWr (act.flatMap links)
      match s.cur.agent with
      | .warp t w e => .next (s.modWarp t w fun wp => wp.xfer e s.cur.npc act dest x)
      | .rill c => .next (s.modRill c fun r => { r with pc := if act.isEmpty then s.cur.npc else dest r.thread, hold := .none })
      | _ => .next s
  match s.firstBadTarget dest (s.checked f) with
  | some (_, .bad c) => s.trapT c s.cur.ipc.toNat (act.filter fun t => s.checkTarget (dest t) == .bad c)
  | some (t, .fault m) => if act.isEmpty then go s else s.fetchFault m (dest t)
  | _ => go s

/-- BRA (R181). -/
def execBra (f : BForm) (s : State) : Out := s.xfer f (fun t => if f.tr then s.rdReg t f.a true else s.target f) none fun _ => []
/-- BRX (R181): MEET is written only by a split. -/
def execBrx (f : BForm) (s : State) : Out := s.xfer f (fun t => s.rdReg t f.a true) (some (s.meetAddr f)) fun _ => []
/-- CALL (R181): the link is the slot after the call. -/
def execCall (f : BForm) (s : State) : Out := s.xfer f (fun _ => s.target f) none fun t => wrReg f.dst t true (pcNext s.cur.ipc 1)
/-- CALLX (R181). -/
def execCallx (f : BForm) (s : State) : Out := s.xfer f (fun t => s.rdReg t f.a true) none fun t => wrReg f.dst t true (pcNext s.cur.ipc 1)
/-- RET (R181). -/
def execRet (f : BForm) (s : State) : Out := s.xfer f (fun t => s.rdReg t f.a true) none fun _ => []

/-! Ejection (R160, R161). -/

/-- Context i of cluster m is free. -/
def State.ctxFree (s : State) (m i : Nat) : Bool := !(s.rill (64 * m + i)).used
/-- FREE_CONTEXTS (R156). -/
def State.freeCtxs (s : State) (m : Nat) : Nat := ((List.range 64).filter (s.ctxFree m)).length
/-- Occupied contexts of rill core r of a cluster. -/
def State.rillLoad (s : State) (m r : Nat) : Nat := ((List.range 4).filter fun i => !s.ctxFree m (4 * r + i)).length
/-- The rill core with the fewest occupied contexts that has a free one, other than `no` (R160). -/
def State.rillCoreFor (s : State) (m : Nat) (no : Option Nat) : Option Nat :=
  let cs := (List.range 16).filter fun r => some r != no && s.rillLoad m r < 4
  cs.foldl (fun b r => match b with | none => some r | some x => if s.rillLoad m r < s.rillLoad m x then some r else b) none
/-- The lowest free context of a rill core (log 12). -/
def State.ctxOn (s : State) (m r : Nat) : Nat := ((List.range 4).find? fun i => s.ctxFree m (4 * r + i)).getD 0 + 4 * r

/-- One thread ejected at a PC (R160, R161). -/
def State.ejectThread (s : State) (team warp : Nat) (mirror : Bool) (pc : W64) (t : Nat) : State :=
  let m := coreClus (s.team team).core
  let w := s.warp team warp
  let v := (s.team team).vdev
  let r : Rill :=
    { used := true, team := team, warp := warp, thread := t,
      v := (w.v.filter fun c => c.1 / 64 == t).map fun c => (c.1 % 64, c.2),
      p := (w.p.filter fun c => c.1 / 8 == t).map fun c => (c.1 % 8, c.2),
      s := w.s, q := w.q, pc := pc, vstat := (w.thread t).vstat, rg := w.rg,
      rp := [(24, (s.rp v).cur), (25, (s.rp v).sealedN), (26, (s.rp v).dig), (27, (s.rp v).base), (28, (s.rp v).task)].filter fun c => c.2 != 0,
      part := w.part, ejt := w.ejt, rjt := w.rjt }
  match s.rillCoreFor m none with
  | none => s
  | some a =>
    let c := 64 * m + s.ctxOn m a
    let s := s.modRill c fun _ => r
    let s := if mirror then (match s.rillCoreFor m (some a) with
      | some b => let c' := 64 * m + s.ctxOn m b; s.modRill c' fun _ => { used := true, mirror := true, team := team, warp := warp, thread := t }
      | none => s) else s
    s.modWarp team warp fun w => { (w.modThread t fun th => { th with st := .away, pc := pc }) with look := Cells.set [] w.look t [] }

/-- BRC_SPLIT of a warp path (R156). -/
def State.brcSplit (s : State) (f : BForm) (team warp e : Nat) (tk nt : List Nat) (target x : W64) : State :=
  let next := s.cur.npc
  let set (s : State) (pc : W64) (ts : List Nat) : State :=
    s.modWarp team warp fun w => w.modEntry e fun p => { p with pc := pc, mask := maskOf ts, hold := .none, done := 0 }
  if tk.isEmpty then set s next nt
  else if nt.isEmpty then set s target tk
  else
    let s := s.modWarp team warp fun w => w.modThreads (tk ++ nt) fun th => { th with meet := x }
    let (min, maj) := if tk.length ≤ nt.length then (tk, nt) else (nt, tk)
    let (minPc, majPc) := if tk.length ≤ nt.length then (target, next) else (next, target)
    let n := min.length * (if s.cMirrored then 2 else 1)
    let ejt := s.rw.ejt
    let want := f.ej && ejt != 0 && decide (min.length ≤ ejt.toNat) && !s.cur.handler
    if want && decide (n ≤ s.freeCtxs (coreClus (s.team team).core)) then
      set (min.foldl (fun s t => s.ejectThread team warp s.cMirrored minPc t) s) majPc maj
    else
      let s := if want then s.modWarp team warp fun w => w.modThreads min fun th => { th with vstat := th.vstat ||| 0x200 } else s
      (set s next nt).modWarp team warp fun w => w.addPath target tk

/-- The branch condition in thread t. -/
def State.brcCond (s : State) (f : BForm) (t : Nat) : Bool := s.rdPred t f.a

/-- BRC (R182, R156): target and meeting address are checked before any thread moves. -/
def execBrc (f : BForm) (s : State) : Out :=
  let target := s.target f
  let x := s.meetAddr f
  let act := s.active f.grd
  let tk := act.filter (s.brcCond f)
  let go (s : State) : Out :=
    if !pcOk x then s.trapT 8 s.cur.ipc.toNat act
    else
      match s.cur.agent with
      | .warp t w e => .next (s.brcSplit f t w e tk (s.pathThreads.filter fun i => !tk.contains i) target x)
      | .rill c => .next (s.modRill c fun r => { r with pc := if tk.isEmpty then s.cur.npc else target, hold := .none })
      | _ => .next s
  match s.checkTarget target with
  | .bad c => s.trapT c s.cur.ipc.toNat act
  | .fault m => if act.isEmpty then go s else s.fetchFault m target
  | .ok => go s

/-- MEET (R183). -/
def execMeet (f : BForm) (s : State) : Out :=
  let act := s.active f.grd
  if !pcOk (s.meetAddr f) then s.trapT 8 s.cur.ipc.toNat act
  else .next (s.setMeet act fun _ => s.meetAddr f).advance

/-- JOIN (R184): each active thread stands at its MEET; a straggler parks there only where it has been adopted, one that nothing has adopted takes NOMEET, and one that does not park runs on (R168). -/
def execJoin (f : AForm) (s : State) : Out :=
  let act := s.active f.grd
  let meet := fun t => (s.rw.thread t).meet
  let bad := act.filter fun t => meet t == noMeet
  if !bad.isEmpty then s.trapT 0x10 0 bad
  else
    match s.cur.agent with
    | .warp t w _ =>
      let s := s.advance
      .next (s.modWarp t w fun wp =>
        (sortPcs (act.map meet)).foldl (fun wp x =>
          let here := act.filter fun i => meet i == x
          let wp := wp.parkThose 32 x here
          let on := here.filter fun i => (wp.thread i).st != .parked
          ((wp.leave on).passMeet x on).addPath x on) wp)
    | .rill c => .next (s.modRill c fun r => { r with pc := if act.isEmpty then s.cur.npc else meet r.thread, hold := .none })
    | _ => .next s

/-- EXIT (R185, R159): the others go to the next slot. -/
def execExit (f : AForm) (s : State) : Out :=
  let act := s.active f.grd
  match s.cur.agent with
  | .warp t w _ => .next (s.advance.exitThreads t w act)
  | .rill c =>
    if act.isEmpty then .next s.advance
    else
      let r := s.rill c
      let s := (s.freeFaults fun b => b == .rill c).freeRills fun x => x.team == r.team && x.warp == r.warp && x.thread == r.thread
      .next (s.exitThreads r.team r.warp [r.thread])
  | _ => .next s

/-- NOP (R186): its guard has no effect. -/
def execNop (_f : AForm) (s : State) : Out := s.finish []

/-- YIELD (R187). -/
def execYield (f : AForm) (s : State) : Out :=
  s.once f.grd fun s => .next (s.advance.holdPath (.yieldTill (s.cyc + max f.imm.toNat 1)))

/-- EJCFG (R188). -/
def execEjcfg (f : AForm) (s : State) : Out :=
  s.once f.grd fun s =>
    let a := (s.rdReg s.lowThread f.a true).toNat
    if f.x20 && !rjtOk a then s.illop
    else s.warpDone fun w => { w with ejt := f.imm.setWidth 4, rjt := if f.x20 then BitVec.ofNat 21 a else w.rjt }

/-- PARTN (R189). -/
def execPartn (f : AForm) (s : State) : Out := s.once f.grd fun s => s.warpDone fun w => { w with part := f.imm.setWidth 3 }

/-- The warp is converged: one entry holds every thread that has not exited (R190). -/
def Warp.converged (w : Warp) : Bool :=
  ((List.range 8).filter fun e => (w.entry e).valid).length == 1 && (w.inSt .spilled).isEmpty && (w.inSt .parked).isEmpty && (w.inSt .away).isEmpty

/-- IDEM.on (R190): IDEMDV is checked before IDEMNEST (log 13). -/
def execIdemOn (f : AForm) (s : State) : Out :=
  s.once f.grd fun s =>
    if !s.cw.converged then s.trapT 0x11 0 (s.active f.grd)
    else if s.cw.idem.isSome then s.trapT 0x12 0 (s.active f.grd)
    else s.warpDone fun w => { w with idem := some s.cur.ipc, idemAt := s.cyc, idemMask := s.cp.mask }

/-- IDEM.off (R190). -/
def execIdemOff (f : AForm) (s : State) : Out := s.once f.grd fun s => s.warpDone fun w => { w with idem := none }

end Sys2Proof.Machine
end

