-- ==== Sys2Proof/Machine/Memory.lean ====
section
/-! DEFINITION. Per-thread accesses (spec/11 R257 to R269; spec/10 R232, R233, R244, R249, R252 to R254): where each thread's access lies, the precise traps checked before any access, and how each thread's access is performed whole or faults. -/

namespace Sys2Proof.Machine

open Sys2Proof

/-- The scratchpad area an address names: team and offset (R244), or SCRB. While a team issues, its gang's other teams stand on their cores (State.gangWhole). -/
def State.spadOf (s : State) (team : Nat) (a : W64) : Option (Nat × Nat) :=
  let t := s.team team
  let x := a.toNat
  let off := x % 2 ^ 20
  if 2 ^ 23 ≤ x ∨ t.scrk * 1024 ≤ off then none
  else if natBit x 22 then
    let pos := bits x 21 20
    if t.tpg ≤ pos then none else some ((s.teamAt t.task t.gang pos).getD team, off)
  else if bits x 21 20 ≠ 0 then none else some (team, off)

/-- How a form addresses memory. -/
inductive ASpace | translated | spad | gal
  deriving DecidableEq, Repr

/-- What the checks of a form ask: the bytes of a thread's access, and of each single-copy-atomic part of it (R253, R254, R260, R322); calendar says that a read of the gallery waits for a group in refresh (R250). -/
structure AccKind where
  space : ASpace := .translated
  size : Nat := 4
  elt : Nat := 4
  align : Nat := 4
  write : Bool := false
  reads : Bool := true
  rmw : Bool := false
  narrow : Bool := false
  calendar : Bool := false
  deriving DecidableEq, Repr

/-- The region of a translated form. -/
def State.accRegion (s : State) (f : MForm) : Nat := s.regionOf f.rs.toNat

/-- A trap about an address: TINFO and TINFO2 name the lowest faulting thread's (R347). -/
def State.addrTrap (s : State) (f : MForm) (k : AccKind) (cause : Nat) (ts : List Nat) : Out :=
  let t := ts.headD 0
  .next (s.trapWith cause (s.mOff f t) (if k.space == .translated then BitVec.ofNat 64 (s.accRegion f) else 0) (maskOf ts))

/-- The precise traps of an access in the order they are checked, before any thread's access: REGN, SCRB, GALP or PRIVB, then WINSC, then MISAL (R233, R244, R248, R249, R252, R260, R264; log 15). -/
def State.accBad (s : State) (f : MForm) (k : AccKind) (ts : List Nat) : Option (Nat × List Nat) :=
  let r := s.accRegion f
  let pmax := s.cLaunch.adm.pmax
  let bad (p : Nat → Bool) : List Nat := ts.filter p
  let space : Nat × List Nat := match k.space with
    | .translated => if 0xFF00 ≤ r ∧ r < 0xFFFF then (0x20, ts) else if r = 0xFFFF then (0x26, bad fun t => decide (pmax ≤ (s.mOff f t).toNat)) else (0, [])
    | .spad => (0x21, bad fun t => (s.spadOf s.cTeam (s.mOff f t)).isNone)
    | .gal => (0x24, bad fun t => !s.galOk s.cVdev (s.mOff f t).toNat)
  let win := if k.rmw && k.space == .spad && k.narrow then bad fun t => natBit (s.mOff f t).toNat 22 else []
  let mis := bad fun t => (s.mOff f t).toNat % k.align != 0
  if !space.2.isEmpty then some space else if !win.isEmpty then some (0x23, win) else if !mis.isEmpty then some (0x27, mis) else none

/-- Where an access is performed. -/
inductive Home
  | spad (team off : Nat)
  | gal (off : Nat)
  | priv (off lane : Nat)
  /-- A PA, with its 80-bit VA and its page table entry. -/
  | mem (va pa pte : Nat)
  deriving DecidableEq, Repr

/-- PA of a byte of the issuing warp's private space (R252). -/
def State.privPa (s : State) (o l : Nat) : Nat := s.cw.privPa o l

/-- PAs of the words of an access in memory (R252). -/
def State.homePas (s : State) (h : Home) (n : Nat) : List Nat :=
  match h with
  | .mem _ pa _ => [pa]
  | .priv o l => (List.range ((n + 3) / 4)).map fun i => s.privPa (o + 4 * i) l
  | _ => []

/-- The home of thread t's access, or its fault, poison aside (R252, R253, R117). -/
def State.homeRaw (s : State) (f : MForm) (k : AccKind) (t : Nat) : Except MFault Home :=
  let a := s.mOff f t
  match k.space with
  | .spad => match s.spadOf s.cTeam a with | some (m, o) => .ok (.spad m o) | none => .ok (.spad s.cTeam 0)
  | .gal => .ok (.gal a.toNat)
  | .translated =>
    let r := s.accRegion f
    if r = 0xFFFF then
      if s.cw.hwm ≤ a.toNat then .error .pgrow
      else if !(s.homePas (.priv a.toNat (t % 32)) k.size).all s.cReaches then .error .xbar
      else .ok (.priv a.toNat (t % 32))
    else
      match s.translate s.cVdev (r * 2 ^ 64 + a.toNat) k.write false with
      | .error e => .error e
      | .ok (pa, pte) =>
        if k.write && s.readOnly s.cVdev (r * 2 ^ 64 + a.toNat) k.size then .error .tfro
        else if !s.cReaches pa then .error .xbar
        else .ok (.mem (r * 2 ^ 64 + a.toNat) pa pte)

/-- The poisoned sector that an access meets: a read's, or a partial write's (R254); a private write covers four bytes of each sector it meets (R252). -/
def State.homePoison (s : State) (k : AccKind) (h : Home) : Option Nat :=
  if k.reads || decide (k.elt < 32) || (match h with | .priv _ _ => true | _ => false) then (s.homePas h k.size).find? s.poisoned else none

/-- The home of thread t's access, or its fault (R252 to R254, R117). -/
def State.homeOf (s : State) (f : MForm) (k : AccKind) (t : Nat) : Except MFault Home :=
  match s.homeRaw f k t with
  | .error e => .error e
  | .ok h => match s.homePoison k h with | some pa => .error (.poison (pa / 32 * 32) false) | none => .ok h

/-- The bytes of an access as its home holds them. -/
def State.readHome (s : State) (h : Home) (n : Nat) : List Byte :=
  match h with
  | .spad t o => readBytes (s.team t).spad o n
  | .gal o => readBytes s.gallery o n
  | .priv o l => (List.range n).map fun i => readByte s.mem (s.privPa (o + i) l)
  | .mem _ pa _ => readBytes s.mem pa n

/-- A write to scratchpad or private space is performed at once. -/
def State.writeLocal (s : State) (h : Home) (bs : List Byte) : State :=
  match h with
  | .spad t o => s.modTeam t fun m => { m with spad := writeBytes m.spad o bs }
  | .priv o l =>
    let s := (s.homePas h bs.length).foldl (fun s pa => s.backInvalidate pa 4) s
    { s with mem := ((List.range bs.length).zip bs).foldl (fun m c => writeByte m (s.privPa (o + c.1) l) c.2) s.mem }
  | _ => s

/-- A walk of the issuer's marks its entry (R237). -/
def State.cMark (s : State) (pte : Nat) (write : Bool) : State :=
  s.markFrom (match s.cur.agent with | .curator d => d | _ => coreDie (s.team s.cTeam).core) pte write
/-- The entry's A and D set by the walk of an access (R237). -/
def State.touch (s : State) (h : Home) (write : Bool) : State := match h with | .mem _ _ e => s.cMark e write | _ => s

/-- A write of the issuer that waits to be performed at its home (R309, log 9). -/
def State.pendWrite (s : State) (va pa : Nat) (bs : List Byte) : Pend :=
  { task := s.cTask, team := s.cTeam, num := (s.team s.cTeam).num, core := (s.team s.cTeam).core, warp := s.cWarp, vdev := s.cVdev,
    va := va, span := s.spanOf s.cVdev va, pa := pa, data := bs }

/-- It joins the writes that wait. -/
def State.storePend (s : State) (va pa : Nat) (bs : List Byte) : State := { s with pend := s.pend ++ [s.pendWrite va pa bs] }

/-- A write at its home in single-copy-atomic parts of z bytes (R260): device writes wait in `pend` (R309, log 9); at host and peer memory, whose answers the unit has awaited, they are performed at once. -/
def State.store (s : State) (h : Home) (z : Nat) (bs : List Byte) : State :=
  match h with
  | .mem va pa _ =>
    if paSpace pa == .hbm then
      (List.range (bs.length / z)).foldl (fun s i => s.storePend (va + z * i) (pa + z * i) ((bs.drop (z * i)).take z)) (s.touch h true)
    else (s.touch h true).performBytes s.cVdev s.cTask pa bs
  | _ => s.writeLocal h bs

/-- A read-modify-write's number at another die (R406); at a peer its request carried one already. -/
def State.numberHome (s : State) (pa z : Nat) : State := if paSpace pa == .hbm then s.numberReq (s.team s.cTeam).core pa (readBytes s.mem pa z) else s

/-- A read-modify-write performed at once at its home. -/
def State.rmwAt (s : State) (h : Home) (bs : List Byte) : State :=
  match h with
  | .mem _ pa _ => ((s.touch h true).numberHome pa bs.length).performBytes s.cVdev s.cTask pa bs
  | _ => s.writeLocal h bs

/-- A failing compare of z bytes at its home: a read that carries its number as every ACAS does, and writes nothing (R324, R406). -/
def State.rmwKeep (s : State) (h : Home) (z : Nat) : State :=
  match h with
  | .mem _ pa _ => (s.touch h false).numberHome pa z
  | _ => s

/-- An own pending write overlaps an access: it is performed before the access reads (R309). -/
def State.pendHits (s : State) (h : Home) (n : Nat) : Bool :=
  match h with
  | .mem _ pa _ => s.pend.any fun p => s.ownPend p && decide (p.pa < pa + n ∧ pa < p.pa + p.data.length)
  | _ => false

/-- Threads that still have their access to perform: a replay leaves out the performed ones (R253). -/
def State.accThreads (s : State) (f : MForm) : List Nat :=
  let ts := if f.mu then (if s.guardU f.grd then [s.lowThread] else []) else s.active f.grd
  if s.onRill then ts else ts.filter fun t => !s.cp.done.getLsbD t

/-- The accesses that have a home, and those that fault. -/
def State.homes (s : State) (f : MForm) (k : AccKind) (ts : List Nat) : List (Nat × Home) × List (Nat × MFault) :=
  ts.foldl (fun r t => match s.homeOf f k t with | .ok h => (r.1 ++ [(t, h)], r.2) | .error e => (r.1, r.2 ++ [(t, e)])) ([], [])

/-- Counts of threads. -/
def outCounts (os : List ThreadOut) : Nat × Nat × Bool := (os.foldl (fun n o => n + o.satc) 0, os.foldl (fun n o => n + o.unfc) 0, os.any (·.flg.breach))

/-- The issuing path with counts of its unit that wait for its last access (R89). -/
def State.setCnt (s : State) (c : Nat × Nat × Bool) : State :=
  match s.cur.agent with
  | .warp tm w en => s.modWarp tm w fun x => x.modEntry en fun p => { p with cnt := c }
  | _ => s

/-- Results of the threads whose access was performed: all together when no thread faulted. With a fault they keep their results, and the class counts once, with the last access (R89, R253); those that breach under policy trap write nothing, and RANGE is raised once every access has been performed (R208, R262, log 16). -/
def State.accDone (s : State) (f : MForm) (os : List ThreadOut) (faults : List (Nat × MFault)) : Out :=
  let old := if s.onRill then (0, 0, false) else s.cp.cnt
  match faults with
  | [] =>
    let rng := if s.onRill then 0 else s.cp.rng
    if rng ≠ 0 then s.trapT 0x18 f.cls.toNat (maskList (rng ||| maskOf ((os.filter (·.trap)).map (·.thread))))
    else (if old = (0, 0, false) then s else s.setCnt (0, 0, false)).classDoneWith f.cls.toNat f.mu old os
  | (t, e) :: _ =>
    let bad := os.filter (·.trap)
    let done := maskOf (os.map ThreadOut.thread)
    let os := os.filter (!·.trap)
    let s := s.applyWr (os.flatMap (·.ws) ++ (if f.mu then [] else os.map fun o => Wr.vst o.thread o.flg.bits))
    let c := outCounts os
    let s := match s.cur.agent with
      | .warp tm w en => s.modWarp tm w fun x => x.modEntry en fun p =>
          { p with done := p.done ||| done, rng := p.rng ||| maskOf (bad.map ThreadOut.thread), cnt := (old.1 + c.1, old.2.1 + c.2.1, old.2.2 || c.2.2) }
      | _ => s
    let va := s.accRegion f * 2 ^ 64 + (s.mOff f t).toNat
    .next (s.takeFault e va (maskOf ((faults.filter fun (x : Nat × MFault) => x.2.kind == e.kind).map Prod.fst)))

/-- Bank group g is in refresh at a device time (R250). -/
def inRefresh (t g : Nat) : Bool := let x := t % 4000; decide (500 * g ≤ x ∧ x < 500 * g + 256)
/-- When the refresh window of group g that holds a device time ends. -/
def refreshEnd (t g : Nat) : Nat := t + (256 - (t % 4000 - 500 * g))

/-! Requests of a unit to host and peer memory (R406, R411, R412, R414). -/

/-- Pairs that number the writes at peers among ranges {VA, PA, length}. -/
def peerKeys (l : List (Nat × Nat × Nat)) : List Nat := l.filterMap fun x => if paSpace x.2.1 == .peer then some (1025 + 8 * bits x.2.1 53 44) else none
/-- A pair has 1,024 numbered requests without an answer: it takes no more (R406). -/
def State.pairFull (s : State) (key : Nat) : Bool :=
  decide (1024 ≤ (s.pend.filter fun p => match p.ask with
    | some (t, _) => (peerKeys [(p.va, p.pa, 0)]).contains key && !((s.warp p.team p.warp).thread t).req.isEmpty
    | none => false).length)
/-- The numbers of requests at some pairs: those that an aborted try left (R414), else the next of each pair. -/
def State.takeNums (s : State) : List (Nat × W32) → List Nat → State × List (Nat × W32)
  | _, [] => (s, [])
  | old, key :: r =>
    match old.find? fun o => o.1 == key with
    | some o => let x := s.takeNums (old.erase o) r; (x.1, o :: x.2)
    | none =>
      let x := State.takeNums { s with reqs := Cells.modify {} s.reqs key fun p => { p with next := p.next + 1 } } old r
      (x.1, (key, (Cells.get {} s.reqs key).next) :: x.2)
/-- The numbers that thread t of the issuing warp keeps for its unit: handler code, which no fault replays, keeps none. -/
def State.keptNums (s : State) (t : Nat) : List (Nat × W32) := if s.cur.handler then [] else (s.cw.thread t).req
/-- Thread t of the issuing warp changed. -/
def State.modCThread (s : State) (t : Nat) (f : Thread → Thread) : State := s.modWarp s.cTeam s.cWarp fun w => w.modThread t f
/-- The requests of thread t's access to ranges {VA, PA, length} outside the package are sent; those that write at a peer are numbered. -/
def State.putAsks (s : State) (t : Nat) (write owner : Bool) (l : List (Nat × Nat × Nat)) : State :=
  let l := l.filter fun x => paSpace x.2.1 != .hbm
  let keys := if write && !s.cur.handler then peerKeys l else []
  if (s.cw.thread t).got || s.asking s.cTeam s.cWarp [t] || keys.any s.pairFull then s
  else
    let old := s.keptNums t
    let (s, nums) := s.takeNums old keys
    let s := if keys.isEmpty then s else s.modCThread t fun th => { th with req := nums ++ old.filter (!nums.contains ·) }
    { s with pend := s.pend ++ l.map fun x => { s.pendWrite x.1 x.2.1 [] with ask := some (t, owner) } }
/-- Thread t's answered access is performed: peers cover its numbers and keep the response, and a line that it owned is written back (R406, R411). -/
def State.takeAsks (s : State) (t : Nat) (write : Bool) (resp : List Byte) (l : List (Nat × Nat × Nat)) : State :=
  if l.all fun x => paSpace x.2.1 == .hbm then s
  else
    let old := s.keptNums t
    let (s, nums) := s.takeNums old (if write then peerKeys l else [])
    let s := nums.foldl (fun (s : State) n => { s with reqs := Cells.modify {} s.reqs n.1 fun p => p.perform n.2 resp }) s
    let s := s.modCThread t fun th => { th with got := false, req := if s.cur.handler then th.req else old.filter (!nums.contains ·) }
    s.cxlLeave fun c => c.answered && c.pend.askOf s.cTeam s.cWarp [t]
/-- A unit's accesses outside the package await their answers; those of a curator's code do not (log 9). -/
def State.awaits (s : State) : Bool := match s.cur.agent with | .warp _ _ _ | .rill _ => true | _ => false
/-- The range of an access in memory. -/
def Home.range (h : Home) (n : Nat) : List (Nat × Nat × Nat) := match h with | .mem va pa _ => [(va, pa, n)] | _ => []
/-- An access leaves the package: it is performed at the CXL port or by a peer. -/
def Home.leaves (h : Home) : Bool := match h with | .mem _ pa _ => paSpace pa != .hbm | _ => false

/-- What the homes of an access make it wait for: a mapping that changes, a gallery group in refresh, or answers from outside the package (R240, R250, R411, R414). -/
def State.homesWait (s : State) (k : AccKind) (hs : List (Nat × Home)) : Option Hold :=
  match hs.findSome? fun x =>
    match x.2 with
    | .gal o => if k.calendar && inRefresh s.ns.toNat (bits o 14 12) then some (.refresh (refreshEnd s.ns.toNat (bits o 14 12))) else none
    | h => ((s.homePas h k.size).find? s.chunkBusy).map fun pa => Hold.chunk (paDie pa) (paChunk pa) with
  | some h => some h
  | none => if s.awaits && hs.any fun x => x.2.leaves && !(s.cw.thread x.1).got then some .asked else none

/-- An access waits; for answers it first sends its requests. -/
def State.waitHomes (s : State) (k : AccKind) (hs : List (Nat × Home)) (h : Hold) : State :=
  (if h = .asked then hs.foldl (fun s x => if x.2.leaves then s.putAsks x.1 k.write k.rmw (x.2.range k.size) else s) s else s).wait h
/-- A form's own access to ranges outside the package, made by its lowest thread, awaits answers (R411, R414). -/
def State.rangesWait (s : State) (l : List (Nat × Nat × Nat)) : Option Hold :=
  if s.awaits && l.any (fun x => paSpace x.2.1 != .hbm) && !(s.cw.thread s.lowThread).got then some .asked else none
/-- It waits, and sends its requests. -/
def State.waitRanges (s : State) (write : Bool) (l : List (Nat × Nat × Nat)) (h : Hold) : State :=
  (if h = .asked then s.putAsks s.lowThread write false l else s).wait h
/-- Thread t's access is about to be performed at its home: outside the package its requests have been answered. -/
def State.atHome (s : State) (k : AccKind) (t : Nat) (h : Home) : State :=
  match h with
  | .mem va pa _ =>
    if paSpace pa == .hbm then s
    else
      let resp := if k.rmw then readBytes s.mem pa k.size else []
      match s.cur.agent with
      | .curator d => if k.write then s.numberFrom d pa resp else s
      | _ => s.takeAsks t k.write resp [(va, pa, k.size)]
  | _ => s

/-- The PA at which the crossbar refuses thread t's access (R117). -/
def State.refusedPa (s : State) (f : MForm) (k : AccKind) (t : Nat) : Nat :=
  let a := s.mOff f t
  if s.accRegion f = 0xFFFF then ((s.homePas (.priv a.toNat (t % 32)) k.size).find? fun pa => !s.cReaches pa).getD 0
  else match s.translate s.cVdev (s.accRegion f * 2 ^ 64 + a.toNat) k.write false with | .ok (pa, _) => pa | .error _ => 0

/-- The common frame of the per-thread accesses: precise traps, then XBAR as a precise trap, then each thread's access in ascending index (R117, R253, R260). -/
def State.access (s : State) (f : MForm) (k : AccKind) (act : State → Nat → Home → State × ThreadOut) : Out :=
  let ts := s.accThreads f
  match s.accBad f k ts with
  | some (c, bad) => s.addrTrap f k c bad
  | none =>
    let (hs, fs) := s.homes f k ts
    match fs.filter fun x => x.2 == .xbar with
    | (t, _) :: r =>
      let c := (s.team s.cTeam).core
      (s.xbarv (coreDie c) (corePort c) (s.refusedPa f k t)).addrTrap f k 0x28 (t :: r.map (·.1))
    | [] =>
      match s.homesWait k hs with
      | some h => .next (s.waitHomes k hs h)
      | none =>
      let (s, os) := hs.foldl (fun (a : State × List ThreadOut) th => let (s, o) := act (a.1.atHome k th.1 th.2) th.1 th.2; (s, a.2 ++ [o])) (s, [])
      s.accDone f os fs

/-- Own pending writes to what an access meets are performed first: to what a load reads, or to a poisoned sector that a partial write meets (R254, R309). -/
def State.afterOwn (s : State) (f : MForm) (k : AccKind) (go : State → Out) : Out :=
  let hit (t : Nat) : Bool := match s.homeRaw f k t with
    | .ok h => s.pendHits h k.size && (k.reads || (s.homePoison k h).isSome)
    | .error _ => false
  if (s.accThreads f).any hit then s.release go else go s

/-- The scope at which a form's accesses are ordered: system, where one translates to host or peer memory, and at least cluster, where one goes through a window (R248, R259). -/
def State.scopeOf (s : State) (f : MForm) (k : AccKind) : Scope :=
  if f.scope == .sy || f.scope == .rc then f.scope
  else if (s.homes f k (s.accThreads f)).1.any fun x => match x.2 with | .mem _ pa _ => paSpace pa != .hbm | _ => false then .sy
  else if (f.scope == .wp || f.scope == .tm) && k.space == .spad && (s.accThreads f).any fun t => natBit (s.mOff f t).toNat 22 then .cl else f.scope

/-- A form whose order releases: at .wp nothing is owed, since a warp's accesses meet its own writes; at .tm the earlier writes are published to the team; at wider scopes they are performed first, those outside the package having been answered with their units; at .rc they are durable (R307, R311, R319, R411). -/
def State.ordered (s : State) (order : Order) (scope : Scope) (go : State → Out) : Out :=
  match order with
  | .rlx | .acq => go s
  | _ =>
    if scope == .wp then go s else if scope == .tm then go s.publish else s.release fun s =>
    if scope == .rc && !s.durable s.cVdev then .next (s.wait .durable) else go s

/-- Element e of a form's data register (R258). -/
def elemSpec (sp : Spec) (df e : Nat) : Spec := { sp with idx := sp.idx + BitVec.ofNat 6 (e * dfStride sp df) }

/-- The outcome of several delivered elements of one thread. -/
def joinOuts (t : Nat) (os : List ThreadOut) : ThreadOut :=
  { thread := t, flg := os.foldl (fun g o => g.or o.flg) {}, satc := os.foldl (fun n o => n + o.satc) 0, unfc := os.foldl (fun n o => n + o.unfc) 0,
    trap := os.any (·.trap), ws := os.flatMap (·.ws) }

/-- The integer type of an integer DF. -/
def dfType (df : Nat) : IType := (IType.ofNat? (df % 128)).getD .i32

/-- One loaded element delivered (R262). -/
def loadElem (c : ClassB) (dst : Spec) (t df raw : Nat) : ThreadOut :=
  if 0x80 ≤ df then { thread := t, ws := wrReg dst t (dfType df).wide (intBits (dfType df) (intOf (dfType df) raw)) }
  else deliver1 dst t (roundClass c (decodeF df raw, {}))

/-- The elements of one thread's load (R258, R262). -/
def State.loadThread (s : State) (f : MForm) (t : Nat) (h : Home) : ThreadOut :=
  let df := f.df.toNat
  let z := dfSize df
  let bs := s.readHome h (z * nvCount f.nv)
  joinOuts t ((List.range (nvCount f.nv)).map fun e => loadElem (s.cls f.cls.toNat) (elemSpec f.dst df e) t df (fieldAt bs (e * z) z))

/-- One stored element's bytes and flags (R262): no range policy, no flush. -/
def storeElem (c : ClassB) (df : Nat) (x : W64) : Nat × Flg :=
  if 0x80 ≤ df then (x.toNat % 2 ^ (8 * dfSize df), {}) else convert false df (classRead c x.toNat)

/-- The bytes one thread stores, and their flags. -/
def State.storeBytes (s : State) (f : MForm) (t : Nat) : List Byte × Flg :=
  let df := f.df.toNat
  (List.range (nvCount f.nv)).foldl (fun r e =>
    let (n, g) := storeElem (s.cls f.cls.toNat) df (s.rdReg t (elemSpec f.c df e) (dfSize df == 8))
    (r.1 ++ leBytes (dfSize df) n, r.2.or g)) ([], {})

/-- The access kind of a data form (R260). -/
def memKind (f : MForm) (space : ASpace) (write : Bool) : AccKind :=
  let n := dfSize f.df.toNat * nvCount f.nv
  { space := space, size := n, elt := dfSize f.df.toNat, align := n, write := write, reads := !write, calendar := space == .gal }

/-- LD, LDS and LDG (R262, R264, R265). -/
def State.loadForm (s : State) (f : MForm) (space : ASpace) : Out :=
  let k := memKind f space false
  let go (s : State) : Out := s.afterOwn f k fun s => s.access f k fun s t h => (s.touch h false, s.loadThread f t h)
  if f.mu then s.inWarp go else go s

/-- ST and STS (R262, R264): threads write in ascending index (R260). -/
def State.storeForm (s : State) (f : MForm) (space : ASpace) : Out :=
  let k := memKind f space true
  let go (s : State) : Out := s.ordered f.order (s.scopeOf f k) fun s => s.afterOwn f k fun s =>
    s.access f k fun s t h => let b := s.storeBytes f t; (s.store h (dfSize f.df.toNat) b.1, { thread := t, flg := b.2 })
  if f.mu then s.inWarp go else go s

/-- LD (R262). -/
def execLd (f : MForm) (s : State) : Out := s.loadForm f .translated
/-- LDS (R264). -/
def execLds (f : MForm) (s : State) : Out := s.loadForm f .spad
/-- LDG (R265). -/
def execLdg (f : MForm) (s : State) : Out := s.loadForm f .gal
/-- ST (R262). -/
def execSt (f : MForm) (s : State) : Out := s.storeForm f .translated
/-- STS (R264). -/
def execSts (f : MForm) (s : State) : Out := s.storeForm f .spad

/-- GWIN's value at device time ns for offset g (R266). -/
def gwinVal (ns g : Nat) : Nat :=
  let grp := bits g 14 12
  let phi := (ns + 4000 * 500 - 500 * grp) % 4000
  let w := if phi < 256 then 256 - phi else 4000 - phi
  (if phi < 256 then 2 ^ 31 else 0) + bits g 30 29 * 2 ^ 24 + grp * 2 ^ 16 + w

/-- GWIN (R266): GALP is checked, alignment is not. -/
def execGwin (f : MForm) (s : State) : Out :=
  let k : AccKind := { space := .gal, size := 1, align := 1 }
  let go (s : State) : Out := s.access f k fun s t _ => (s, { thread := t, ws := wrReg f.dst t false (BitVec.ofNat 64 (gwinVal s.ns.toNat (s.mOff f t).toNat)) })
  if f.mu then s.inWarp go else go s

/-- PRF.fill (R267): no architectural effect and no fault. -/
def execPrfFill (_f : MForm) (s : State) : Out := s.finish []
/-- PRF.xlat (R267): no architectural effect and no fault. -/
def execPrfXlat (_f : MForm) (s : State) : Out := s.finish []

/-- CCTL.evict (R268, R420): the line's tagged sectors are journalled; a fault is dropped. -/
def execCctlEvict (f : MForm) (s : State) : Out :=
  let pas := (s.accThreads f).filterMap fun t =>
    match s.homeOf f { size := 32, elt := 32, align := 1, reads := false } t with | .ok (.mem _ pa _) => some (pa / 256 * 8) | _ => none
  let s := (pas.flatMap fun b => (List.range 8).map (b + ·)).foldl State.journalSector s
  s.finish []

/-- CCTL.zero (R268): eight 32-byte stores of zeros. -/
def execCctlZero (f : MForm) (s : State) : Out :=
  let k : AccKind := { size := 256, elt := 32, align := 256, write := true, reads := false }
  s.ordered f.order (s.scopeOf f k) fun s => s.access f k fun s t h => (s.store h 32 (List.replicate 256 0), { thread := t })

/-! Read-modify-writes (spec/15 R322 to R327; spec/14 R315). -/

/-- The access kind of a read-modify-write of z bytes. -/
def rmwKind (f : MForm) (z : Nat) : AccKind :=
  { space := if f.rs.toNat = 5 then .spad else .translated, size := z, elt := z, align := z, write := true, rmw := true, narrow := f.scope == .wp || f.scope == .tm }

/-- What a read-modify-write waits for: a page's snapshot and SNAPPOOL's room for it (R374). -/
def State.rmwReady (s : State) (hs : List (Nat × Home)) : Option (Hold × State) :=
  let ps := hs.filterMap fun x => match x.2 with | .mem va pa _ => some (va, pa) | _ => none
  (s.snapBlock s.cTask [] ps).map fun p => (.snap, s.snapFull s.cTask p.1 p.2)

/-- ATOM and ACAS: the warp's pending writes first, then each thread's operation in ascending index (R327). -/
def State.rmwForm (s : State) (f : MForm) (z : Nat) (act : State → Nat → Home → State × ThreadOut) : Out :=
  let k := rmwKind f z
  s.release fun s => s.ordered f.order (s.scopeOf f k) fun s =>
    match s.rmwReady (s.homes f k (s.accThreads f)).1 with
    | some (h, s) => .next (s.wait h)
    | none => s.access f k act

/-- ATOM (R323). -/
def execAtom (op : AtomOp) (f : MForm) (s : State) : Out :=
  let df := f.df.toNat
  let ty := dfType df
  let z := dfSize df
  s.rmwForm f z fun s t h =>
    let old := leNat (s.readHome h z)
    let c := (s.rdReg t f.c ty.wide).toNat % 2 ^ ty.width
    (s.rmwAt h (leBytes z (atomOp op ty.signed ty.width old c)), { thread := t, ws := wrReg f.dst t ty.wide (intBits ty (intOf ty old)) })

/-- ACAS (R324): no write when old differs. -/
def execAcas (f : MForm) (s : State) : Out :=
  let df := f.df.toNat
  let ty := dfType df
  let z := dfSize df
  s.rmwForm f z fun s t h =>
    let old := leNat (s.readHome h z)
    let e := (s.rdReg t f.dst ty.wide).toNat % 2 ^ ty.width
    let c := (s.rdReg t f.c ty.wide).toNat % 2 ^ ty.width
    let s' := if old = e then s.rmwAt h (leBytes z c) else s.rmwKeep h z
    (s', { thread := t, ws := wrReg f.dst t ty.wide (intBits ty (intOf ty old)) })

/-- A reduction: at its home later for device memory, at once elsewhere (R325, R326). op, df and cls as Pend keeps them. -/
def State.reduce (s : State) (h : Home) (op df cls z : Nat) (x : W64) : State :=
  match h with
  | .mem va pa _ =>
    let p := { s.pendWrite va pa (List.replicate z 0) with red := some (op, df, cls, x) }
    if paSpace pa == .hbm then { s.touch h true with pend := s.pend ++ [p] } else (s.touch h true).performWrite p
  | h =>
    let old := leNat (s.readHome h z)
    if 0x80 ≤ df then s.writeLocal h (leBytes z (atomOp (redAtom (redOfNat op)) (df % 2 == 0) (8 * z) old (x.toNat % 2 ^ (8 * z))))
    else
      let b := s.cls cls
      let r := fredOp (fredOfNat op) b old (classRead b x.toNat)
      (s.writeLocal h (leBytes z r.out)).count s.cTask cls r.satc r.unfc r.flg.breach

/-- RED (R325). -/
def execRed (op : RedOp) (f : MForm) (s : State) : Out :=
  let df := f.df.toNat
  let z := dfSize df
  s.ordered f.order (s.scopeOf f (rmwKind f z)) fun s => s.afterOwn f (rmwKind f z) fun s => s.access f (rmwKind f z) fun s t h =>
    (s.reduce h op.code df 0 z (s.rdReg t f.c (dfType df).wide), { thread := t })

/-- FRED (R326): a DF that names another format than the class's traps FRFMT at issue. -/
def execFred (op : FredOp) (f : MForm) (s : State) : Out :=
  let df := f.df.toNat
  let fm := (s.cls f.cls.toNat).fmt
  if df ≠ 0 ∧ df ≠ fm then s.trapT 0x19 df (s.active f.grd)
  else
    let z := fmtBits fm / 8
    s.ordered f.order (s.scopeOf f (rmwKind f z)) fun s => s.afterOwn f (rmwKind f z) fun s => s.access f (rmwKind f z) fun s t h =>
      (s.reduce h op.code 0 f.cls.toNat z (s.rdReg t f.c false), { thread := t })

end Sys2Proof.Machine
end

