-- ==== Sys2Proof/Machine/Rendezvous.lean ====
section
/-! DEFINITION. Arrivals at rendezvous points, from warps, copies and matrix batches (spec/15 R330, R332, R333), and the paths that events of a team wake from PAUSE (spec/18 R357). -/

namespace Sys2Proof.Machine

open Sys2Proof

/-- A path held by PAUSE is ready at an event of its team (R357). -/
def Hold.wake (h : Hold) : Hold := match h with | .pauseTill _ => .none | _ => h

/-- Every path of a team that PAUSE holds is ready (R357). -/
def State.wakePause (s : State) (k : Nat) : State :=
  s.modTeam k fun t => { t with warps := t.warps.map fun w =>
    (w.1, { w.2.modThreads threads32 (fun th => { th with held := th.held.wake }) with path := w.2.path.map fun p => (p.1, { p.2 with hold := p.2.hold.wake }) }) }

/-- An arrival counts: the point is initialised, and the warp, if one is given, has not arrived in the phase (R332). -/
def Rv.counts (r : Rv) (warp : Option Nat) : Bool := r.init && (match warp with | some w => !r.wmask.getLsbD w | none => true)

/-- ARRIVE (R332) of an arrival that adds `bytes` in byte mode and 1 in count mode. Completed phases are taken at once: COUNT is left below EXPECT. -/
def Rv.arrive (r : Rv) (bytes : Nat) (warp : Option Nat) : Rv :=
  let amount := if r.bytes then bytes else 1
  if !r.init then { r with orphan := true }
  else if !r.counts warp then r
  else
    let n := r.count.toNat + amount
    let flips := n / r.expect.toNat
    { r with count := BitVec.ofNat 32 (n % r.expect.toNat), phase := r.phase + BitVec.ofNat 32 flips,
             wmask := if flips = 0 then (match warp with | some w => r.wmask ||| 1#32 <<< w | none => r.wmask) else 0 }

/-- Arrivals applied one after another. -/
def Rv.arrivals (r : Rv) (l : List Arrival) : Rv := l.foldl (fun r a => r.arrive a.bytes a.warp) r

/-- An arrival takes its place among those of its cyc, after its equals (R332). -/
def placeArrival (a : Arrival) : List Arrival → List Arrival
  | [] => [a]
  | b :: r => if a.rank < b.rank then a :: b :: r else b :: placeArrival a r

/-- What has reached point n of a team in this cyc (R344). -/
def Team.rvNow (t : Team) (n cyc : Nat) : RvCyc :=
  let b := Cells.get {} t.rvCyc n
  if b.cyc = some cyc then b else { cyc := some cyc, was := t.rvAt n }

/-- The s registers that arrivals of one cyc write: each takes PHASE as it stands before its own arrival (R332). -/
def Rv.phases (r : Rv) : List Arrival → List (Nat × Nat × W32)
  | [] => []
  | a :: l => (match a.warp, a.dst with | some w, some i => [(w, i, r.phase)] | _, _ => []) ++ (r.arrive a.bytes a.warp).phases l

/-- The arrivals of a cyc applied at point n of team k; where an earlier one now follows, its PHASE and what it publishes follow too; a completed phase wakes PAUSE (R332, R344, R357). -/
def State.applyArrivals (s : State) (k n : Nat) (b : RvCyc) : State :=
  let r := (s.team k).rvAt n
  let r' := { b.was.arrivals b.arr with held := r.held }
  let s := s.modTeam k fun t => { t with rv := Cells.set {} t.rv n r', rvCyc := Cells.set {} t.rvCyc n b }
  let s := (b.was.phases b.arr).foldl (fun s x => s.modWarp k x.1 fun w => w.wr (.s x.2.1 (x.2.2.setWidth 64))) s
  let s := if b.arr.length ≤ 1 then s
    else { s with pend := s.pend.map fun p => if p.team == k && b.arr.any (fun a => a.warp == some p.warp) then { p with team_ := true } else p }
  if r'.phase = r.phase then s else s.wakePause k

/-- An arrival at point n of team k, in its place among those of the cyc (R332, R344). -/
def State.arriveAt (s : State) (k n : Nat) (a : Arrival) : State :=
  let b := (s.team k).rvNow n s.cyc
  s.applyArrivals k n { b with arr := placeArrival a b.arr }

/-- A phase target is satisfied (R333). -/
def Rv.satisfied (r : Rv) (p : W32) : Bool := let d := (r.phase - p).toNat; decide (1 ≤ d ∧ d < 2 ^ 31)

end Sys2Proof.Machine
end

