-- ==== Sys2Proof/Machine/Copy.lean ====
section
/-! DEFINITION. Copy engines and timelines: issue checks, numbers, chunks, multicast credits, TLW, TLQ and TLMK (spec/11 R270 to R281; spec/18 R360, R361). -/

namespace Sys2Proof.Machine

open Sys2Proof

/-! Issue (R270 to R272). -/

/-- Operations a counter has numbered that are not complete. -/
def Tl.open_ (c : Tl) : Nat := c.iss.toNat - c.done.toNat - c.early.length

/-- A scratchpad side as team and offset. -/
def State.sideSpad (s : State) (k : Nat) (x : Side) : Option (Nat × Nat) := s.spadOf k x.addr

/-- Spaces of a copy's sides, by its form: scratchpad or gallery where the selector is 5. -/
def CopyKind.galDst (k : CopyKind) : Bool := k == .cpygTo
/-- The source side is the gallery. -/
def CopyKind.galSrc (k : CopyKind) : Bool := k == .cpygFrom || k == .cpygLoad
/-- The destination side is scratchpad. -/
def Copy.spadDst (c : Copy) : Bool := c.dst.sel == 5 && !c.kind.galDst
/-- The source side is scratchpad. -/
def Copy.spadSrc (c : Copy) : Bool := c.src.sel == 5 && !c.kind.galSrc
/-- The destination side is translated. -/
def Copy.transDst (c : Copy) : Bool := c.dst.sel != 5
/-- The source side is translated. -/
def Copy.transSrc (c : Copy) : Bool := c.src.sel != 5

/-- A scratchpad side breaks R244, or its range passes the area. -/
def State.sideScrb (s : State) (k : Nat) (x : Side) (len : Nat) : Bool :=
  match s.sideSpad k x with | none => true | some (m, o) => decide ((s.team m).scrk * 1024 < o + len)

/-- A gallery side passes 2^31, or GALVD forbids a chunk of it (R249, R271). -/
def State.sideGalp (s : State) (v : Nat) (x : Side) (len : Nat) : Bool :=
  let a := x.addr.toNat
  decide (2 ^ 31 < a + max len 1) || !(List.range ((a % 2 ^ 26 + max len 1 + 2 ^ 26 - 1) / 2 ^ 26)).all fun i => s.galOk v (a / 2 ^ 26 * 2 ^ 26 + i * 2 ^ 26)

/-- The least scope code a copy needs (R271). -/
def Copy.needScope (c : Copy) : Nat :=
  if c.kind == .cpyxPut || c.kind == .cpyxGet then 4
  else if c.transDst || c.transSrc || c.kind.galDst || c.kind.galSrc then 3
  else if c.kind == .cpym || natBit c.dst.addr.toNat 22 || natBit c.src.addr.toNat 22 then 2 else 1

/-- Ranges of one space overlap. -/
def overlaps (a b n : Nat) : Bool := decide (a < b + n ∧ b < a + n)

/-- Both sides name one space and overlap (R271). -/
def State.sideOverlap (s : State) (k : Nat) (c : Copy) : Bool :=
  if c.transDst && c.transSrc then c.dst.region == c.src.region && overlaps c.dst.addr.toNat c.src.addr.toNat c.len
  else if c.spadDst && c.spadSrc then
    match s.sideSpad k c.dst, s.sideSpad k c.src with
    | some (m, o), some (m', o') => m == m' && overlaps o o' c.len
    | _, _ => false
  else false

/-- A translated side's region may be copied (R233; log 17). -/
def Side.regn (x : Side) : Bool := x.sel != 5 && decide (0xFF00 ≤ x.region.toNat)

/-- The first check that fails: the trap's cause and information (R271). -/
def State.copyBad (s : State) (c : Copy) : Option (Nat × W64) :=
  let t := s.ct
  let o := (t.tlAt c.tl).owner
  if o ≠ 1 ∧ o ≠ 2 then some (0x2F, 1)
  else if c.dst.regn then some (0x20, c.dst.addr)
  else if c.src.regn then some (0x20, c.src.addr)
  else if c.len % 4 ≠ 0 ∨ 2 ^ 30 < c.len then some (0x2F, 2)
  else if c.dst.addr.toNat % 4 ≠ 0 ∨ c.src.addr.toNat % 4 ≠ 0 then some (0x2F, 3)
  else if c.spadDst && s.sideScrb s.cTeam c.dst c.len then some (0x21, c.dst.addr)
  else if c.spadSrc && s.sideScrb s.cTeam c.src c.len then some (0x21, c.src.addr)
  else if c.kind.galDst && s.sideGalp s.cVdev c.dst c.len then some (0x24, c.dst.addr)
  else if c.kind.galSrc && s.sideGalp s.cVdev c.src c.len then some (0x24, c.src.addr)
  else if c.kind == .cpym && (c.mask == 0 || decide (2 ^ t.tpg ≤ c.mask.toNat) || decide (s.cLaunch.adm.kernel.nrv ≤ c.rv) || natBit c.dst.addr.toNat 22) then some (0x2F, 4)
  else if (t.tlAt c.tl).scope < c.needScope then some (0x2F, 5)
  else if s.sideOverlap s.cTeam c then some (0x2F, 6)
  else none

/-- A side of a copy form: an operand register, a selector. -/
def State.sideOf (s : State) (x : Spec) (sel : BitVec 3) : Side :=
  { sel := sel.toNat, region := if sel.toNat = 5 then 0 else BitVec.ofNat 64 (s.regionOf sel.toNat), addr := s.rdReg s.lowThread x true }

/-- The copy a form asks for (R270). -/
def State.copyOf (s : State) (kind : CopyKind) (f : KForm) : Copy :=
  { kind := kind, tl := f.tli.toNat, dst := s.sideOf f.a f.rsd, src := s.sideOf f.b f.rss, len := (s.rdReg s.lowThread f.c true).toNat,
    mask := if kind == .cpym then f.imm.setWidth 4 else 0, rv := if kind == .cpym then f.opx.toNat else 0 }

/-- A marker, or a copy of length 0, which completes when everything below it has (R272, R279). -/
def Copy.marks (c : Copy) : Bool := c.kind == .marker || c.len == 0

/-- A number of a counter is complete, and so are the markers and empty copies that only waited for the numbers below them (R272, R279). -/
def State.markers (s : State) (k n : Nat) : Nat → State
  | 0 => s
  | fuel + 1 =>
    let t := s.team k
    match t.copies.find? fun c => c.marks && c.tl == n && decide (c.num ≤ (t.tlAt n).done.toNat + 1) && (c.scope != 5 || s.durable t.vdev) with
    | none => s
    | some c => ((s.modTeam k fun t => { t with copies := t.copies.filter fun x => !(x.tl == n && x.num == c.num) }).tlDone k n c.num).markers k n fuel

/-- An operation of a counter is complete. -/
def State.opDone (s : State) (k n num : Nat) : State :=
  let s := s.tlDone k n num
  s.markers k n (s.team k).copies.length

/-- A copy has completed every chunk. -/
def State.copyEnd (s : State) (k : Nat) (c : Copy) : State :=
  (s.modTeam k fun t => { t with copies := t.copies.filter fun x => !(x.tl == c.tl && x.num == c.num) }).opDone k c.tl c.num

/-- Issue of a copy: checks, room, then its number; issue is a release at the counter's scope (R271, R272, R274). -/
def State.copyForm (s : State) (kind : CopyKind) (f : KForm) : Out :=
  s.once f.grd fun s =>
    let c := s.copyOf kind f
    let act := s.active f.grd
    match s.copyBad c with
    | some (cause, info) => .next (s.trapWith cause info (if cause = 0x20 then (if c.dst.regn then c.dst.region else c.src.region) else 0) (maskOf act))
    | none =>
      let x := s.ct.tlAt c.tl
      if 16 ≤ x.open_ then .next (s.wait (.copyRoom c.tl))
      else
        s.release fun s =>
          let c := { c with num := (x.iss + 1).toNat }
          let s := s.modTeam s.cTeam fun t => { t with tl := Cells.set {} t.tl c.tl { x with iss := x.iss + 1 }, copies := t.copies ++ [c] }
          (if c.len = 0 then s.markers s.cTeam c.tl s.ct.copies.length else s).finish []

/-- CPY (R273). -/
def execCpy (f : KForm) (s : State) : Out := s.copyForm .cpy f
/-- CPYM (R276). -/
def execCpym (f : KForm) (s : State) : Out := s.copyForm .cpym f
/-- CPYG.from (R273). -/
def execCpygFrom (f : KForm) (s : State) : Out := s.copyForm .cpygFrom f
/-- CPYG.to (R273). -/
def execCpygTo (f : KForm) (s : State) : Out := s.copyForm .cpygTo f
/-- CPYG.load (R273). -/
def execCpygLoad (f : KForm) (s : State) : Out := s.copyForm .cpygLoad f
/-- CPYX.put (R273). -/
def execCpyxPut (f : KForm) (s : State) : Out := s.copyForm .cpyxPut f
/-- CPYX.get (R273). -/
def execCpyxGet (f : KForm) (s : State) : Out := s.copyForm .cpyxGet f

/-! Chunks (R273, R275, R276). -/

/-- Chunks of a copy. -/
def Copy.nChunks (c : Copy) : Nat := (c.len + 2047) / 2048
/-- The lowest chunk neither complete nor sent. -/
def Copy.nextChunk (c : Copy) : Nat := ((List.range (c.chunks.length + c.sent.length + 1)).find? fun j => !c.chunks.contains j && !c.sent.contains j).getD 0
/-- Bytes of chunk j. -/
def Copy.chunkLen (c : Copy) (j : Nat) : Nat := min 2048 (c.len - 2048 * j)

/-- A space a side of this form may reach (R273). -/
def CopyKind.spaceOk (k : CopyKind) (dst : Bool) (p : PaSpace) : Bool :=
  match k, dst with
  | .cpyxPut, true | .cpyxGet, false => p == .host || p == .peer
  | _, _ => p == .hbm

/-- One segment of a translated side: its PA, or its fault and the VA that met it (R273, R253, R254, R50). -/
def State.copySeg (s : State) (k : Nat) (c : Copy) (dst : Bool) (va n : Nat) : Except (MFault × Nat) (Nat × State) :=
  let t := s.team k
  match s.translate t.vdev va dst false with
  | .error e => .error (e, va)
  | .ok (pa, pte) =>
    if dst && s.readOnly t.vdev va n then .error (.tfro, va)
    else if !c.kind.spaceOk dst (paSpace pa) then .error (.cpysp, va)
    else
      match (List.range ((pa % 256 + n + 255) / 256)).find? fun i => !s.reaches (coreDie t.core) (corePort t.core) (pa / 256 * 256 + 256 * i) with
      | some i => .error (.xbar, va + (256 * i - pa % 256))
      | none =>
        match s.poisonHit pa n dst with
        | some q => .error (.poison (32 * q) false, va + (32 * q - pa))
        | none => .ok (pa, s.markFrom (coreDie t.core) pte dst)

/-- The segments of a chunk's translated side: {VA, PA, length}. -/
def State.copySegs (s : State) (k : Nat) (c : Copy) (dst : Bool) : List (Nat × Nat) → Except (MFault × Nat) (List (Nat × Nat × Nat) × State)
  | [] => .ok ([], s)
  | (va, n) :: r =>
    match s.copySeg k c dst va n with
    | .error e => .error e
    | .ok (pa, s) => match s.copySegs k c dst r with | .error e => .error e | .ok (l, s) => .ok ((va, pa, n) :: l, s)

/-- A side's range in a chunk, in 64 KiB pages. -/
def sideSegs (x : Side) (off n : Nat) : List (Nat × Nat) := pageCuts (x.region.toNat * 2 ^ 64 + x.addr.toNat + off) n
where
  /-- At most two pages, as a chunk is at most 2 KiB. -/
  pageCuts (va n : Nat) : List (Nat × Nat) :=
    let a := 65536 - va % 65536
    if n ≤ a then [(va, n)] else [(va, a), (va + a, n - a)]

/-- The bytes a chunk reads with the segments they come from, or its fault. -/
def State.chunkRead (s : State) (k : Nat) (c : Copy) (j : Nat) : Except (MFault × Nat) (List Byte × List (Nat × Nat × Nat) × State) :=
  let n := c.chunkLen j
  let off := 2048 * j
  if c.kind.galSrc then .ok (readBytes s.gallery (c.src.addr.toNat + off) n, [], s)
  else if c.src.sel = 5 then
    match s.sideSpad k c.src with
    | some (m, o) => .ok (readBytes (s.team m).spad (o + off) n, [], s)
    | none => .ok (List.replicate n 0, [], s)
  else
    match s.copySegs k c false (sideSegs c.src off n) with
    | .error e => .error e
    | .ok (l, s) => .ok (l.flatMap fun x => readBytes s.mem x.2.1 x.2.2, l, s)

/-- Bytes written to the segments of a translated destination; a write at another die or a peer is numbered (R406). -/
def State.copyOut (s : State) (p : Pend) : List (Nat × Nat × Nat) → List Byte → State
  | [], _ => s
  | (_, pa, n) :: r, bs => ((s.numberReq p.core pa []).performBytes p.vdev p.task pa (bs.take n)).copyOut p r (bs.drop n)

/-- The requests of a chunk at the CXL port, one for each of its segments in host memory (R411). -/
def State.copySend (s : State) (p : Pend) (copy : Nat × Nat × Nat) (l : List (Nat × Nat × Nat)) : State :=
  (l.filter fun x => paSpace x.2.1 == .host).foldl (fun s x =>
    { s with cxl := s.cxl ++ [{ id := s.cxlNext, pend := { p with va := x.1, pa := x.2.1 }, copy := some copy }], cxlNext := s.cxlNext + 1 }) s

/-- The first and the last gallery offset that a chunk reads: a chunk spans at most two bank groups (R250, R273). -/
def Copy.galReads (c : Copy) (off n : Nat) : List Nat := if c.kind.galSrc then [c.src.addr.toNat + off, c.src.addr.toNat + off + n - 1] else []

/-- A chunk of a copy cannot be performed yet: a mapping of what it touches changes, or a gallery group is in refresh (R240, R250). -/
def State.chunkHeld (s : State) (c : Copy) (off n : Nat) (segs : List (Nat × Nat × Nat)) : Bool :=
  segs.any (fun x => s.chunkBusy x.2.1) || (c.galReads off n).any (fun g => inRefresh s.ns.toNat (bits g 14 12))
/-- The CXL port has no room for a chunk's segments (R411). -/
def State.portFull (s : State) (segs : List (Nat × Nat × Nat)) : Bool := segs.any (fun x => paSpace x.2.1 == .host) && decide (1024 < s.cxl.length + segs.length)

/-- Teams a CPYM writes (R276). -/
def State.receivers (s : State) (k : Nat) (c : Copy) : List Nat :=
  let t := s.team k
  (List.range 4).filterMap fun p => if c.mask.getLsbD p then s.teamAt t.task t.gang p else none

/-- What performing a chunk gives: done, a request of the CXL port (a write of host memory, or a read there whose answer the chunk awaits), a wait, a fault, or a page that SNAPPOOL has no room for. -/
inductive ChunkRes
  | done (s : State)
  | sent (s : State)
  | held
  | fault (f : MFault) (va : Nat)
  | snap (va pa : Nat)
  deriving DecidableEq, Repr

/-- A chunk's writes performed, and its credits (R274 to R276, R249); a read of host memory is first a request, unless it is answered (R411). -/
def State.chunk (s : State) (k : Nat) (c : Copy) (j : Nat) (answered : Bool) : ChunkRes :=
  let t := s.team k
  let off := 2048 * j
  let p : Pend := { task := t.task, team := k, num := t.num, core := t.core, warp := t.wpt, vdev := t.vdev }
  match s.chunkRead k c j with
  | .error (f, va) => .fault f va
  | .ok (bs, src, s1) =>
    if s.chunkHeld c off bs.length src then .held
    else if !answered && src.any fun x => paSpace x.2.1 == .host then
      (if s.portFull src then .held else .sent (s1.copySend p (c.tl, c.num, j) src))
    else if c.kind.galDst then
      let g := c.dst.addr.toNat + off
      if (s.die (bits g 30 29)).galOpen && (s.die (bits (g + bs.length - 1) 30 29)).galOpen then .done { s1 with gallery := writeBytes s1.gallery g bs } else .fault .galw g
    else if c.kind == .cpym then
      .done ((s.receivers k c).foldl (fun s m => (s.modTeam m fun x => { x with spad := writeBytes x.spad (c.dst.addr.toNat % 2 ^ 20 + off) bs }).arriveAt m c.rv { rank := 1 + j, bytes := bs.length }) s1)
    else if c.dst.sel = 5 then
      match s.sideSpad k c.dst with
      | some (m, o) => .done (s1.modTeam m fun x => { x with spad := writeBytes x.spad (o + off) bs })
      | none => .done s1
    else
      match s1.copySegs k c true (sideSegs c.dst off bs.length) with
      | .error (f, va) => .fault f va
      | .ok (l, s2) =>
        if s.chunkHeld c off bs.length l || s.portFull l then .held
        else match s.snapBlock t.task [] (l.map fun x => (x.1, x.2.1)) with
        | some (va, pa) => .snap va pa
        | none =>
          let s3 := s2.copyOut p l bs
          if l.any fun x => paSpace x.2.1 == .host then .sent (s3.copySend p (c.tl, c.num, j) l) else .done s3

/-- A copy's fault stops its chunks and requests a slot; XBAR posts XBARV (R275, R253, R117). -/
def State.copyStop (s : State) (k : Nat) (c : Copy) (f : MFault) (va : Nat) : State :=
  let t := s.team k
  let d := coreDie t.core
  let s := if f = .xbar then s.xbarv d (corePort t.core) (match s.translate t.vdev va false false with | .ok (pa, _) => pa | .error _ => 0) else s
  let slot : FSlot := { used := true, by_ := .copy k c.num c.tl, kind := f.kind, va := va, pa := (match f with | .poison a _ => a | _ => 0),
                        walk := (match f with | .poison _ w => w | _ => false), cause := f.cause }
  (s.modDie d fun x => { x with faultQ := x.faultQ ++ [slot] }).modTeam k fun t => { t with
    copies := t.copies.map fun x => if x.tl = c.tl ∧ x.num = c.num then { x with stopped := true, fault := some (d, 1024) } else x }

/-- A copy of a team by counter and number. -/
def Team.copyAt (t : Team) (tl num : Nat) : Option Copy := t.copies.find? fun c => c.tl == tl && c.num == num

/-- A copy of a team changed. -/
def State.modCopy (s : State) (k : Nat) (c : Copy) (f : Copy → Copy) : State :=
  s.modTeam k fun t => { t with copies := t.copies.map fun x => if x.tl = c.tl ∧ x.num = c.num then f x else x }

/-- Chunk j of a copy is complete, and the copy with its last (R275). -/
def State.chunkDone (s : State) (k : Nat) (c : Copy) (j : Nat) : State :=
  let c' := { c with chunks := c.chunks ++ [j], sent := c.sent.filter (· != j) }
  let s := s.modCopy k c fun _ => c'
  if c'.nChunks ≤ c'.chunks.length then s.copyEnd k c' else s

/-- A placed team's record has not been read yet: the read met a fault (R360). -/
def State.restoring (s : State) (k : Nat) : Bool := s.dies.any fun d => d.2.fslots.any (fun x => x.2.by_ == .restore k) || d.2.faultQ.any fun x => x.by_ == .restore k
/-- A team of the gang is saved, or its record still to be read, while this one stands on its core: none of them issues or sends before it has returned (R244, R345). -/
def State.peersAway (s : State) (k : Nat) : Bool :=
  s.teams.any fun c => (c.2.st == .saved || s.restoring c.1) && c.2.task == (s.team k).task && c.2.gang == (s.team k).gang

/-- A copy chunk is performed, or a marker that can complete does; at most four chunks are in flight (R275, R279). -/
def State.copyStep (s : State) (k num tl : Nat) : State :=
  match (s.team k).copyAt tl num with
  | none => s
  | some c =>
    if ((s.team k).st ≠ .resident ∧ (s.team k).st ≠ .ended) ∨ s.peersAway k then s
    else if c.marks then s.markers k tl (s.team k).copies.length
    else if c.stopped || c.nChunks ≤ c.nextChunk || 4 ≤ c.sent.length then s
    else
      let j := c.nextChunk
      match s.chunk k c j false with
      | .fault f va => s.copyStop k c f va
      | .snap va pa => s.snapFull (s.team k).task va pa
      | .held => s
      | .sent s => s.modCopy k c fun x => { x with sent := x.sent ++ [j] }
      | .done s => s.chunkDone k c j

/-- Every request of chunk j has its CXL completion: a write is complete, a read is performed (R275, R411). -/
def State.chunkBack (s : State) (k : Nat) (c : Copy) (j : Nat) : State :=
  if c.kind != .cpyxGet then s.chunkDone k c j
  else
    let c := { c with sent := c.sent.filter (· != j) }
    let s := s.modCopy k c fun _ => c
    match s.chunk k c j true with
    | .done s => s.chunkDone k c j
    | .fault f va => if c.stopped then s else s.copyStop k c f va
    | .snap va pa => s.snapFull (s.team k).task va pa
    | .held | .sent _ => s

/-- A request of a copy chunk has its CXL completion: the chunk goes on with its last (R275, R411). -/
def State.sentDone (s : State) (q : CxlReq) : State :=
  match q.copy with
  | none => s
  | some (tl, num, j) =>
    match (s.team q.pend.team).copyAt tl num with
    | none => s
    | some c => if !c.sent.contains j || s.cxl.any (fun r => r.copy == q.copy && r.pend.team == q.pend.team) then s else s.chunkBack q.pend.team c j

/-- A request of a copy chunk ends with a completer abort: the chunk is not complete and the copy stops with XBAR (R275, R411). -/
def State.sentAbort (s : State) (q : CxlReq) : State :=
  match q.copy with
  | none => s
  | some (tl, num, j) =>
    match (s.team q.pend.team).copyAt tl num with
    | none => s
    | some c =>
      if !c.sent.contains j then s
      else
        let s := s.modCopy q.pend.team c fun x => { x with sent := x.sent.filter (· != j) }
        if c.stopped then s else s.copyStop q.pend.team c .xbar q.pend.va

/-- COPY_CHUNK_DONE (R275). -/
def execCopyChunkDone (team num ctx : Nat) (s : State) : Out := .next (s.copyStep team num ctx)

/-- Under ACT 1 a copy is abandoned: DONE passes its number, and CPYFLT is pending with its cause (R361). -/
def State.copyAbandon (s : State) (k num tl cause : Nat) : State :=
  match (s.team k).copyAt tl num with
  | none => s
  | some c => (s.modTl k tl fun x => { x with cpyflt := x.cpyflt ++ [(num, cause)] }).copyEnd k c

/-! Timelines (R277 to R280). -/

/-- A counter that is used, else TLUSE (R280). -/
def State.withTl (s : State) (f : SForm) (k : Nat → Tl → State → Out) : Out :=
  s.once f.grd fun s =>
    let n := f.a.idx.toNat
    let c := s.ct.tlAt n
    if c.owner = 0 then s.pathTrap f 0x32 n else k n c s

/-- TLW (R277, R361): a path that waits keeps the number it read at its issue. -/
def execTlw (f : SForm) (s : State) : Out :=
  s.withTl f fun i c s =>
    let read := if f.bi then c.iss.toNat - f.imm.toNat else (s.sB f).toNat
    let n := match s.cp.hold with | .tl j n => if j = i then n else read | _ => read
    if c.owner ≤ 3 ∧ c.iss.toNat < n then s.pathTrap f 0x31 i
    else if c.done.toNat < n then .next (s.wait (.tl i n))
    else
      match c.cpyflt.find? fun x => decide (x.1 ≤ n) with
      | some (num, cause) =>
        .next ((s.modTl s.cTeam i fun c => { c with cpyflt := c.cpyflt.filter fun x => x.1 != num }).trapWith 0x33 (BitVec.ofNat 64 num) (BitVec.ofNat 64 cause) (maskOf (s.active f.grd)))
      | none => s.finish []

/-- TLQ.done (R278). -/
def execTlqDone (f : SForm) (s : State) : Out := s.withTl f fun _ c s => s.finish (sDst f.dst c.done)
/-- TLQ.iss (R278). -/
def execTlqIss (f : SForm) (s : State) : Out := s.withTl f fun _ c s => s.finish (sDst f.dst c.iss)

/-- A scope's code (R46). -/
def Scope.code : Scope → Nat | .wp => 0 | .tm => 1 | .cl => 2 | .dv => 3 | .sy => 4 | .rc => 5

/-- TLMK (R279, R280): the path's earlier writes are performed first. -/
def execTlmk (f : SForm) (s : State) : Out :=
  s.withTl f fun n c s =>
    if f.scope.code < c.scope then s.illop
    else if 16 ≤ c.open_ then .next (s.wait (.copyRoom n))
    else
      s.release fun s =>
        let m := c.iss + 1
        let s := s.modTeam s.cTeam fun t => { t with tl := Cells.set {} t.tl n { c with iss := m }, copies := t.copies ++ [{ kind := .marker, tl := n, num := m.toNat, scope := f.scope.code }] }
        (s.markers s.cTeam n (s.ct.copies.length)).finish (sDst f.dst m)

end Sys2Proof.Machine
end

