-- ==== Sys2Proof/Machine/Matrix.lean ====
section
/-! DEFINITION. The matrix engine: issue checks, batches, grants, conversions, passes, drains and tile images (spec/12; spec/03 R65 to R72; spec/04 R90, R91). -/

namespace Sys2Proof.Machine

open Sys2Proof

/-! Issue. -/

/-- Flag bits of the status word (R299). -/
def MxStatus.set (m : MxStatus) (bit : Nat) : MxStatus := { m with flags := m.flags ||| 1#32 <<< bit }

/-- Operand a, b or c of a class X form, as 64 bits. -/
def State.xR (s : State) (x : Spec) : Nat := (s.rdReg s.lowThread x true).toNat

/-- TA suits the line's kind: handler lines name ha tiles, ordinary lines a tiles; moves says MSVH or MRSH (R301). -/
def taOk (f : XForm) (handler moves : Bool) : Bool := if handler then moves || decide (8 ≤ f.ta.toNat) else decide (f.ta.toNat < 8)

/-- A form that names a tile: TA is checked whatever the guard (R127); a0 to a7 of a team whose handler runs wait (R301). -/
def State.withTile (s : State) (f : XForm) (moves : Bool) (k : State → Out) : Out :=
  if !taOk f s.cur.handler moves then s.illop
  else s.once f.grd fun s =>
    if !s.cur.handler && s.ct.warps.any (fun w => w.2.handler.isSome) then .next (s.wait .noHandler)
    else k s

/-- A trap of a matrix form: TINFO is TA (R347). -/
def State.mxTrap (s : State) (f : XForm) (cause : Nat) : Out := s.trap cause f.ta.toNat (s.active f.grd)

/-- The open batch of a tile. -/
def Team.openBatch (t : Team) (tile : Nat) : Option Batch := t.batch.find? fun b => b.tile == tile && b.isOpen
/-- A tile has an open or incomplete batch. -/
def Team.busy (t : Team) (tile : Nat) : Bool := t.batch.any fun b => b.tile == tile
/-- A tile is HELD (R285). -/
def Team.holds (t : Team) (tile : Nat) : Bool := (t.tileAt tile).held.isSome

/-- One scratchpad range of a form: address, bytes, whether it lies on a 32-byte boundary by rule, whether it may not be a window. -/
structure MxAddr where
  a : Nat := 0
  n : Nat := 0
  aligned : Bool := true
  deriving DecidableEq, Repr

/-- SCRB, SPALN and MXADR of a form's addresses: cause and TINFO (R290 order 4). -/
def State.mxAddrBad (s : State) (f : XForm) (l : List MxAddr) : Option (Nat × Nat) :=
  match l.find? fun x => s.sideScrb s.cTeam { sel := 5, addr := BitVec.ofNat 64 x.a } x.n with
  | some x => some (0x21, x.a)
  | none =>
    match l.find? fun x => x.aligned && x.a % 32 != 0 with
    | some x => some (0x22, x.a)
    | none => if l.any fun x => natBit x.a 22 then some (0x3B, f.ta.toNat) else none

/-- Operations issued and not complete, of a team. -/
def Team.nOps (t : Team) : Nat := t.batch.foldl (fun n b => n + b.ops.length) 0
/-- Teams on a cluster. -/
def State.clusterTeams (s : State) (m : Nat) : List Nat := s.teamKeys.filter fun k => let t := s.team k; (t.st == .resident || t.st == .ended) && coreClus t.core == m
/-- The reservation table has room for one more operation of the issuing team (R286). -/
def State.mxRoom (s : State) (k : Nat) : Bool :=
  decide ((s.clusterTeams (coreClus (s.team k).core)).foldl (fun n k => n + (s.team k).nOps) 0 < 32) && decide ((s.team k).nOps < 16)

/-- An operation enters the open batch of its tile (R286); its issue is a release (R303, R314). -/
def State.mxIssue (s : State) (f : XForm) (orient : Option Nat) (o : MxOp) : Out :=
  if !s.mxRoom s.cTeam then .next (s.wait .mxRoom)
  else s.release fun s =>
    let n := f.ta.toNat
    (s.modTeam s.cTeam fun t => { t with
      batch := t.batch.map fun b => if b.tile = n ∧ b.isOpen then { b with ops := b.ops ++ [{ o with since := s.cyc }] } else b,
      tiles := match orient with | some x => Cells.modify {} t.tiles n fun l => { l with issue := x } | none => t.tiles }).finish []

/-- A batch operation's checks: reserved bits of its word (R305), then orders 1 and 2 of R290. -/
def State.mxBatch (s : State) (f : XForm) (word : State → Bool) (k : State → Out) : Out :=
  s.withTile f false fun s =>
    if !word s then s.illop
    else if !s.ct.holds f.ta.toNat then s.mxTrap f 0x38
    else if (s.ct.openBatch f.ta.toNat).isNone then s.mxTrap f 0x39
    else k s

/-- MZRO (R296). -/
def execMzro (f : XForm) (s : State) : Out := s.mxBatch f (fun _ => true) fun s => s.mxIssue f (some 0) { kind := .zro }

/-- A conversion word has no other bit set (R292, R305). -/
def convOk (w : Nat) : Bool := bits w 31 23 == 0 && decide (w < 2 ^ 44)
/-- V of a conversion word. -/
def convV (w : Nat) : Nat := bits w 22 0
/-- NBLK of a conversion word. -/
def convN (w : Nat) : Nat := bits w 43 32 + 1

/-- MEAS (R292). -/
def execMeas (f : XForm) (s : State) : Out :=
  s.mxBatch f (fun s => convOk (s.xR f.c)) fun s =>
    let w := s.xR f.c
    let src := s.xR f.b
    match s.mxAddrBad f [{ a := src, n := 256 * convN w * dfSize f.imm.toNat, aligned := false }, { a := convV w, n := 2 * convN w }] with
    | some (c, i) => s.trap c i (s.active f.grd)
    | none =>
      if src % 4 ≠ 0 then s.mxTrap f 0x3E
      else s.mxIssue f none { kind := .meas, cls := f.cls.toNat, b := BitVec.ofNat 64 src, c := BitVec.ofNat 64 w, imm := f.imm.toNat, tag := f.tb.toNat }

/-- MCVT: the destination header is written at issue (R293). -/
def execMcvt (f : XForm) (s : State) : Out :=
  s.mxBatch f (fun s => convOk (s.xR f.c)) fun s =>
    let w := s.xR f.c
    let src := s.xR f.b
    let dst := s.xR f.a
    let c := s.cls f.cls.toNat
    match s.mxAddrBad f [{ a := src, n := 256 * convN w * dfSize f.imm.toNat, aligned := false }, { a := dst, n := 32 + 32 * c.npl * convN w },
                         { a := convV w, n := (if c.scheme = 2 then 4 else 2) * convN w }] with
    | some (x, i) => s.trap x i (s.active f.grd)
    | none =>
      if src % 4 ≠ 0 then s.mxTrap f 0x3E
      else if !s.mxRoom s.cTeam then .next (s.wait .mxRoom)
      else s.release fun s =>
        let hdr := leBytes 1 (0x10 + c.npl) ++ leBytes 1 f.tb.toNat ++ leBytes 2 (convN w) ++ List.replicate 28 0
        let s := s.modTeam s.cTeam fun t => { t with spad := writeBytes t.spad (dst % 2 ^ 20) hdr }
        s.mxIssue f none { kind := .cvt, cls := f.cls.toNat, a := BitVec.ofNat 64 dst, b := BitVec.ofNat 64 src, c := BitVec.ofNat 64 w, imm := f.imm.toNat, tag := f.tb.toNat }

/-! Headers (R66, R290). -/

/-- A tile header: FMT, DTAG and NBLK, or PTHDR's breach of R66. -/
def header (bs : List Byte) : Option (Nat × Nat × Nat) :=
  let fm := fieldAt bs 0 1
  let tag := fieldAt bs 1 1
  let nb := fieldAt bs 2 2
  if 0x12 ≤ fm ∧ fm ≤ 0x20 ∧ tag < 16 ∧ 1 ≤ nb ∧ nb ≤ 4096 ∧ zeroAt bs 4 28 then some (fm, tag, nb) else none

/-- The team at a position of the issuing gang. -/
def State.quarterTeam (s : State) (pos : Nat) : Nat := (s.teamAt s.ct.task s.ct.gang pos).getD s.cTeam

/-- A team's gang, apart from every other launch's (R287). -/
def State.gangKey (s : State) (k : Nat) : Nat := 2 ^ 24 * (s.handleOf (s.team k).task).toNat + (s.team k).gang

/-- The checks of MLDB's four headers: a trap's cause, or the common DTAG (R290 order 6, R294). -/
def State.quarters (s : State) (off npl : Nat) : Nat ⊕ Nat :=
  let hs := (List.range 4).map fun q => header (readBytes (s.team (s.quarterTeam q)).spad off 32)
  if hs.any Option.isNone then .inl 0x3C
  else
    let l := hs.filterMap id
    match l with
    | (fm, tag, _) :: _ => if l.all fun x => x.1 == 0x10 + npl && x.1 == fm && x.2.1 == tag && x.2.2 == 128 then .inr tag else .inl 0x3D
    | [] => .inl 0x3C

/-- MLDB (R294): no tile, no batch. -/
def execMldb (f : XForm) (s : State) : Out :=
  s.once f.grd fun s =>
    let off := s.xR f.a
    let voff := s.xR f.b
    let npl := (s.cls f.cls.toNat).npl
    match s.mxAddrBad f [{ a := off, n := 32 + 4096 * npl }, { a := voff, n := 256 }] with
    | some (c, i) => s.trap c i (s.active f.grd)
    | none =>
      if s.ct.tpg < 4 then s.mxTrap f 0x3F
      else
        match s.quarters off npl with
        | .inl c => s.mxTrap f c
        | .inr tag =>
          let d : StatDesc := { set := true, gang := s.gangKey s.cTeam, off := BitVec.ofNat 64 off, voff := BitVec.ofNat 64 voff, cls := f.cls.toNat, dtag := tag }
          (s.modTeam s.cTeam fun t => { t with sd := Cells.set {} t.sd f.tb.toNat d }).finish []

/-- A pass word has no other bit set (R295). -/
def passOk (w : Nat) : Bool := bits w 7 6 == 0 && decide (w < 2 ^ 20)

/-- MMA and MMAT at issue (R290, R295): orient is 1 N or 2 T. -/
def State.pass (s : State) (f : XForm) (kind : MxKind) (orient : Nat) : Out :=
  s.withTile f false fun s =>
    let n := f.ta.toNat
    let w := s.xR f.c
    let ca := s.clsFor f.cls.toNat 0
    let cb := s.clsFor f.cls.toNat 1
    let npl := (s.cls ca).npl
    let d := Cells.get {} s.ct.sd f.tb.toNat
    let r := f.imm.toNat + 1
    let a := s.xR f.a
    let v := s.xR f.b
    if !passOk w then s.illop
    else if !s.ct.holds n || !d.set then s.mxTrap f 0x38
    else if (s.ct.openBatch n).isNone then s.mxTrap f 0x39
    else
      match s.mxAddrBad f [{ a := a, n := 32 + 32 * npl * (bits w 19 8 + r) }, { a := v, n := 2 * (bits w 19 8 + r) }] with
      | some (c, i) => s.trap c i (s.active f.grd)
      | none =>
        match header (readBytes s.ct.spad (a % 2 ^ 20) 32) with
        | none => s.mxTrap f 0x3C
        | some (fm, tag, nb) =>
          if fm ≠ 0x10 + npl then s.mxTrap f 0x3D
          else if 64 < bits w 5 0 + r ∨ nb < bits w 19 8 + r then s.mxTrap f 0x3E
          else if (s.ct.tileAt n).issue ≠ 0 ∧ (s.ct.tileAt n).issue ≠ orient then s.mxTrap f 0x40
          else s.mxIssue f (some orient) { kind := kind, cls := f.cls.toNat, ca := ca, cb := cb, a := BitVec.ofNat 64 a, b := BitVec.ofNat 64 v, c := BitVec.ofNat 64 w, imm := r, desc := d, dtag := tag }

/-- MMA (R295). -/
def execMma (f : XForm) (s : State) : Out := s.pass f .mma 1
/-- MMAT (R295). -/
def execMmat (f : XForm) (s : State) : Out := s.pass f .mmat 2

/-- A drain word has no other bit set (R297). -/
def drainOk (w : Nat) : Bool := bits w 15 6 == 0 && decide (w < 2 ^ 32)

/-- Element size of a drain's class (R297). -/
def drainSize (c : ClassB) : Nat := if c.fmt = 0x02 ∨ c.fmt = 0x03 then 2 else 4

/-- MDRN (R297): LD and the range are checked by the orientation that the tile has at issue (log 20). -/
def execMdrn (f : XForm) (s : State) : Out :=
  s.mxBatch f (fun s => drainOk (s.xR f.b)) fun s =>
    let w := s.xR f.b
    let d := s.xR f.a
    let r := f.imm.toNat + 1
    let ld := bits w 31 16
    let c := s.cls f.cls.toNat
    let z := drainSize c
    let o := (s.ct.tileAt f.ta.toNat).issue
    match s.mxAddrBad f [{ a := d, n := if o = 2 then (511 * ld + r) * z else ((r - 1) * ld + 512) * z, aligned := false }] with
    | some (x, i) => s.trap x i (s.active f.grd)
    | none =>
      if 64 < bits w 5 0 + r ∨ d % z ≠ 0 ∨ ld < (if o = 2 then r else 512) then s.mxTrap f 0x3E
      else s.mxIssue f none { kind := .drn, cls := f.cls.toNat, ca := s.clsFor f.cls.toNat 0, a := BitVec.ofNat 64 d, b := BitVec.ofNat 64 w,
                              c := if f.x20 then BitVec.ofNat 64 (s.xR f.c) else 0, bs := f.x20, imm := r }

/-! Batch control and status (R298 to R300). -/

/-- MBAT.open (R290, R298). -/
def execMbatOpen (f : XForm) (s : State) : Out :=
  s.withTile f false fun s =>
    let n := f.ta.toNat
    let rv := f.a.idx.toNat
    let c := s.ct.tlAt f.tb.toNat
    if !s.ct.holds n then s.mxTrap f 0x38
    else if (s.ct.openBatch n).isSome ∨ (s.ct.batchOf rv).isSome then s.mxTrap f 0x3A
    else if f.x20 ∧ c.owner = 0 then s.trap 0x32 f.tb.toNat (s.active f.grd)
    else if s.cLaunch.adm.kernel.nrv ≤ rv ∨ (f.x20 ∧ (c.owner ≠ 3 ∨ c.scope < 1)) then s.mxTrap f 0x3E
    else s.release fun s =>
      let num := c.iss + 1
      let b : Batch := { tile := n, rv := rv, prio := f.imm.toNat % 4, tln := f.x20, tl := f.tb.toNat, num := if f.x20 then num.toNat else 0 }
      let phys := (s.ct.tileAt n).held.getD 0
      let s := s.modEngine (coreClus s.ct.core) fun e => { e with tiles := Cells.modify {} e.tiles phys fun t => { t with terms := [] } }
      (s.modTeam s.cTeam fun t => { t with
        batch := t.batch ++ [b], stat := Cells.erase t.stat rv, rangeCls := Cells.erase t.rangeCls rv,
        rv := Cells.modify {} t.rv rv fun r => { r with held := true },
        tl := if f.x20 then Cells.set {} t.tl f.tb.toNat { c with iss := num } else t.tl }).finish []

/-- MBAT.close (R298): a tile without an open batch is MXNOB (log 21). -/
def execMbatClose (f : XForm) (s : State) : Out :=
  s.withTile f false fun s =>
    let n := f.ta.toNat
    if !s.ct.holds n then s.mxTrap f 0x38
    else if (s.ct.openBatch n).isNone then s.mxTrap f 0x39
    else (s.modTeam s.cTeam fun t => { t with batch := t.batch.map fun b => if b.tile = n then { b with isOpen := false } else b }).finish []

/-- Bytes of a status word (R299). -/
def MxStatus.bytes (m : MxStatus) : List Byte :=
  leBytes 4 m.flags.toNat ++ leBytes 4 m.nanc.toNat ++ leBytes 4 m.satc.toNat ++ leBytes 4 m.unfc.toNat ++ leBytes 4 m.npass.toNat ++ leBytes 4 m.nskip.toNat ++ leBytes 8 m.batch.toNat

/-- MSTA (R300): a breach is delivered once. -/
def execMsta (word : BitVec 2) (f : XForm) (s : State) : Out :=
  s.once f.grd fun s =>
    let rv := f.a.idx.toNat
    let m := s.ct.statAt rv
    if s.cLaunch.adm.kernel.nrv ≤ rv then s.mxTrap f 0x3E
    else if m.flags.getLsbD 4 && !m.flags.getLsbD 7 then
      .next ((s.modTeam s.cTeam fun t => { t with stat := Cells.set {} t.stat rv (m.set 7) }).trapWith 0x18
        (BitVec.ofNat 64 (Cells.get 0 s.ct.rangeCls rv)) m.batch (maskOf (s.active f.grd)))
    else s.finish (sDst f.dst (BitVec.ofNat 64 (fieldAt m.bytes (8 * word.toNat) 8)))

/-! Allocation (R291). -/

/-- Logical tiles a mask names in an ordinary or handler line. -/
def maskTiles (handler : Bool) (m : Nat) : List Nat :=
  if handler then ((List.range 2).filter (natBit m)).map (· + 8) else (List.range 8).filter (natBit m)

/-- Free physical tiles of a cluster. -/
def State.freeTiles (s : State) (m : Nat) : List Nat := (List.range 8).filter fun p => (Cells.get {} (s.engine m).tiles p).owner.isNone

/-- A MALC ticket is still held by a waiting path or a restored team of the cluster. -/
def State.malcLive (s : State) (m ticket : Nat) : Bool := (s.clusterTeams m).any fun k => (s.team k).tickets.contains ticket

/-- Live MALC tickets of a cluster, in issue order. -/
def State.malcLine (s : State) (m : Nat) : List Nat := (s.engine m).malcWait.filter (s.malcLive m)

/-- Physical tiles are bound to logical ones of a team in one step, cleared (R285). -/
def State.bindTiles (s : State) (k : Nat) (l : List Nat) : State :=
  let m := coreClus (s.team k).core
  let ps := (s.freeTiles m).zip l
  let s := s.modEngine m fun e => { e with tiles := ps.foldl (fun ts x => Cells.set {} ts x.1 { owner := some (k, x.2) }) e.tiles }
  s.modTeam k fun t => { t with tiles := ps.foldl (fun ts x => Cells.set {} ts x.2 { held := some x.1 }) t.tiles }

/-- The issuing path's MALC ticket. -/
def State.malcTicket (s : State) : Option Nat := match s.cp.hold with | .malc t _ => some t | _ => none

/-- The issuing path waits for n tiles in issue order. -/
def State.malcWait (s : State) (n : Nat) : State :=
  match s.malcTicket with
  | some t => s.wait (.malc t n)
  | none =>
    let m := coreClus s.ct.core
    let t := (s.engine m).malcNext
    (s.modEngine m fun e => { e with malcWait := e.malcWait ++ [t], malcNext := t + 1 }).wait (.malc t n)

/-- A ticket that has been served leaves the line. -/
def State.malcServed (s : State) (m : Nat) (t : Option Nat) : State :=
  match t with | some t => s.modEngine m fun e => { e with malcWait := e.malcWait.filter (· != t) } | none => s

/-- The issuing path is next for n tiles of its cluster. -/
def State.malcReady (s : State) (n : Nat) : Bool :=
  let m := coreClus s.ct.core
  decide (n ≤ (s.freeTiles m).length) && (match s.malcLine m with | [] => true | x :: _ => s.malcTicket == some x)

/-- A tile mask suits the line's kind: a handler line's names ha0 and ha1 alone (R291, R305). -/
def tileMaskOk (f : XForm) (handler : Bool) : Bool := !handler || decide (f.imm.toNat < 4)

/-- MALC's checks: the mask, whatever the guard (R127), then MXHELD and MXARG (R291). -/
def State.malc (s : State) (f : XForm) (k : List Nat → State → Out) : Out :=
  if !tileMaskOk f s.cur.handler then s.illop
  else s.once f.grd fun s =>
    let m := f.imm.toNat
    let l := maskTiles s.cur.handler m
    if !s.cur.handler && s.ct.warps.any (fun w => w.2.handler.isSome) then .next (s.wait .noHandler)
    else if !s.cur.handler && (List.range 8).any s.ct.holds then s.mxTrap f 0x41
    else if m = 0 ∨ l.any s.ct.holds then s.mxTrap f 0x3E
    else k l s

/-- MALC.wait (R291). -/
def execMalcWait (f : XForm) (s : State) : Out :=
  s.malc f fun l s =>
    if s.malcReady l.length then ((s.malcServed (coreClus s.ct.core) s.malcTicket).bindTiles s.cTeam l).finish []
    else .next (s.malcWait l.length)

/-- MALC.try (R291). -/
def execMalcTry (f : XForm) (s : State) : Out :=
  s.malc f fun l s =>
    let m := coreClus s.ct.core
    if decide (l.length ≤ (s.freeTiles m).length) && (s.malcLine m).isEmpty then (s.bindTiles s.cTeam l).finish (wrPred f.dst 0 true)
    else s.finish (wrPred f.dst 0 false)

/-- A logical tile becomes UNBOUND and its physical tile free. -/
def State.freeTile (s : State) (k tile : Nat) (l : LTile) : State :=
  let s := match (s.team k |>.tileAt tile).held with
    | some p => s.modEngine (coreClus (s.team k).core) fun e => { e with tiles := Cells.erase e.tiles p }
    | none => s
  s.modTeam k fun t => { t with tiles := Cells.set {} t.tiles tile l }

/-- MFRE (R291): an unbound tile of the mask is passed over (log 22). -/
def execMfre (f : XForm) (s : State) : Out :=
  if !tileMaskOk f s.cur.handler then s.illop
  else s.once f.grd fun s =>
    let l := maskTiles s.cur.handler f.imm.toNat
    if !s.cur.handler && s.ct.warps.any (fun w => w.2.handler.isSome) then .next (s.wait .noHandler)
    else if l.any s.ct.busy then s.mxTrap f 0x3A
    else (l.foldl (fun s n => s.freeTile s.cTeam n {}) s).finish []

/-! Tile images (R70, R302). -/

/-- An integer as n bytes of two's complement. -/
def intBytes (n : Nat) (x : Int) : List Byte := leBytes n (x % 2 ^ (8 * n)).toNat
/-- n bits of two's complement. -/
def intFrom (n x : Nat) : Int := if x % 2 ^ n < 2 ^ (n - 1) then (x % 2 ^ n : Nat) else ((x % 2 ^ n : Nat) : Int) - 2 ^ n

/-- A row's image (R70). -/
def Row.image (r : Row) : List Byte :=
  ((List.range 512).flatMap fun j => intBytes 10 (Cells.get 0 r.i j)) ++
  ((List.range 256).map fun j => BitVec.ofNat 8 (Cells.get 0 r.mark (2 * j) + 16 * Cells.get 0 r.mark (2 * j + 1))) ++
  leBytes 2 (32768 * b2n r.set + (r.x % 1024).toNat) ++ List.replicate 62 0

/-- A tile's image with its trailer (R302). -/
def Tile.image (t : Tile) : List Byte :=
  ((List.range 64).flatMap fun r => (Cells.get {} t.rows r).image) ++
  ((List.range 64).flatMap fun r => intBytes 16 (Cells.get 0 t.check r)) ++ leBytes 1 t.orient ++ List.replicate 63 0

/-- Bytes of a tile image. -/
def tileBytes : Nat := 349248

/-- A row read back, or none where a mark is above 5 or a reserved bit is set. -/
def rowFrom (bs : List Byte) : Option Row :=
  let marks := (List.range 512).map fun j => if j % 2 = 0 then fieldAt bs (5120 + j / 2) 1 % 16 else fieldAt bs (5120 + j / 2) 1 / 16
  let w := fieldAt bs 5376 2
  if marks.any (fun m => decide (5 < m)) || bits w 14 10 != 0 || !zeroAt bs 5378 62 then none
  else some {
    i := (List.range 512).foldl (fun m j => Cells.set 0 m j (intFrom 80 (fieldAt bs (10 * j) 10))) [],
    mark := (List.range 512).foldl (fun m j => Cells.set 0 m j (marks.getD j 0)) [],
    x := intFrom 10 w, set := natBit w 15 }

/-- A tile read back, or none for MXIMG (R302). -/
def tileFrom (bs : List Byte) : Option Tile :=
  let rows := (List.range 64).map fun r => rowFrom ((bs.drop (5440 * r)).take 5440)
  let o := fieldAt bs (348160 + 1024) 1
  if rows.any Option.isNone || decide (2 < o) || !zeroAt bs (348160 + 1025) 63 then none
  else some {
    rows := (List.range 64).foldl (fun m r => Cells.set {} m r ((rows.getD r none).getD {})) [],
    check := (List.range 64).foldl (fun m r => Cells.set 0 m r (intFrom 96 (fieldAt bs (348160 + 16 * r) 16))) [],
    orient := o }

/-- Physical tile of a team's logical tile. -/
def State.tileOf (s : State) (k n : Nat) : Tile :=
  match (s.team k |>.tileAt n).held with | some p => Cells.get {} (s.engine (coreClus (s.team k).core)).tiles p | none => {}
/-- Physical tile of a team's logical tile changed. -/
def State.modTile (s : State) (k n : Nat) (f : Tile → Tile) : State :=
  match (s.team k |>.tileAt n).held with
  | some p => s.modEngine (coreClus (s.team k).core) fun e => { e with tiles := Cells.modify {} e.tiles p f }
  | none => s

/-- An operation that names a tile has been granted and is not complete. -/
def Team.granted (t : Team) (tile : Nat) : Bool := t.batch.any fun b => b.tile == tile && b.ops.any (·.granted)

/-- MSVH and MRSH before their transfer: a tile not busy in ordinary code, its granted operation complete, an aligned address outside the reserved regions, the warp's earlier writes performed (R290, R302, R233, R312). -/
def State.withImage (s : State) (f : XForm) (evictedOk : Bool) (k : Nat → State → Out) : Out :=
  s.withTile f true fun s =>
    let n := f.ta.toNat
    let l := s.ct.tileAt n
    let a := s.xR f.a
    let r := s.regionOf 0
    if l.held.isNone && !(evictedOk && l.evicted) then s.mxTrap f 0x38
    else if !s.cur.handler && s.ct.busy n then s.mxTrap f 0x3A
    else if a % 64 ≠ 0 then s.mxTrap f 0x3E
    else if 0xFF00 ≤ r then .next (s.trapWith 0x20 (BitVec.ofNat 64 a) (BitVec.ofNat 64 r) (maskOf (s.active f.grd)))
    else if s.ct.granted n then .next (s.wait (.tileIdle [n]))
    else s.release fun s => k (r * 2 ^ 64 + a) s

/-- The segments of an image with every check of a thread's access (R302, R253): a fault stops the whole form. -/
def State.imageSegs (s : State) (write : Bool) : List (Nat × Nat) → Except (MFault × Nat) (List (Nat × Nat × Nat) × State)
  | [] => .ok ([], s)
  | (va, n) :: r =>
    match s.translate s.cVdev va write false with
    | .error e => .error (e, va)
    | .ok (pa, pte) =>
      if write && s.readOnly s.cVdev va n then .error (.tfro, va)
      else
        match (List.range ((pa % 256 + n + 255) / 256)).find? fun i => !s.reaches (coreDie s.ct.core) (corePort s.ct.core) (pa / 256 * 256 + 256 * i) with
        | some i => .error (.xbar, va + (256 * i - pa % 256))
        | none =>
          match s.poisonHit pa n write with
          | some q => .error (.poison (32 * q) false, va + (32 * q - pa))
          | none => match (s.cMark pte write).imageSegs write r with | .error e => .error e | .ok (l, s) => .ok ((va, pa, n) :: l, s)

/-- A fault of MSVH or MRSH: XBAR is precise, the others take a slot. -/
def State.imageFault (s : State) (f : XForm) (e : MFault × Nat) : Out :=
  let act := s.active f.grd
  if e.1 = .xbar then
    let pa := match s.translate s.cVdev e.2 false false with | .ok (pa, _) => pa | .error _ => 0
    .next ((s.xbarv (coreDie s.ct.core) (corePort s.ct.core) pa).trapWith 0x28 (BitVec.ofNat 64 e.2) (BitVec.ofNat 64 (e.2 / 2 ^ 64)) (maskOf act))
  else .next (s.takeFault e.1 e.2 (maskOf act))

/-- What an image's segments make MSVH and MRSH wait for: a mapping that changes, or answers from outside the package (R240, R411, R414). -/
def State.imageWait (s : State) (l : List (Nat × Nat × Nat)) : Option Hold :=
  match l.find? fun x => s.chunkBusy x.2.1 with
  | some x => some (.chunk (paDie x.2.1) (paChunk x.2.1))
  | none => s.rangesWait l

/-- An image's bytes written to its segments; a write at another die is numbered (R406). -/
def State.imageOut (s : State) (l : List (Nat × Nat × Nat)) (bs : List Byte) : State :=
  match l with
  | [] => s
  | (_, pa, n) :: r => State.imageOut ((if paSpace pa == .hbm then s.numberReq s.ct.core pa [] else s).performBytes s.cVdev s.cTask pa (bs.take n)) r (bs.drop n)

/-- MSVH: the whole image is written; ev then frees the physical tile (R302). -/
def State.msvh (s : State) (f : XForm) (evict : Bool) : Out :=
  s.withImage f false fun va s =>
    match s.imageSegs true (pageSegs 8 va tileBytes) with
    | .error e => s.imageFault f e
    | .ok (l, s) =>
      match s.imageWait l with
      | some h => .next (s.waitRanges true l h)
      | none =>
      match s.snapBlock s.cTask [] (l.map fun x => (x.1, x.2.1)) with
      | some x => .next ((s.snapFull s.cTask x.1 x.2).wait .snap)
      | none =>
        let t := s.tileOf s.cTeam f.ta.toNat
        let s := (s.takeAsks s.lowThread true [] l).imageOut l t.image
        (if evict then s.freeTile s.cTeam f.ta.toNat { evicted := true, image := BitVec.ofNat 64 va, issue := (s.ct.tileAt f.ta.toNat).issue, terms := t.terms } else s).finish []

/-- MSVH.copy (R302). -/
def execMsvhCopy (f : XForm) (s : State) : Out := s.msvh f false
/-- MSVH.ev (R302). -/
def execMsvhEv (f : XForm) (s : State) : Out := s.msvh f true

/-- MRSH (R302): a bad image is MXIMG; an EVICTED tile first binds a physical one, in the line of MALC.wait, and its term counts stand as they were. -/
def execMrsh (f : XForm) (s : State) : Out :=
  s.withImage f true fun va s =>
    let n := f.ta.toNat
    match s.imageSegs false (pageSegs 8 va tileBytes) with
    | .error e => s.imageFault f e
    | .ok (l, s) =>
      match s.imageWait l with
      | some h => .next (s.waitRanges false l h)
      | none =>
      let s := s.takeAsks s.lowThread false [] l
      match tileFrom (l.flatMap fun x => readBytes s.mem x.2.1 x.2.2) with
      | none => s.mxTrap f 0x42
      | some img =>
        let put (s : State) : Out :=
          let s := s.modTile s.cTeam n fun t => { t with rows := img.rows, check := img.check, orient := img.orient }
          (s.modTeam s.cTeam fun t => { t with tiles := Cells.modify {} t.tiles n fun l => { l with issue := img.orient } }).finish []
        if (s.ct.tileAt n).held.isSome then put s
        else if s.malcReady 1 then
          let ts := (s.ct.tileAt n).terms
          put (((s.malcServed (coreClus s.ct.core) s.malcTicket).bindTiles s.cTeam [n]).modTile s.cTeam n fun t => { t with terms := ts })
        else .next (s.malcWait 1)

/-! Grants (R287). -/

/-- The unit of an operation (R282). -/
def MxKind.unit : MxKind → MxUnit
  | .mma | .mmat => .array | .meas | .cvt => .conversion | .zro | .drn => .tile

/-- A batch is frozen: its tile is an a tile, and a warp of its team runs a handler (R301). -/
def Team.frozen (t : Team) (b : Batch) : Bool := decide (b.tile < 8) && t.warps.any fun w => w.2.handler.isSome

/-- Candidates of a unit: {team, rv, tile, priority, operation}. -/
def State.candidates (s : State) (m : Nat) (u : MxUnit) : List (Nat × Nat × Nat × Nat × MxOp) :=
  (s.clusterTeams m).flatMap fun k => (s.team k).batch.filterMap fun b =>
    match b.ops with
    | o :: _ => if o.kind.unit = u ∧ !o.granted ∧ !(s.team k).frozen b then some (k, b.rv, b.tile, b.prio, o) else none
    | [] => none

/-- The candidate with the largest WAIT, then lowest core position, then lowest TA. -/
def State.longest (s : State) (l : List (Nat × Nat × Nat × Nat × MxOp)) : Option (Nat × Nat × Nat × Nat × MxOp) :=
  let before (x y : Nat × Nat × Nat × Nat × MxOp) : Bool :=
    let wx := s.cyc - x.2.2.2.2.since
    let wy := s.cyc - y.2.2.2.2.since
    let cx := (s.team x.1).core
    let cy := (s.team y.1).core
    decide (wy < wx) || (wx == wy && (decide (cx < cy) || (cx == cy && decide (x.2.2.1 < y.2.2.1))))
  l.foldl (fun b x => match b with | none => some x | some y => if before x y then some x else some y) none

/-- Two descriptors are equal (R287). -/
def StatDesc.same (a b : StatDesc) : Bool := a.set && b.set && a.gang == b.gang && a.off == b.off && a.voff == b.voff && a.cls == b.cls

/-- The grant rule (R287). -/
def State.grantChoice (s : State) (m : Nat) (u : MxUnit) : Option (Nat × Nat × Nat × Nat × MxOp) :=
  let c := s.candidates m u
  let old := c.filter fun x => decide (4096 ≤ s.cyc - x.2.2.2.2.since)
  if !old.isEmpty then s.longest old
  else
    let p := c.foldl (fun p x => min p x.2.2.2.1) 4
    let c := c.filter fun x => x.2.2.2.1 == p
    let e := s.engine m
    let f := if u = .array then c.filter fun x => x.2.2.2.2.desc.same e.heldOp else []
    if f.isEmpty then s.longest c else s.longest f

/-- A unit may grant: idle, or the array with no next pass (R287). -/
def State.unitFree (s : State) (m : Nat) : MxUnit → Bool
  | .array => let e := s.engine m; e.array.isNone || e.arrayNext.isNone
  | .conversion => (s.engine m).conv.isNone
  | .tile => (s.engine m).tileU.isNone

/-- The bytes of a stationary operand's quarters (R283). -/
def State.loadQuarters (s : State) (k : Nat) (d : StatDesc) : List (List Byte × List Byte) :=
  let t := s.team k
  let n := ((s.task t.task).launch.clsAt d.cls).npl
  (List.range 4).map fun q =>
    let x := s.team ((s.teamAt t.task t.gang q).getD k)
    (readBytes x.spad d.off.toNat (32 + 4096 * n), readBytes x.spad d.voff.toNat 256)

/-- MATRIX_GRANT (R287): a fused pass reuses the array's operand, another loads its own into the shadow, or into the idle array. -/
def execMatrixGrant (cluster : Nat) (unit : MxUnit) (s : State) : Out :=
  if !s.unitFree cluster unit then .next s
  else
    match s.grantChoice cluster unit with
    | none => .next s
    | some (k, rv, _, _, o) =>
      let s := s.modTeam k fun t => t.modBatch rv fun b => { b with ops := match b.ops with | o :: r => { o with granted := true } :: r | [] => [] }
      let e := s.engine cluster
      .next <| s.modEngine cluster fun x =>
        match unit with
        | .conversion => { x with conv := some (k, rv) }
        | .tile => { x with tileU := some (k, rv) }
        | .array =>
          let q := if o.desc.same e.heldOp then e.heldQ else s.loadQuarters k o.desc
          if e.array.isNone then { x with array := some (k, rv), heldOp := o.desc, heldQ := q }
          else { x with arrayNext := some (k, rv), shadow := o.desc, shadowQ := q }

/-! Performing an operation. -/

/-- Element i of a block of n planes (R65). -/
def planeElem (bs : List Byte) (n i : Nat) : Int :=
  intFrom n ((List.range n).foldl (fun x j => x + 2 ^ j * b2n (natBit (fieldAt bs (32 * j + i / 8) 1) (i % 8))) 0)

/-- A block's elements. -/
def planeBlock (bs : List Byte) (n k : Nat) : List Int := let b := (bs.drop (32 + 32 * n * k)).take (32 * n); (List.range 256).map (planeElem b n)

/-- The planes of 256 elements (R65). -/
def planeBytes (n : Nat) (q : List Int) : List Byte :=
  (List.range n).flatMap fun j => (List.range 32).map fun y =>
    BitVec.ofNat 8 ((List.range 8).foldl (fun x i => x + 2 ^ i * b2n (natBit (q.getD (8 * y + i) 0 % 2 ^ n).toNat j)) 0)

/-- A scale word's cause when it marks its block, 0 otherwise (R67). -/
def scaleCause (w : Nat) : Nat := let c := bits w 11 8; if c = 1 ∨ c = 2 then c else if c ≠ 0 ∨ w % 256 = 255 then 2 else 0

/-- 256 source elements of block b (R292). -/
def State.sourceBlock (s : State) (k src fmt b : Nat) : List RVal :=
  let z := dfSize fmt
  let bs := readBytes (s.team k).spad (src + 256 * b * z) (256 * z)
  (List.range 256).map fun i => decodeF fmt (fieldAt bs (i * z) z)

/-- A block after the range check: values, breaches (R292, R293). -/
def rangeBlock (c : ClassB) (xs : List RVal) : List RVal × Nat := (xs.map fun x => if breaches c x then satVal c x.sign else x, (xs.filter (breaches c)).length)

/-- E8 of a block's own maximum (R68). -/
def blockE8 (m : Nat) (xs : List RVal) : Nat :=
  match xs.foldl (fun a x => let y := x.withSign false; if cmpVal a y < 0 then y else a) (.fin false 0 1) with | .fin _ n d => measuredE8 n d m | _ => 254

/-- An operation's outcome: bytes it writes, counts, and whether a breach under policy trap stopped it. -/
structure MxOut where
  writes : List (Nat × List Byte) := []
  satc : Nat := 0
  unfc : Nat := 0
  nanc : Nat := 0
  breach : Bool := false
  stop : Bool := false
  deriving DecidableEq, Repr

/-- MEAS's block b (R292). -/
def State.measBlock (s : State) (k : Nat) (o : MxOp) (c : ClassB) (r : MxOut) (b : Nat) : MxOut :=
  if r.stop then r
  else
    let xs := s.sourceBlock k o.b.toNat o.imm b
    let at_ := convV o.c.toNat + 2 * b
    if xs.any RVal.isNan then { r with writes := r.writes ++ [(at_, leBytes 2 (o.tag * 4096 + 0x1FF))] }
    else
      let (ys, n) := rangeBlock c xs
      if c.rpol = 2 ∧ 0 < n then { r with stop := true }
      else { r with writes := r.writes ++ [(at_, leBytes 2 (o.tag * 4096 + blockE8 (c.npl - 1) ys))] }

/-- A block's words before MCVT: the scale word that marks or scales it, E8, and whether E8 was supplied (R293, R90). -/
def State.cvtScale (s : State) (k : Nat) (o : MxOp) (c : ClassB) (b : Nat) (ys : List RVal) : Nat × Bool × Bool :=
  let sp := (s.team k).spad
  let v := convV o.c.toNat
  match c.scheme with
  | 2 => let w := readLe sp (v + 2 * convN o.c.toNat + 2 * b) 2; if w = 0xFFFF then (blockE8 (c.npl - 1) ys, false, false) else (w % 256, true, false)
  | 3 => (((127 + c.fix) % 256).toNat, true, false)
  | _ => let w := readLe sp (v + 2 * b) 2; (w % 256, false, scaleCause w != 0)

/-- MCVT's block b (R293, R68). An element that breaches RANGE, is replaced by SATV and is then cut by a supplied scale's clamp counts in SATC for each (DESIGN CHOICE, log 107). -/
def State.cvtBlock (s : State) (k : Nat) (o : MxOp) (c : ClassB) (r : MxOut) (b : Nat) : MxOut :=
  let m := c.npl - 1
  let xs := s.sourceBlock k o.b.toNat o.imm b
  let (ys, n) := rangeBlock c xs
  let v := convV o.c.toNat
  let out := o.a.toNat + 32 + 32 * c.npl * b
  let zero := (out, List.replicate (32 * c.npl) (0 : Byte))
  let (e8, given, marked) := s.cvtScale k o c b ys
  if marked then { r with writes := r.writes ++ [zero] }
  else if xs.any RVal.isNan then { r with writes := r.writes ++ [zero, (v + 2 * b, leBytes 2 (o.tag * 4096 + 0x1FF))] }
  else
    let qs := ys.map (quantise e8 m)
    let word := if c.scheme = 2 ∨ c.scheme = 3 then [(v + 2 * b, leBytes 2 (o.tag * 4096 + e8))] else []
    let carry := if c.scheme = 2 then [(v + 2 * convN o.c.toNat + 2 * b, leBytes 2 (blockE8 m ys))] else []
    { r with
      writes := r.writes ++ (out, planeBytes c.npl (qs.map (·.1))) :: word ++ carry,
      satc := r.satc + n + (if given then (qs.filter fun q => !q.2.1).length else 0),
      unfc := r.unfc + (qs.filter fun q => q.2.2.1).length,
      breach := r.breach || decide (0 < n) }

/-- A row absorbs a pass (R71): the row, whether bits were lost, saturations. ex says which elements are excluded. -/
def alignAdd (row : Row) (c : List Int) (y : List Int) (ex : List Bool) : Row × Bool × Nat :=
  let ys := (y.zip ex).filterMap fun x => if x.2 then none else some x.1
  let e := match ys with
    | [] => if row.set then row.x else 0
    | a :: r => let m := r.foldl min a; if row.set then min m row.x else m
  let t := (List.range 512).map fun j =>
    (if ex.getD j false then 0 else c.getD j 0 * 2 ^ (y.getD j 0 - e).toNat) + (if row.set then Cells.get 0 row.i j * 2 ^ (row.x - e).toNat else 0)
  let rne (x : Int) (k : Nat) : Int := let q := rneDiv x.natAbs (2 ^ k); if x < 0 then -(q : Int) else q
  let fits (k : Nat) : Bool := t.all fun x => decide (-(2 ^ 79) ≤ rne x k ∧ rne x k ≤ 2 ^ 79 - 1)
  let big := t.foldl (fun n x => max n (Nat.log2 x.natAbs + 1)) 0
  let k := ((List.range' (big - 80) 4).find? fits).getD (big - 78)
  let i := t.map fun x => rne x k
  let lost := (t.zip i).any fun x => x.1 != x.2 * 2 ^ k
  let x := e + k
  let sat : List Int := if 511 < x then i.map fun v => if v < 0 then -(2 ^ 79 - 1) else if v = 0 then 0 else 2 ^ 79 - 1 else i
  ({ row with i := (List.range 512).foldl (fun m j => Cells.set 0 m j (sat.getD j 0)) [], x := min x 511, set := true }, lost,
   if 511 < x then ((i.zip sat).filter fun v => v.1 != v.2).length else 0)

/-- A mark of an element: the smaller cause wins (R71). -/
def markWith (old new : Nat) : Nat := if new = 0 then old else if old = 0 then new else min old new

/-- The stationary operand of a pass: columns and their scale words. -/
def statColumns (q : List (List Byte × List Byte)) (n : Nat) : List (List Int × Nat) :=
  q.flatMap fun x => (List.range 128).map fun j => (planeBlock x.1 n j, fieldAt x.2 (2 * j) 2)

/-- Σ of products. -/
def dot (a b : List Int) : Int := (a.zip b).foldl (fun s x => s + x.1 * x.2) 0

/-- One row of a pass (R295): the tile, whether bits were lost, saturations, whether L passed NMAX. -/
def passRow (cols : List (List Int × Nat)) (nmax : Nat) (qa : List Int) (sa : Nat) (t : Tile) (r : Nat) : Tile × Bool × Nat × Bool :=
  let raw := cols.map fun c => dot qa c.1
  let causes := cols.map fun c => let a := scaleCause sa; let b := scaleCause c.2; if a = 0 then b else if b = 0 then a else min a b
  let c := (raw.zip causes).map fun x => if x.2 = 0 then x.1 else 0
  let y := cols.map fun c => ((sa % 256 : Nat) : Int) + ((c.2 % 256 : Nat) : Int) - 254
  let k := ((raw.zip cols).filterMap fun x => if scaleCause x.2.2 = 0 then some x.1 else none).foldl (· + ·) 0
  let (row, lost, sat) := alignAdd (Cells.get {} t.rows r) c y (causes.map (· != 0))
  let row := { row with mark := (List.range 512).foldl (fun m j => Cells.set 0 m j (markWith (Cells.get 0 m j) (causes.getD j 0))) row.mark }
  let l := Cells.get 0 t.terms r + 256
  ({ t with rows := Cells.set {} t.rows r row, check := Cells.modify 0 t.check r fun e => e + k - c.foldl (· + ·) 0, terms := Cells.set 0 t.terms r l }, lost, sat,
   nmax != 0 && decide (nmax < l))

/-- A status word with counts added (R299). -/
def MxStatus.add (m : MxStatus) (r : MxOut) : MxStatus := { m with nanc := satAdd32 m.nanc r.nanc, satc := satAdd32 m.satc r.satc, unfc := satAdd32 m.unfc r.unfc }

/-- A batch's status changed. -/
def State.modStatus (s : State) (k rv : Nat) (f : MxStatus → MxStatus) : State := s.modTeam k fun t => t.modBatch rv fun b => { b with status := f b.status }

/-- A breach under policy trap stops the batch (R293, R297, R299). -/
def State.mxStop (s : State) (k rv cls : Nat) : State :=
  (s.modStatus k rv fun m => m.set 4).modTeam k fun t => { (t.modBatch rv fun b => { b with stopped := true }) with rangeCls := Cells.set 0 t.rangeCls rv cls }

/-- The writes of an operation to its team's scratchpad. -/
def State.mxWrite (s : State) (k : Nat) (l : List (Nat × List Byte)) : State :=
  s.modTeam k fun t => { t with spad := l.foldl (fun m x => writeBytes m (x.1 % 2 ^ 20) x.2) t.spad }

/-- MEAS performed (R292). -/
def State.doMeas (s : State) (k rv : Nat) (o : MxOp) : State :=
  let c := (s.task (s.team k).task).launch.clsAt o.cls
  let r := (List.range (convN o.c.toNat)).foldl (s.measBlock k o c) {}
  let s := s.mxWrite k r.writes
  if r.stop then s.mxStop k rv o.cls else s

/-- MCVT performed (R293). -/
def State.doCvt (s : State) (k rv : Nat) (o : MxOp) : State :=
  let c := (s.task (s.team k).task).launch.clsAt o.cls
  let r := (List.range (convN o.c.toNat)).foldl (s.cvtBlock k o c) {}
  if c.rpol = 2 ∧ r.breach then s.mxStop k rv o.cls
  else ((s.mxWrite k r.writes).modStatus k rv fun m => m.add r).count (s.team k).task o.cls r.satc r.unfc r.breach

/-- A pass performed with the array's operand (R295, R91). -/
def State.doPass (s : State) (k rv tile : Nat) (o : MxOp) (q : List (List Byte × List Byte)) : State :=
  let t := s.team k
  let l := (s.task t.task).launch
  let na := (l.clsAt o.ca).npl
  let w := o.c.toNat
  let kb := bits w 19 8
  let words := (List.range o.imm).map fun i => readLe t.spad (o.b.toNat + 2 * (kb + i)) 2
  let cols := statColumns q (l.clsAt o.desc.cls).npl
  if (words.any fun x => decide (x / 4096 ≠ o.dtag)) || cols.any fun c => decide (c.2 / 4096 ≠ o.desc.dtag) then
    (s.modTeam k fun t => t.modBatch rv fun b => { b with skew := true }).modStatus k rv fun m => { (m.set 1) with nskip := satAdd32 m.nskip 1 }
  else
    let n := (l.clsAt o.cls).nmax
    let (tl, lost, sat, long) := (List.range o.imm).foldl (fun (a : Tile × Bool × Nat × Bool) i =>
      let bs := readBytes t.spad (o.a.toNat + 32 + 32 * na * (kb + i)) (32 * na)
      let (x, l, c, g) := passRow cols n ((List.range 256).map (planeElem bs na)) (words.getD i 0) a.1 (bits w 5 0 + i)
      (x, a.2.1 || l, a.2.2.1 + c, a.2.2.2 || g)) (s.tileOf k tile, false, 0, false)
    let s := s.modTile k tile fun _ => { tl with orient := if o.kind = .mma then 1 else 2 }
    let s := s.modStatus k rv fun m =>
      let m := if lost then m.set 3 else m
      let m := if long then m.set 2 else m
      { m with npass := satAdd32 m.npass 1, satc := satAdd32 m.satc sat }
    s.count t.task o.cls sat 0 false

/-- Element j of a row delivered (R72, R297). Under a NaN band scale the NaN keeps the scale's sign and cause, as R54 has it for a NaN source (DEDUCED, log 106). -/
def drainElem (c : ClassB) (row : Row) (band : RVal) (j : Nat) : Deliv :=
  let m := Cells.get 0 row.mark j
  if m ≠ 0 then roundClass c (genNan m, {})
  else if !row.set then roundClass c (.fin false 0 1, {})
  else roundClass c (rMul ((ofRat (Cells.get 0 row.i j) 1).mul2 row.x) band)

/-- MDRN performed (R297), laid out by the tile's orientation as it then is; what would pass the area is not written (log 20). -/
def State.doDrain (s : State) (k rv tile : Nat) (o : MxOp) : State :=
  let t := s.team k
  let l := (s.task t.task).launch
  let c := l.clsAt o.cls
  let z := drainSize c
  let band := if o.bs then decodeF 0x02 (o.c.toNat % 65536) else .fin false 1 1
  let row0 := bits o.b.toNat 5 0
  let ld := bits o.b.toNat 31 16
  let img := s.tileOf k tile
  let nmax := (l.clsAt o.ca).nmax
  let ds := (List.range o.imm).flatMap fun w => (List.range 512).map fun j =>
    let row := Cells.get {} img.rows (row0 + w)
    (o.a.toNat + (if img.orient = 2 then j * ld + w else w * ld + j) * z, drainElem c row band j, Cells.get 0 row.mark j)
  let s := s.modStatus k rv fun m =>
    let m := if (List.range o.imm).any fun w => Cells.get 0 img.check (row0 + w) != 0 then m.set 0 else m
    if nmax != 0 && (List.range o.imm).any fun w => decide (nmax < Cells.get 0 img.terms (row0 + w)) then m.set 2 else m
  if ds.any fun d => d.2.1.trap then s.mxStop k rv o.cls
  else
    let r : MxOut := ds.foldl (fun r d => { r with satc := r.satc + d.2.1.satc, unfc := r.unfc + d.2.1.unfc, nanc := r.nanc + b2n (d.2.2 != 0), breach := r.breach || d.2.1.flg.breach }) {}
    ((s.mxWrite k ((ds.filter fun d => decide (d.1 % 2 ^ 20 + z ≤ 1024 * t.scrk)).map fun d => (d.1, leBytes z d.2.1.out))).modStatus k rv fun m => m.add r).count t.task o.cls r.satc r.unfc r.breach

/-- The effect of a batch's oldest operation (R286, R299): skipped after RANGE or FAULT, and a pass after SKEW. -/
def State.mxPerform (s : State) (k : Nat) (b : Batch) (o : MxOp) (q : List (List Byte × List Byte)) : State :=
  if b.stopped then s
  else
    match o.kind with
    | .zro => s.modTile k b.tile fun t => { t with rows := [], check := [], orient := 0 }
    | .meas => s.doMeas k b.rv o
    | .cvt => s.doCvt k b.rv o
    | .mma | .mmat => if b.skew then s.modStatus k b.rv fun m => { m with nskip := satAdd32 m.nskip 1 } else s.doPass k b.rv b.tile o q
    | .drn => s.doDrain k b.rv b.tile o

/-- The operation a unit performs. -/
def Engine.running (e : Engine) : MxUnit → Option (Nat × Nat)
  | .array => e.array | .conversion => e.conv | .tile => e.tileU

/-- A unit falls idle, or the array takes its next pass and swaps its shadow in (R282). -/
def Engine.release (e : Engine) : MxUnit → Engine
  | .array =>
    match e.arrayNext with
    | none => { e with array := none }
    | some x => { e with array := some x, arrayNext := none, heldOp := e.shadow, heldQ := e.shadowQ, shadow := {}, shadowQ := [] }
  | .conversion => { e with conv := none }
  | .tile => { e with tileU := none }

/-- A batch's granted operation is performed, and the next becomes a candidate. -/
def State.mxComplete (s : State) (k rv : Nat) (q : List (List Byte × List Byte)) : State :=
  match (s.team k).batchOf rv with
  | none => s
  | some b =>
    match b.ops with
    | [] => s
    | o :: _ => (s.mxPerform k b o q).modTeam k fun t => t.modBatch rv fun b => { b with ops := b.ops.drop 1 }.front s.cyc

/-- MATRIX_OP_COMPLETE (R286). -/
def execMatrixOpComplete (cluster : Nat) (unit : MxUnit) (s : State) : Out :=
  match (s.engine cluster).running unit with
  | none => .next s
  | some (k, rv) => .next ((s.mxComplete k rv (s.engine cluster).heldQ).modEngine cluster fun e => e.release unit)

/-- A batch may complete: closed, and no operation left. -/
def Batch.done (b : Batch) : Bool := !b.isOpen && b.ops.isEmpty

/-- A batch completes: status, arrival, counter, in that order (R298). -/
def State.batchEnd (s : State) (k : Nat) (b : Batch) : State :=
  let st := { (b.status.set 6) with batch := BitVec.ofNat 64 b.num }
  let s := s.modTeam k fun t => { t with
    stat := Cells.set {} t.stat b.rv st, batch := t.batch.filter (fun x => x.rv != b.rv), rv := Cells.modify {} t.rv b.rv fun r => { r with held := false } }
  let s := s.arriveAt k b.rv {}
  if b.tln then s.opDone k b.tl b.num else s

/-- BATCH_COMPLETE (R298). -/
def execBatchComplete (team tile : Nat) (s : State) : Out :=
  match (s.team team).batch.find? fun b => b.tile == tile && b.done with
  | none => .next s
  | some b => .next (s.batchEnd team b)

/-- MRSH abandoned by ACT 1 (R362): the tile is UNBOUND, its batch's queued operations are skipped under FAULT, and the batch completes. -/
def State.mrshAbandon (s : State) (k tile : Nat) : State :=
  (s.freeTile k tile {}).modTeam k fun t => { t with
    batch := t.batch.map fun b => if b.tile = tile then { b with stopped := true, isOpen := false, ops := b.ops.filter (·.granted), status := b.status.set 5 } else b }

end Sys2Proof.Machine
end

