-- ==== Sys2Proof/Machine/Unit.lean ====
section
/-! DEFINITION. The unit at a slot of a line: its prefixes, its instruction or pair, the fault checks that come before it executes and the registers it names (spec/06 R121, R122, R125, R134 to R138, R141). -/

namespace Sys2Proof.Machine

open Sys2Proof

/-! Registers a form names: v i is key i, s i is 64 + i, p i is 128 + i, q i is 136 + i, special register n is 200 + n (R134, R200). -/

/-- Keys of n registers from a specifier; a v specifier counts words, an s specifier one register. -/
def regs (sp : Spec) (n : Nat) : List Nat :=
  if n = 0 then []
  else
    match sp.file with
    | .v => (List.range n).map (sp.idx.toNat + ·)
    | .s => [64 + sp.idx.toNat]
    | .k => []
    | .x => if sp.idx.toNat < 7 then [128 + sp.idx.toNat] else if 8 ≤ sp.idx.toNat ∧ sp.idx.toNat < 12 then [128 + sp.idx.toNat] else []

/-- The register of a guard; the always-true guards name none. -/
def guardRegs (g : Guard) (mu : Bool) : List Nat :=
  if mu then (if g.idx.toNat < 4 then [136 + g.idx.toNat] else []) else if g.idx = 7 then [] else [128 + g.idx.toNat]

/-- Registers read and written. -/
structure Regs where
  rd : List Nat := []
  wr : List Nat := []
  deriving DecidableEq, Repr

/-- A class A form whose destination and operands span these many words. -/
def aRegs (f : AForm) (d a b c : Nat) : Regs :=
  { rd := guardRegs f.grd f.mu ++ regs f.a a ++ (if f.bi then [] else regs f.b b) ++ regs f.c c, wr := regs f.dst d }

/-- A class B form. -/
def bRegs (f : BForm) (d a : Nat) : Regs :=
  { rd := guardRegs f.grd false ++ regs f.a a ++ (if f.mr then regs f.b 1 else []), wr := regs f.dst d }

/-- The data registers of a class M form (R258). -/
def dataRegs (f : MForm) (sp : Spec) : List Nat :=
  let st := dfStride sp f.df.toNat
  match sp.file with
  | .v => regs sp (st * nvCount f.nv)
  | .s => (List.range (nvCount f.nv)).map fun e => 64 + sp.idx.toNat + e * st
  | _ => []

/-- A class M form: load says dst is written, store says c is read, both for a read-modify-write; the index a .s form leaves out is no register (log 37). -/
def mRegs (f : MForm) (load store : Bool) : Regs :=
  { rd := guardRegs f.grd f.mu ++ regs f.a 2 ++ (if f.bi || (f.mu && f.b.file == .v) then [] else regs f.b (if f.iw then 2 else 1)) ++ (if store then dataRegs f f.c else []),
    wr := if load then dataRegs f f.dst else [] }

/-- A class X form. -/
def xRegs (f : XForm) (d a b c : Nat) : Regs :=
  { rd := guardRegs f.grd false ++ regs f.a a ++ regs f.b b ++ regs f.c c, wr := regs f.dst d }

/-- A class S form; its register operands are s registers, and an unused field is 0 and is no register. -/
def sfRegs (f : SForm) (a b c : Nat) (cOut : Bool) : Regs :=
  let src (x : Spec) (n : Nat) : List Nat := if x.file == .s then regs x n else []
  { rd := guardRegs f.grd false ++ src f.a a ++ (if f.bi then [] else src f.b b) ++ (if cOut then [] else src f.c c),
    wr := (if f.dst.file == .s || f.dst.file == .x then regs f.dst 1 else []) ++ (if cOut then regs f.c 1 else []) }

/-- s registers from an index. -/
def sRegs (i n : Nat) : List Nat := (List.range n).map (64 + i + ·)

/-- Key of special register n. -/
def specialKey (n : Nat) : Nat := 200 + n

/-- The registers an instruction names. -/
def instrRegs (i : Instr) : Regs :=
  match i with
  | .exit f | .join f | .yield f | .idemOn f | .idemOff f => aRegs f 0 0 0 0
  | .partn f => { (aRegs f 0 0 0 0) with wr := [specialKey 11] }
  | .ejcfg f => { (aRegs f 0 (if f.x20 then 1 else 0) 0 0) with wr := specialKey 9 :: if f.x20 then [specialKey 10] else [] }
  | .bra f => bRegs f 0 (if f.tr then 2 else 0)
  | .brc f => { (bRegs f 0 1) with wr := if f.a.isQ then [] else [specialKey 8] }
  | .brx f => { (bRegs f 0 2) with wr := [specialKey 8] }
  | .ret f => bRegs f 0 2
  | .call f => bRegs f 2 0
  | .callx f => bRegs f 2 2
  | .meet f => { (bRegs f 0 0) with wr := [specialKey 8] }
  | .iadd f | .isub f | .imul f | .imulh f | .idiv f | .irem f | .imin f | .imax f | .iand f | .ior f | .ixor f | .shl f | .shr f | .sar f | .rotl f
  | .bfx f => let w := wd f; aRegs f w w w 0
  | .imad f | .bfi f => let w := wd f; aRegs f w w w w
  | .iadc f | .iadcSb f => let w := wd f; let r := aRegs f w w w 1; { r with wr := r.wr ++ regs f.c 1 }
  | .iabs f | .ineg f | .inot f | .popc f | .clz f | .brev f | .mov f => let w := wd f; aRegs f w w 0 0
  | .icmp f => let w := wd f; aRegs f 1 w w 0
  | .sel f => let w := wd f; aRegs f w w w 1
  | .lea f => aRegs f 2 2 (wd f) 0
  | .movi f => aRegs f (wd f) 0 0 0
  | .movk _ f => let w := wd f; let r := aRegs f w 0 0 0; { r with rd := r.rd ++ regs f.dst w }
  | .gets f => aRegs f (if [5, 8, 24, 25, 26, 27, 28].contains f.a.idx.toNat then 2 else 1) 0 0 0
  | .sets f => { (aRegs f 0 (if f.dst.idx = 8 then 2 else 1) 0 0) with wr := [specialKey f.dst.idx.toNat] }
  | .plog f => aRegs f 1 1 1 1
  | .pmovPk f => let r := aRegs f 1 0 0 0; { r with rd := r.rd ++ predRegs f.mu }
  | .pmovUp f => let r := aRegs f 0 1 0 0; { r with wr := predRegs f.mu }
  | .uni f | .uniEq f => aRegs f 1 (wd f) 0 0
  | .fadd f | .fsub f | .fmul f | .fmin f | .fmax f | .fdiv f | .amax f | .fcmp f | .fscl f | .cadd f => aRegs f 1 1 1 0
  | .fma f | .fsel f => aRegs f 1 1 1 1
  | .fcls f | .frnd f | .frcp f | .frsq f | .fsqt f | .fexp f | .flog f | .fsin f | .fcos f | .ftnh f | .cvccCc f | .cvccIn f | .cvccOut f | .cfold f
  | .redw _ f | .scanw _ f => aRegs f 1 1 0 0
  | .cvif f => aRegs f 1 (wd f) 0 0
  | .cvfi f => aRegs f (wd f) 1 0 0
  | .fdot4 f => aRegs f 1 4 4 1
  | .hrandN f | .hrandP f | .hrandU f => aRegs f 1 2 1 0
  | .lutb f => { rd := guardRegs f.grd true ++ regs f.a 1 ++ sRegs f.b.idx.toNat 4, wr := sRegs f.dst.idx.toNat 8 }
  | .lutm f => { rd := guardRegs f.grd false ++ regs f.a 1 ++ sRegs f.b.idx.toNat 8 ++ regs f.c 1, wr := regs f.dst 1 }
  | .shfl _ f => let w := if f.x20 then 2 else 1; aRegs f w w 1 0
  | .vote _ f => aRegs f 1 (if f.x20 then 2 else 1) 0 0
  | .ld f | .lds f | .ldg f => mRegs f true false
  | .gwin f => let r := mRegs f false false; { r with wr := regs f.dst 1 }
  | .st f | .sts f | .red _ f | .fred _ f => mRegs f false true
  | .prfFill f | .prfXlat f | .cctlEvict f | .cctlZero f => mRegs f false false
  | .atom _ f => mRegs f true true
  | .acas f => let r := mRegs f true true; { r with rd := r.rd ++ dataRegs f f.dst }
  | .cpy f | .cpym f | .cpygFrom f | .cpygTo f | .cpygLoad f | .cpyxPut f | .cpyxGet f =>
    { rd := guardRegs f.grd false ++ regs f.a 1 ++ regs f.b 1 ++ regs f.c 1 }
  | .malcTry f => xRegs f 1 0 0 0
  | .malcWait f | .mfre f | .mzro f | .mbatClose f | .mbatOpen f => xRegs f 0 0 0 0
  | .msta _ f => xRegs f 1 0 0 0
  | .meas f => xRegs f 0 0 1 1
  | .mcvt f | .mma f | .mmat f => xRegs f 0 1 1 1
  | .mldb f => xRegs f 0 1 1 0
  | .mdrn f => xRegs f 0 1 1 (if f.x20 then 1 else 0)
  | .msvhCopy f | .msvhEv f | .mrsh f => xRegs f 0 1 0 0
  | .tlw f | .tlqDone f | .tlqIss f | .tlmk f | .rvini _ f | .arv f | .arvb f | .rvwt f | .rvtsT f | .rvtsPh f | .qiniGrant f | .qpsh f | .qpop f => sfRegs f 0 1 0 false
  | .qiniInit f => let r := sfRegs f 0 1 1 false; { r with rd := r.rd ++ regs f.b 1 }
  | .qtryPsh f | .qtryPop f => sfRegs f 0 1 0 true
  | .syncm f => { rd := guardRegs f.grd false ++ regs f.a 1 }
  | .tlsig f | .launch f | .csrw f | .rpseal f => sfRegs f 1 1 0 false
  | .fence f | .gsyncWait f | .gsyncNb f | .trap f | .eret f | .csrr f | .killw f | .pause f | .mirxOff f | .mirxOn f | .mirxTest f | .waitev f | .rpopn f
  | .rpqrySt f | .rpqryWt f => sfRegs f 0 1 0 false
  | .pfxRg a => { rd := regs a 1 }
  | _ => {}
where
  /-- Words of the form's integer type. -/
  wd (f : AForm) : Nat := if f.ty.wide then 2 else 1
  /-- The predicates PMOV moves. -/
  predRegs (mu : Bool) : List Nat := if mu then [136, 137, 138, 139] else (List.range 7).map (128 + ·)

/-- LOOK of an instruction (R134). -/
def instrLook (i : Instr) : Nat := match i.toRaw with | some r => r.look | none => 0

/-! Issue kinds and prefixes (R125, R137, R138). -/

/-- Issue kinds (R125). -/
inductive IssueKind | ctl | vec | unf | mem | mtx | solo
  deriving DecidableEq, Repr

/-- The issue kind of an instruction, by its opcode and MU. -/
def issueKind (i : Instr) : IssueKind :=
  match i.toRaw with
  | none => .solo
  | some r =>
    let o := r.opc
    if o ≤ 0x0D then .ctl
    else if o < 0x70 then (if natBit r.md 7 then .unf else .vec)
    else if o ≤ 0x7B ∨ (0x91 ≤ o ∧ o ≤ 0x94) then .mem
    else if 0x80 ≤ o ∧ o ≤ 0x8C then .mtx
    else .solo

/-- The class operands a prefix may name: a, b, c (R137); none where a form takes no PFX.CL. -/
def clsOperands (i : Instr) : Option (Bool × Bool × Bool) :=
  match i with
  | .fadd _ | .fsub _ | .fmul _ | .fmin _ | .fmax _ | .fcmp _ | .fsel _ | .fdiv _ | .amax _ | .cadd _ | .mma _ | .mmat _ => some (true, true, false)
  | .fma _ | .fdot4 _ => some (true, true, true)
  | .fscl _ | .frcp _ | .frsq _ | .fsqt _ | .fexp _ | .flog _ | .fsin _ | .fcos _ | .ftnh _ | .cvfi _ | .cvccCc _ | .cfold _ | .redw _ _ | .scanw _ _
  | .mdrn _ => some (true, false, false)
  | .lutm _ => some (false, true, true)
  | _ => none

/-- PFX.CL with classes a, b, c suits its target (R137, R221). -/
def pfxClOk (i : Instr) (a b c : Nat) : Bool :=
  match clsOperands i with
  | none => false
  | some (oa, ob, oc) =>
    (oa || a == 0) && (ob || b == 0) && (oc || c == 0) && (match i with | .cadd f => a == 0 || a == f.cls.toNat | _ => true)

/-- A form of class M or K whose RS, RSD or RSS is 4 (R138). -/
def usesPrefixRegion (i : Instr) : Bool :=
  match i with
  | .ld f | .st f | .prfFill f | .prfXlat f | .cctlEvict f | .cctlZero f | .atom _ f | .acas f | .red _ f | .fred _ f => f.rs == 4
  | .cpy f | .cpym f | .cpygFrom f | .cpygTo f | .cpygLoad f | .cpyxPut f | .cpyxGet f => f.rsd == 4 || f.rss == 4
  | _ => false

/-- A form that its line's kind permits: handler lines name ha tiles, ordinary lines a tiles, and ERET stands in handler lines alone (R301, R305, R354). -/
def kindOk (handler : Bool) (i : Instr) : Bool :=
  match i with
  | .mzro f | .meas f | .mcvt f | .mma f | .mmat f | .mdrn f | .mbatOpen f | .mbatClose f => taOk f handler false
  | .msvhCopy f | .msvhEv f | .mrsh f => taOk f handler true
  | .malcWait f | .malcTry f | .mfre f => tileMaskOk f handler
  | .eret _ => handler
  | _ => true

/-! The unit at a slot. -/

/-- Where a unit lies in its line: prefix slots from the first slot, the instruction's slot (5 when the prefixes run past the line), and whether its PAIR bit is set. -/
structure Extent where
  first : Nat := 0
  main : Nat := 0
  pair : Bool := false
  deriving DecidableEq, Repr

/-- The first slot from s on that holds no prefix, or 5. -/
def mainSlot (line : List Byte) (s : Nat) : Nat := ((List.range (5 - s)).map (s + ·)).find? (fun k => !isPrefixWord (lineSlot line k)) |>.getD 5

/-- The extent of the unit at slot s. -/
def extentAt (line : List Byte) (s : Nat) : Extent :=
  let m := mainSlot line s
  { first := s, main := m, pair := decide (m < 4) && linePair (lineWord line) m }

/-- Slots from the first to the end of the unit. -/
def Extent.slots (x : Extent) : Nat := min x.main 4 - x.first + 1 + b2n x.pair

/-- The PC after the unit at a PC (R123). -/
def unitNext (line : List Byte) (pc : W64) : W64 := pcNext pc (extentAt line (pc.toNat % 8)).slots

/-- A unit read and found sound, or its first fault: cause code and the offending slot (R141). -/
inductive UnitRead
  | bad (cause slot : Nat)
  /-- The instruction's slot and decoding, the pair's second, the prefixes' classes and region register. -/
  | ok (slot : Nat) (i : Instr) (second : Option Instr) (cl : Option (Nat × Nat × Nat)) (rg : Option Spec)
  deriving DecidableEq, Repr

/-- Decoded instruction of a slot. -/
def slotInstr (line : List Byte) (k : Nat) : Option Instr := match decode (lineSlot line k) with | .ok i => some i | .error _ => none

/-- Prefix classes among decoded slots. -/
def findCl (l : List (Nat × Instr)) : Option (Nat × Nat × Nat × Nat) := l.findSome? fun x => match x.2 with | .pfxCl a b c => some (x.1, a.toNat, b.toNat, c.toNat) | _ => none
/-- Prefix region register among decoded slots. -/
def findRg (l : List (Nat × Instr)) : Option (Nat × Spec) := l.findSome? fun x => match x.2 with | .pfxRg a => some (x.1, a) | _ => none

/-- Both slots may form a pair (R125). -/
def pairOk (i j : Instr) : Bool :=
  let a := issueKind i
  let b := issueKind j
  a != .solo && b != .solo && !(a == b && (a == .mem || a == .mtx || a == .ctl)) && !(instrRegs i).wr.any (instrRegs j).wr.contains

/-- The checks of a unit in R141's order, from PFXPOS to BADPAIR. A unit with a prefix is no pair (R136). -/
def readUnit (line : List Byte) (s : Nat) : UnitRead :=
  let x := extentAt line s
  let lw := lineWord line
  let pre := (List.range (x.main - s)).map (s + ·)
  let opc (k : Nat) := lineSlot line k / 2 ^ 88
  let dup := pre.find? fun k => (pre.filter (· < k)).any fun j => opc j == opc k
  if x.main = 5 || (x.pair && x.main == 3 && isPrefixWord (lineSlot line 4)) then .bad 2 4
  else
    match dup with
    | some k => .bad 3 k
    | none =>
      let body := if x.pair then [x.main, x.main + 1] else [x.main]
      let ds := (pre ++ body).map fun k => (k, slotInstr line k)
      match ds.find? fun d => d.2.isNone with
      | some d => .bad 4 d.1
      | none =>
        let is := ds.filterMap fun d => d.2.map fun i => (d.1, i)
        let at_ (k : Nat) : Instr := ((is.find? fun d => d.1 == k).map Prod.snd).getD (.pfxRg ⟨.s, 0⟩)
        let main := at_ x.main
        let second := if x.pair then some (at_ (x.main + 1)) else none
        let pres := is.filter fun d => d.1 < x.main
        let cl := findCl pres
        let rg := findRg pres
        let noRg := ((if rg.isNone && usesPrefixRegion main then [x.main] else []) ++ (match second with | some j => if usesPrefixRegion j then [x.main + 1] else [] | none => [])).head?
        let useCl := match cl with | some (k, a, b, c) => if pfxClOk main a b c then none else some k | none => none
        let useRg := match rg with | some (k, _) => if usesPrefixRegion main then none else some k | none => none
        let prePair := pre.any fun k => linePair lw k
        match ((is.find? fun d => !kindOk (lineKind lw == 1) d.2).map Prod.fst).toList ++ noRg.toList with
        | k :: _ => .bad 4 k
        | [] =>
          match (useCl.toList ++ useRg.toList).foldl (fun m k => match m with | none => some k | some j => some (min j k)) none with
          | some k => .bad 5 k
          | none =>
            if prePair || (x.pair && !pre.isEmpty) then .bad 6 ((pre.find? fun k => linePair lw k).getD x.main)
            else
              match second with
              | some j => if pairOk main j then .ok x.main main second none none else .bad 6 x.main
              | none => .ok x.main main none (cl.map Prod.snd) (rg.map Prod.snd)

/-! Lookahead windows (R134, R135). -/

/-- An instruction at place n of its unit touches the result of an open window. -/
def LookWin.hit (w : LookWin) (n : Nat) (i : Instr) : Bool := decide (n < w.left) && ((instrRegs i).rd ++ (instrRegs i).wr).any w.regs.contains

/-- The window an instruction opens, with m instructions of its unit after it. -/
def lookOpen (i : Instr) (m : Nat) : List LookWin := let l := instrLook i; if l ≤ m then [] else [{ regs := (instrRegs i).wr, left := l - m }]

/-- The place of the first slot of a unit that violates a window (R134, R135): an open window of the thread over an instruction or the register a PFX.RG reads, or the first slot's own over the second. -/
def lookBad (ws : List LookWin) (i : Instr) (second : Option Instr) (rg : Option Spec) : Option Nat :=
  if ws.any fun w => w.hit 0 i || (decide (0 < w.left) && (match rg with | some r => (regs r 1).any w.regs.contains | none => false)) then some 0
  else
    match second with
    | none => none
    | some j => if ws.any (fun w => w.hit 1 j) || (LookWin.hit { regs := (instrRegs i).wr, left := instrLook i } 0 j) then some 1 else none

/-- The windows after a unit. -/
def lookAfter (ws : List LookWin) (i : Instr) (second : Option Instr) : List LookWin :=
  let n := 1 + b2n second.isSome
  ((ws.filter fun w => decide (n < w.left)).map fun w => { w with left := w.left - n }) ++
    (match second with | none => lookOpen i 0 | some j => lookOpen i 1 ++ lookOpen j 0)

/-- Recalled by R163: the rill does not execute it. The forms themselves recall by their drivers; this list says so of a unit before its checks. -/
def recalls (i : Instr) : Bool :=
  match i.toRaw with
  | none => false
  | some r =>
    let o := r.opc
    let mu := (decide (o < 0x78) || decide (0x91 ≤ o ∧ o ≤ 0x94)) && natBit r.md 7
    mu || (decide (0x78 ≤ o) && o != 0x90 && !decide (0x91 ≤ o ∧ o ≤ 0x94)) || (decide (0x0A ≤ o) && decide (o ≤ 0x0D))
      || (o == 0x33 && r.sub == 1) || (decide (0x5C ≤ o) && decide (o ≤ 0x61)) 

end Sys2Proof.Machine
end

