-- ==== Sys2Proof/Machine/Record.lean ====
section
/-! DEFINITION. The team record: halting a team for a save, the record's bytes, and a team read back from one (spec/18 R363, R368 to R371; spec/07 R177; spec/10 R246). Fields whose place in the record the spec leaves open stand as log 25 says. -/

namespace Sys2Proof.Machine

open Sys2Proof

/-- Zero bytes up to n. -/
def padTo (n : Nat) (bs : List Byte) : List Byte := bs ++ List.replicate (n - bs.length) 0

/-! Halting (R363, R177). -/

/-- The rill contexts of a team that run a thread, by warp and thread index (R377). -/
def State.awayOf (s : State) (k : Nat) : List Nat :=
  sortOn (fun c => 32 * (s.rill c).warp + (s.rill c).thread) (s.rills.filterMap fun c => if c.2.used ∧ ¬c.2.mirror ∧ c.2.team = k then some c.1 else none)

/-- Away threads stand in the warp, at their present PCs (R177). -/
def State.bringHome (s : State) (k : Nat) : State := (s.awayOf k).foldl (fun s c => s.recallRill c (s.rill c).pc none) s

/-- Groups whose every thread has parked are released: a release of the cyc of the halt is kept (R368, R377). -/
def Warp.releaseReady (w : Warp) : Warp :=
  (((w.inSt .parked).map fun t => (w.thread t).pc).eraseDups).foldl (fun w x => if w.releasable x then w.releaseAt x (w.awaitSet x) none else w) w
/-- What a halt takes from a warp: its fault stop, rejoin timers, lookahead windows and refetched lines (R177, R253). Waits and accesses already performed stay: the team may resume at its boundary (R253, R363, R367). -/
def Warp.halt (w : Warp) : Warp :=
  { w with path := w.path.map (fun c => (c.1, { c.2 with refetched := false })), timers := [], fault := none, look := [] }
/-- A saved path reissues its instruction: of its wait only its arrival at a group stays (R341, R368). -/
def Hold.reissue : Hold → Hold | .group g n => .group g n | _ => .none
/-- What a save takes from a warp: waits, and pending traps, whose threads stand at the instruction (R177, R341, R357). -/
def Warp.reissue (w : Warp) : Warp :=
  { (w.modThreads threads32 fun th => { th with pend := none, held := th.held.reissue }) with
    path := w.path.map fun c => (c.1, { c.2 with hold := c.2.hold.reissue }) }
/-- Chunks of the team's copies that await their CXL completions: a save waits for them (R363, R411). -/
def Team.chunksOut (t : Team) : Bool := t.copies.any fun c => !c.sent.isEmpty

/-- The units of a cluster that perform an operation of team k. -/
def Engine.unitsOf (e : Engine) (k : Nat) : List MxUnit :=
  [MxUnit.array, .conversion, .tile].filter fun u => match e.running u with | some (x, _) => x == k | none => false

/-- A granted operation of team k completes; the array's next one with it. -/
def State.finishGranted (s : State) (k : Nat) : State :=
  let m := coreClus (s.team k).core
  let one (s : State) (u : MxUnit) : State :=
    match (s.engine m).running u with
    | some (x, rv) => if x = k then (s.mxComplete x rv (s.engine m).heldQ).modEngine m fun e => e.release u else s
    | none => s
  let s := [MxUnit.array, .conversion, .tile, .array].foldl one s
  match (s.engine m).arrayNext with
  | some (x, rv) => if x = k then (s.mxComplete x rv (s.engine m).shadowQ).modEngine m fun e => { e with arrayNext := none, shadow := {}, shadowQ := [] } else s
  | none => s

/-- Batches of a team that are closed and have no operation left complete. -/
def State.finishBatches (s : State) (k : Nat) : State := ((s.team k).batch.filter Batch.done).foldl (fun s b => s.batchEnd k b) s

/-- The instructions of the unit at a PC as team t reads it. -/
def State.unitAt (s : State) (t : Nat) (pc : W64) : List Instr :=
  let tm := s.team t
  match s.readLine tm.vdev (coreDie tm.core) (corePort tm.core) pc with
  | .ok (l, _) => (match readUnit l (pc.toNat % 8) with | .ok _ i j _ _ => i :: j.toList | .bad _ _ => [])
  | .error _ => []
/-- A CPYFLT that waits for the handler bank is raised again where its TLW issues again: the abandoned copy keeps its mark (R341, R361). -/
def State.cpyfltBack (s : State) (k : Nat) : State :=
  let is (h : Hold) : Option Trap := match h with | .trap t => if t.cause = 0x33 then some t else none | _ => none
  let ts := (s.team k).warps.flatMap fun w => w.2.holds.filterMap is
  let s := ts.foldl (fun s t => (s.unitAt k t.pc).foldl (fun s i => match i with
    | .tlw f => s.modTl k f.a.idx.toNat fun c => { c with cpyflt := c.cpyflt ++ [(t.info.toNat, t.info2.toNat)] }
    | _ => s) s) s
  let drop (h : Hold) : Hold := if (is h).isSome then .none else h
  s.modTeam k fun t => { t with warps := t.warps.map fun w =>
    (w.1, { w.2.modThreads threads32 (fun th => { th with held := drop th.held }) with path := w.2.path.map fun p => (p.1, { p.2 with hold := drop p.2.hold }) }) }

/-- A team halts for a save (R363): every path at its unit boundary, complete groups released, away threads home, fault slots and requests outside the package given up, its granted operations complete. -/
def State.haltTeam (s : State) (k : Nat) : State :=
  let s := (s.drain fun p => p.team == k).cpyfltBack k
  let s := (s.dropAsks fun p => p.team == k).modTeam k fun t => { t with warps := t.warps.map fun w => (w.1, w.2.modThreads threads32 fun th => { th with got := false }) }
  let s := (s.modTeam k fun t => { t with warps := t.warps.map fun w => (w.1, w.2.releaseReady) }).bringHome k
  let s := s.freeFaults fun b => match b with | .warp x _ _ | .form x _ _ | .copy x _ _ => x == k | _ => false
  let s := (s.finishGranted k).finishBatches k
  s.modTeam k fun t => { t with
    halted := true, warps := t.warps.map (fun w => (w.1, w.2.halt)), copies := t.copies.map fun c => { c with stopped := false, fault := none } }

/-- A halted team resumes at its boundary. -/
def State.unhalt (s : State) (k : Nat) : State := s.modTeam k fun t => { t with halted := false }

/-! Writing (R369, R370). -/

/-- A rendezvous point's 32 bytes (R330). -/
def Rv.image (r : Rv) : List Byte :=
  padTo 32 (leBytes 4 r.expect.toNat ++ leBytes 4 r.count.toNat ++ leBytes 4 r.phase.toNat ++ leBytes 4 r.wmask.toNat ++ leBytes 1 (b2n r.init + 2 * b2n r.bytes + 4 * b2n r.orphan + 8 * b2n r.held))
/-- A queue descriptor's 32 bytes (R334). -/
def Queue.bytes (q : Queue) : List Byte :=
  padTo 32 (leBytes 4 q.base.toNat ++ leBytes 1 q.lsz.toNat ++ leBytes 1 (b2n q.init) ++ leBytes 2 0 ++ leBytes 4 q.head.toNat ++ leBytes 4 q.tail.toNat ++ leBytes 4 q.allow.toNat)
/-- The control area (R246); the status word of a batch in progress stands beside its point. -/
def Team.control (t : Team) : List Byte :=
  padTo 4096 (((List.range 24).flatMap fun n => (t.rvAt n).image ++ (match t.batchOf n with | some b => b.status.bytes | none => (t.statAt n).bytes)) ++ (List.range 16).flatMap fun n => (t.chAt n).bytes)
/-- A timeline counter's 32 bytes. -/
def Tl.bytes (c : Tl) : List Byte :=
  padTo 32 (leBytes 8 c.iss.toNat ++ leBytes 8 c.done.toNat ++ leBytes 8 c.base.toNat ++ leBytes 1 c.scope ++ leBytes 1 c.owner ++ leBytes 1 (b2n !c.cpyflt.isEmpty))

/-- Opcode and SUB of a copy form (R139). -/
def CopyKind.code : CopyKind → Nat × Nat
  | .cpy => (0x78, 0) | .cpym => (0x79, 0) | .cpygFrom => (0x7A, 0) | .cpygTo => (0x7A, 1) | .cpygLoad => (0x7A, 2) | .cpyxPut => (0x7B, 0) | .cpyxGet => (0x7B, 1)
  | .marker => (0x7E, 0)
/-- The form of an opcode and SUB. -/
def CopyKind.ofCode (o n : Nat) : Option CopyKind := [CopyKind.cpy, .cpym, .cpygFrom, .cpygTo, .cpygLoad, .cpyxPut, .cpyxGet, .marker].find? fun k => k.code == (o, n)
/-- A copy's 64 bytes; a marker keeps its scope where a copy keeps RV. -/
def Copy.bytes (c : Copy) : List Byte :=
  padTo 64 (leBytes 8 c.num ++ leBytes 1 c.kind.code.1 ++ leBytes 1 c.kind.code.2 ++ leBytes 1 c.tl ++ leBytes 1 c.mask.toNat ++ leBytes 1 (if c.kind = .marker then c.scope else c.rv) ++ leBytes 3 0
    ++ leBytes 8 c.dst.addr.toNat ++ leBytes 8 c.src.addr.toNat ++ leBytes 8 c.len ++ leBytes 1 c.dst.sel ++ leBytes 1 c.src.sel ++ leBytes 2 0
    ++ leBytes 2 c.dst.region.toNat ++ leBytes 2 c.src.region.toNat ++ leBytes 4 c.nextChunk)
/-- The copies and markers on the counter of an owner (1 or 2), 16 records. -/
def Team.ctxBytes (t : Team) (owner : Nat) : List Byte := padTo 1024 ((t.copies.filter fun c => (t.tlAt c.tl).owner == owner).take 16 |>.flatMap Copy.bytes)

/-- A stationary descriptor's 32 bytes. -/
def StatDesc.bytes (d : StatDesc) : List Byte := padTo 32 (leBytes 8 d.off.toNat ++ leBytes 8 d.voff.toNat ++ leBytes 1 d.cls ++ leBytes 1 (b2n d.set) ++ leBytes 2 d.dtag)
/-- A team holds a tile, or waits at its restore for one (R371). -/
def Team.hasTile (t : Team) (n : Nat) : Bool := t.holds n || t.tilesDue.any fun x => x.1 == n
/-- The term counts of a tile, bound or EVICTED (R302). -/
def State.termsOf (s : State) (k n : Nat) : Cells Nat :=
  match (s.team k).tilesDue.find? fun x => x.1 == n with
  | some x => x.2.terms
  | none => if ((s.team k).tileAt n).held.isSome then (s.tileOf k n).terms else ((s.team k).tileAt n).terms
/-- The value of such a tile. -/
def State.tileVal (s : State) (k n : Nat) : Tile := match (s.team k).tilesDue.find? fun x => x.1 == n with | some x => x.2 | none => s.tileOf k n
/-- A tile state's 16 bytes. -/
def Team.tileBytesOf (t : Team) (n : Nat) : List Byte :=
  let l := t.tileAt n
  let b := t.openBatch n
  let st := if t.hasTile n then 1 else if l.evicted then 2 else 0
  leBytes 1 (st + 4 * l.issue + 16 * b2n b.isSome + 32 * b2n ((b.map Batch.tln).getD false)) ++ leBytes 1 (match b with | some b => b.rv + 32 * b.prio | none => 0)
    ++ leBytes 6 (match b with | some b => b.num | none => 0) ++ leBytes 8 l.image.toNat
/-- Code of a batch operation (R139). -/
def MxKind.code : MxKind → Nat | .zro => 0x82 | .meas => 0x83 | .cvt => 0x84 | .mma => 0x86 | .mmat => 0x87 | .drn => 0x88
/-- The operation of a code. -/
def MxKind.ofCode (n : Nat) : Option MxKind := [MxKind.zro, .meas, .cvt, .mma, .mmat, .drn].find? fun k => k.code == n
/-- A queued operation's 64 bytes, with the batch it belongs to. -/
def MxOp.bytes (o : MxOp) (b : Batch) : List Byte :=
  leBytes 1 o.kind.code ++ leBytes 1 b.tile ++ leBytes 1 b.rv ++ leBytes 1 b.prio ++ leBytes 1 o.cls ++ leBytes 1 o.ca ++ leBytes 1 o.cb
    ++ leBytes 1 (b2n o.bs + 2 * b2n b.tln + 4 * b2n b.isOpen + 8 * b2n o.desc.set) ++ leBytes 8 b.num
    ++ leBytes 8 o.a.toNat ++ leBytes 8 o.b.toNat ++ leBytes 8 o.c.toNat ++ leBytes 1 o.imm ++ leBytes 1 b.tl ++ leBytes 1 o.tag ++ leBytes 1 o.dtag
    ++ leBytes 1 o.desc.dtag ++ leBytes 1 o.desc.cls ++ leBytes 2 0 ++ leBytes 8 o.desc.off.toNat ++ leBytes 8 o.desc.voff.toNat
/-- The matrix state's 4,096 bytes. -/
def State.matrixBytes (s : State) (k : Nat) : List Byte :=
  let t := s.team k
  padTo 0x80 ((List.range 4).flatMap fun n => (Cells.get {} t.sd n).bytes) ++ padTo 0x180 ((List.range 10).flatMap t.tileBytesOf)
    ++ ((List.range 10).flatMap fun n => (List.range 64).flatMap fun r => leBytes 4 (Cells.get 0 (s.termsOf k n) r))
    ++ padTo 1024 ((t.batch.flatMap fun b => b.ops.map fun o => o.bytes b).take 16).flatten

/-- A state's code in a warp record; no thread is AWAY there (R370). -/
def ThState.code : ThState → Nat | .pathed => 0 | .spilled => 1 | .parked => 2 | .away => 0 | .exited => 4
/-- The entry that holds a thread, 0xFF for none. -/
def Warp.entryOf (w : Warp) (t : Nat) : Nat := ((List.range 8).find? fun e => (w.entry e).valid && (w.entry e).mask.getLsbD t).getD 0xFF
/-- p0 to p6 of a thread as bits. -/
def predBits (p : Cells Bool) (t lo n : Nat) : Nat := (List.range n).foldl (fun x i => x + b2n (Cells.get false p (8 * t + lo + i)) * 2 ^ i) 0
/-- A thread's 32 bytes. -/
def Warp.threadBytes (w : Warp) (t : Nat) : List Byte :=
  let th := w.thread t
  padTo 32 (leBytes 8 th.pc.toNat ++ leBytes 8 th.meet.toNat ++ leBytes 4 th.vstat.toNat ++ leBytes 1 (predBits w.p t 0 7) ++ leBytes 1 th.st.code
    ++ leBytes 1 (b2n th.strag.isSome + 2 * b2n ((th.strag.map fun g => g.adopted.isSome).getD false)) ++ leBytes 1 (w.entryOf t))
/-- The PC of a thread as its record holds it: its path's, while it is PATHED. -/
def Warp.settlePcs (w : Warp) : Warp :=
  (List.range 8).foldl (fun w e => let p := w.entry e; if p.valid then w.modThreads (maskList p.mask) fun th => { th with pc := p.pc } else w) w
/-- A path entry's 16 bytes. -/
def Path.bytes (p : Path) : List Byte := padTo 16 (leBytes 8 p.pc.toNat ++ leBytes 4 p.mask.toNat ++ leBytes 2 p.age ++ leBytes 1 (b2n p.valid))
/-- The handler part of a warp record, 1,280 bytes. -/
def Warp.handlerBytes (w : Warp) : List Byte :=
  match w.handler with
  | none => List.replicate 1280 0
  | some h =>
    padTo 1280 ((threads32.flatMap fun t => (List.range 8).flatMap fun i => leBytes 4 (Cells.get 0 h.v (64 * t + 56 + i)).toNat)
      ++ ((List.range 4).flatMap fun i => leBytes 8 (Cells.get 0 h.s (28 + i)).toNat) ++ (threads32.flatMap fun t => leBytes 1 (predBits h.p t 4 3))
      ++ ([w.tcause, w.tpc, w.tinfo, w.tinfo2, w.tmask, w.tstat].flatMap fun x => leBytes 8 x.toNat) ++ leBytes 8 h.mask.toNat ++ leBytes 8 h.pc.toNat)
/-- A warp record, 11,264 bytes (R370). -/
def Warp.bytes (w : Warp) : List Byte :=
  let w := w.settlePcs
  let ctl := ((List.range 4).foldl (fun x i => x + b2n (Cells.get false w.q i) * 2 ^ i) 0) + 2 ^ 4 * w.part.toNat + 2 ^ 8 * w.ejt.toNat + 2 ^ 32 * w.rjt.toNat + 2 ^ 56 * b2n w.mirOff
  ((List.range 64).flatMap fun i => threads32.flatMap fun t => leBytes 4 (Cells.get 0 w.v (64 * t + i)).toNat)
    ++ ((List.range 32).flatMap fun i => leBytes 8 (Cells.get 0 w.s i).toNat) ++ leBytes 8 ctl
    ++ leBytes 8 (min 0xFFFF w.spillAge + 2 ^ 16 * b2n w.idem.isSome + 2 ^ 17 * b2n w.handler.isSome) ++ leBytes 8 (w.idem.getD 0).toNat ++ List.replicate 232 0
    ++ (threads32.flatMap w.threadBytes) ++ ((List.range 8).flatMap fun e => (w.entry e).bytes) ++ List.replicate 128 0 ++ w.handlerBytes

/-- HELD tiles of a team, a0 to a7 then ha0 and ha1. -/
def Team.heldTiles (t : Team) : List Nat := (List.range 10).filter t.hasTile
/-- A team stands inside an IDEM region: the entry (R190). -/
def Team.region (t : Team) : Option W64 :=
  let ws := ((List.range t.wpt).map t.warp).filter fun w => !w.ended
  match ws with
  | [] => none
  | w :: r => match w.idem with | some x => if r.all fun y => y.idem == some x then some x else none | none => none
/-- Cyc since a team's region entry: from its last warp's IDEM. -/
def Team.sinceEntry (t : Team) (cyc : Nat) : Nat := if t.region.isSome then cyc - (((List.range t.wpt).map t.warp).foldl (fun m w => if w.ended then m else max m w.idemAt) 0) else 0
/-- Size of a record (R369). -/
def recordSize (wpt scrk nt : Nat) : Nat := 10752 + 11264 * wpt + 1024 * scrk + 349248 * nt
/-- Size of a team's record. -/
def Team.recordSize (t : Team) : Nat := Machine.recordSize t.wpt t.scrk t.heldTiles.length

/-- A team's record (R369). -/
def State.recordOf (s : State) (k : Nat) : List Byte :=
  let t := s.team k
  padTo 0x100 (leBytes 4 0x53544A46 ++ leBytes 2 1 ++ leBytes 2 (b2n t.region.isSome + 2 * b2n (t.warps.any fun w => w.2.handler.isSome)) ++ leBytes 4 t.recordSize ++ leBytes 4 t.num
      ++ leBytes 8 (s.handleOf t.task).toNat ++ leBytes 1 t.wpt ++ leBytes 1 t.pos ++ leBytes 2 t.scrk ++ leBytes 1 t.heldTiles.length ++ leBytes 1 t.tevt.toNat ++ leBytes 2 0
      ++ leBytes 8 (t.sinceEntry s.cyc))
    ++ t.control ++ ((List.range 8).flatMap fun n => (t.tlAt n).bytes) ++ t.ctxBytes 1 ++ t.ctxBytes 2 ++ s.matrixBytes k
    ++ ((List.range t.wpt).flatMap fun w => (t.warp w).bytes) ++ readBytes t.spad 0 (1024 * t.scrk) ++ (t.heldTiles.flatMap fun n => (s.tileVal k n).image)

/-! Reading back (R371). -/

/-- Bytes of a record from an offset. -/
def slice (bs : List Byte) (o n : Nat) : List Byte := (bs.drop o).take n
/-- A sparse byte map of a list. -/
def spadFrom (bs : List Byte) : Cells Byte := writeBytes [] 0 bs

/-- A rendezvous point read. -/
def rvFrom (bs : List Byte) : Rv :=
  let f := fieldAt bs 16 1
  { expect := BitVec.ofNat 32 (fieldAt bs 0 4), count := BitVec.ofNat 32 (fieldAt bs 4 4), phase := BitVec.ofNat 32 (fieldAt bs 8 4), wmask := BitVec.ofNat 32 (fieldAt bs 12 4),
    init := natBit f 0, bytes := natBit f 1, orphan := natBit f 2, held := natBit f 3 }
/-- A status word read. -/
def statusFrom (bs : List Byte) : MxStatus :=
  { flags := BitVec.ofNat 32 (fieldAt bs 0 4), nanc := BitVec.ofNat 32 (fieldAt bs 4 4), satc := BitVec.ofNat 32 (fieldAt bs 8 4), unfc := BitVec.ofNat 32 (fieldAt bs 12 4),
    npass := BitVec.ofNat 32 (fieldAt bs 16 4), nskip := BitVec.ofNat 32 (fieldAt bs 20 4), batch := BitVec.ofNat 64 (fieldAt bs 24 8) }
/-- A queue descriptor read. -/
def queueFrom (bs : List Byte) : Queue :=
  { base := BitVec.ofNat 32 (fieldAt bs 0 4), lsz := BitVec.ofNat 8 (fieldAt bs 4 1), init := natBit (fieldAt bs 5 1) 0, head := BitVec.ofNat 32 (fieldAt bs 8 4),
    tail := BitVec.ofNat 32 (fieldAt bs 12 4), allow := BitVec.ofNat 32 (fieldAt bs 16 4) }
/-- A counter read; numbers that no saved operation holds are complete (R368). -/
def tlFrom (bs : List Byte) : Tl :=
  { iss := BitVec.ofNat 64 (fieldAt bs 0 8), done := BitVec.ofNat 64 (fieldAt bs 8 8), base := BitVec.ofNat 64 (fieldAt bs 16 8), scope := fieldAt bs 24 1, owner := fieldAt bs 25 1 }
/-- A copy read; none where the record is empty. -/
def copyFrom (bs : List Byte) : Option Copy :=
  match CopyKind.ofCode (fieldAt bs 8 1) (fieldAt bs 9 1) with
  | none => none
  | some kind => some {
      kind := kind, num := fieldAt bs 0 8, tl := fieldAt bs 10 1, mask := BitVec.ofNat 4 (fieldAt bs 11 1),
      rv := (if kind = .marker then 0 else fieldAt bs 12 1), scope := (if kind = .marker then fieldAt bs 12 1 else 0), len := fieldAt bs 32 8,
      dst := { sel := fieldAt bs 40 1, region := BitVec.ofNat 64 (fieldAt bs 44 2), addr := BitVec.ofNat 64 (fieldAt bs 16 8) },
      src := { sel := fieldAt bs 41 1, region := BitVec.ofNat 64 (fieldAt bs 46 2), addr := BitVec.ofNat 64 (fieldAt bs 24 8) }, chunks := List.range (fieldAt bs 48 4) }
/-- Copies of both contexts. -/
def copiesFrom (bs : List Byte) : List Copy := (List.range 32).filterMap fun i => copyFrom (slice bs (64 * i) 64)

/-- A descriptor read; it is its team's gang's. -/
def sdFrom (gang : Nat) (bs : List Byte) : StatDesc :=
  if natBit (fieldAt bs 17 1) 0 then { set := true, gang := gang, off := BitVec.ofNat 64 (fieldAt bs 0 8), voff := BitVec.ofNat 64 (fieldAt bs 8 8), cls := fieldAt bs 16 1, dtag := fieldAt bs 18 2 } else {}
/-- A queued operation read, with its batch; none where the record is empty. -/
def opFrom (gang : Nat) (bs : List Byte) : Option (Batch × MxOp) :=
  match MxKind.ofCode (fieldAt bs 0 1) with
  | none => none
  | some kind =>
    let f := fieldAt bs 7 1
    some ({ tile := fieldAt bs 1 1, isOpen := natBit f 2, rv := fieldAt bs 2 1, prio := fieldAt bs 3 1, tln := natBit f 1, tl := fieldAt bs 41 1, num := fieldAt bs 8 8 },
      { kind := kind, cls := fieldAt bs 4 1, ca := fieldAt bs 5 1, cb := fieldAt bs 6 1, a := BitVec.ofNat 64 (fieldAt bs 16 8), b := BitVec.ofNat 64 (fieldAt bs 24 8), c := BitVec.ofNat 64 (fieldAt bs 32 8),
        imm := fieldAt bs 40 1, tag := fieldAt bs 42 1, bs := natBit f 0, dtag := fieldAt bs 43 1,
        desc := if natBit f 3 then { set := true, gang := gang, off := BitVec.ofNat 64 (fieldAt bs 48 8), voff := BitVec.ofNat 64 (fieldAt bs 56 8), cls := fieldAt bs 45 1, dtag := fieldAt bs 44 1 } else {} })
/-- The open batch a tile state names. -/
def openFrom (tl : Cells Tl) (n : Nat) (bs : List Byte) : Option Batch :=
  let f := fieldAt bs 0 1
  let r := fieldAt bs 1 1
  let mx := ((List.range 8).find? fun i => (Cells.get {} tl i).owner == 3).getD 0
  if natBit f 4 then some { tile := n, rv := bits r 4 0, prio := bits r 6 5, tln := natBit f 5, tl := mx, num := fieldAt bs 2 6 } else none
/-- Batches of a record's matrix state: open ones, then those whose operations are queued, each with its operations in order and its status word. -/
def batchesFrom (tl : Cells Tl) (gang : Nat) (control mx : List Byte) : List Batch :=
  let ops := (List.range 16).filterMap fun i => opFrom gang (slice mx (0xC00 + 64 * i) 64)
  let opens := (List.range 10).filterMap fun n => openFrom tl n (slice mx (0x80 + 16 * n) 16)
  let shut := (ops.map Prod.fst).eraseDups.filter fun b => !b.isOpen
  let st (rv : Nat) := statusFrom (slice control (0x40 * rv + 32) 32)
  (shut ++ opens).map fun b =>
    let m := st b.rv
    { b with ops := (ops.filter fun x => x.1.rv == b.rv).map Prod.snd, status := m, skew := m.flags.getLsbD 1, stopped := m.flags.getLsbD 4 || m.flags.getLsbD 5 }

/-- A thread's state from its code. -/
def thStateFrom (n : Nat) : ThState := match n with | 0 => .pathed | 1 => .spilled | 2 => .parked | _ => .exited
/-- A thread read; an unadopted straggler joins group 0 (log 26). -/
def threadFrom (bs : List Byte) : Thread :=
  let g := fieldAt bs 22 1
  let meet := BitVec.ofNat 64 (fieldAt bs 8 8)
  { st := thStateFrom (fieldAt bs 21 1), pc := BitVec.ofNat 64 (fieldAt bs 0 8), meet := meet, vstat := BitVec.ofNat 32 (fieldAt bs 16 4) &&& 0x37F,
    strag := if natBit g 0 then some { group := 0, adopted := if natBit g 1 then some meet else none } else none }
/-- A path entry read. -/
def pathFrom (bs : List Byte) : Path :=
  if natBit (fieldAt bs 14 1) 0 then { valid := true, pc := BitVec.ofNat 64 (fieldAt bs 0 8), mask := BitVec.ofNat 32 (fieldAt bs 8 4), age := fieldAt bs 12 2 } else {}
/-- Predicates placed from bits. -/
def predsFrom (m : Cells Bool) (t lo n x : Nat) : Cells Bool := (List.range n).foldl (fun m i => Cells.set false m (8 * t + lo + i) (natBit x i)) m
/-- A handler save read; next is the unit after the trapping one. -/
def handlerFrom (w : Warp) (bs : List Byte) (next : W64 → W64) : HandlerSave :=
  let mask : W32 := BitVec.ofNat 32 (fieldAt bs 1136 8)
  let pc : W64 := BitVec.ofNat 64 (fieldAt bs 1144 8)
  { v := threads32.foldl (fun m t => (List.range 8).foldl (fun m i => Cells.set 0 m (64 * t + 56 + i) (BitVec.ofNat 32 (fieldAt bs (32 * t + 4 * i) 4))) m) [],
    s := (List.range 4).foldl (fun m i => Cells.set 0 m (28 + i) (BitVec.ofNat 64 (fieldAt bs (1024 + 8 * i) 8))) [],
    p := threads32.foldl (fun m t => predsFrom m t 4 3 (fieldAt bs (1056 + t) 1)) [],
    mask := mask, pc := pc, nextPc := next pc,
    entry := ((List.range 8).find? fun e => (w.entry e).valid && (w.entry e).mask &&& mask != 0).getD 0 }

/-- A thread read over what the part keeps of it while its PC is the same: its matches at a SYNCM, and, spilled, its arrival at a group and the access performed before a fault, and the numbers of its requests (R253, R341, R414). -/
def Thread.over (old new : Thread) : Thread := if old.pc = new.pc then { new with sync := old.sync, syncPk := old.syncPk, held := old.held, did := old.did, cnt := old.cnt, rng := old.rng, req := old.req } else new
/-- A path read over what the part keeps of it while it is the same path: its arrival at a group, and the accesses performed before a fault with their counts (R253, R341). -/
def Path.over (old new : Path) : Path :=
  if new.valid ∧ old.pc = new.pc ∧ old.mask = new.mask then { new with hold := old.hold.reissue, done := old.done, cnt := old.cnt, rng := old.rng } else new

/-- A warp read from its record over what the part keeps of it: its waits' progress, its private pages and high-water mark, and the region registers of its launch. -/
def warpFrom (old : Warp) (bs : List Byte) (next : W64 → W64) : Warp :=
  let c := fieldAt bs 0x2100 8
  let d := fieldAt bs 0x2108 8
  let ths := threads32.map fun t => threadFrom (slice bs (0x2200 + 32 * t) 32)
  let free := ths.any fun th => match th.strag with | some g => g.adopted.isNone | none => false
  let th := fun t => let x := (old.settlePcs.thread t).over (ths.getD t {}); if free && x.strag.isNone && x.st != .exited then { x with member := some 0 } else x
  let w : Warp := {
    present := true, ended := ths.all fun th => th.st == .exited,
    v := (List.range 64).foldl (fun m i => threads32.foldl (fun m t => Cells.set 0 m (64 * t + i) (BitVec.ofNat 32 (fieldAt bs (128 * i + 4 * t) 4))) m) [],
    s := (List.range 32).foldl (fun m i => Cells.set 0 m i (BitVec.ofNat 64 (fieldAt bs (0x2000 + 8 * i) 8))) [],
    q := (List.range 4).foldl (fun m i => Cells.set false m i (natBit c i)) [],
    p := threads32.foldl (fun m t => predsFrom m t 0 7 (fieldAt bs (0x2200 + 32 * t + 20) 1)) [],
    th := threads32.foldl (fun m t => Cells.set {} m t (th t)) [],
    path := (List.range 8).foldl (fun m e => Cells.set {} m e ((old.entry e).over (pathFrom (slice bs (0x2600 + 16 * e) 16)))) [],
    part := BitVec.ofNat 3 (bits c 6 4), ejt := BitVec.ofNat 4 (bits c 11 8), rjt := BitVec.ofNat 21 (bits c 52 32), mirOff := natBit c 56,
    spillAge := d % 65536, idem := if natBit d 16 then some (BitVec.ofNat 64 (fieldAt bs 0x2110 8)) else none, stragGroups := 1, rg := old.rg, hwm := old.hwm, pages := old.pages, idemMask := old.idemMask }
  if natBit d 17 then
    let t (i : Nat) : W64 := BitVec.ofNat 64 (fieldAt bs (0x2700 + 1088 + 8 * i) 8)
    { w with handler := some (handlerFrom w (slice bs 0x2700 1280) next), tcause := t 0, tpc := t 1, tinfo := t 2, tinfo2 := t 3, tmask := t 4, tstat := t 5 }
  else w

/-- The checks of a tile image at an offset of a record, each at the byte that it reads (R302, R370). -/
def tileChk (o : Nat) (bs : List Byte) : List Chk :=
  ((List.range 64).flatMap fun r =>
    let x := o + 5440 * r
    ((List.range 256).map fun j => let m := fieldAt bs (x + 5120 + j) 1; (x + 5120 + j, 0, decide (m % 16 ≤ 5 ∧ m / 16 ≤ 5)))
      ++ (x + 5376, 0, bits (fieldAt bs (x + 5376) 2) 14 10 == 0) :: zeroChk bs (x + 5378) 62 0 0)
  ++ (o + 349184, 0, decide (fieldAt bs (o + 349184) 1 ≤ 2)) :: zeroChk bs (o + 349185) 63 0 0

/-- The checks of a record for team t of a launch handle (R371), by ascending offset: {offset, item, holds}. -/
def recordChk (t : Team) (h : W64) (bs : List Byte) : List Chk :=
  let f (o n : Nat) := fieldAt bs o n
  let nt := f 0x1C 1
  let c (o : Nat) (ok : Bool) : Chk := (o, 0, ok)
  let warp (w : Nat) : List Chk :=
    let b := 0x2A00 + 11264 * w
    [c (b + 0x2100) (decide (f (b + 0x2100) 8 < 2 ^ 57) && bits (f (b + 0x2100) 8) 31 12 == 0 && bits (f (b + 0x2100) 8) 55 53 == 0 && natBit (f (b + 0x2100) 8) 7 == false),
     c (b + 0x2108) (decide (f (b + 0x2108) 8 < 2 ^ 18))]
    ++ zeroChk bs (b + 0x2118) 232 0 0
    ++ (threads32.flatMap fun i => let x := b + 0x2200 + 32 * i
        [c (x + 20) (decide (f (x + 20) 1 < 128)), c (x + 21) ([0, 1, 2, 4].contains (f (x + 21) 1)), c (x + 22) (decide (f (x + 22) 1 < 4))] ++ zeroChk bs (x + 24) 8 0 0)
    ++ ((List.range 8).flatMap fun e => [c (b + 0x2600 + 16 * e + 14) (decide (f (b + 0x2600 + 16 * e + 14) 1 < 2)), c (b + 0x2600 + 16 * e + 15) (f (b + 0x2600 + 16 * e + 15) 1 == 0)])
    ++ zeroChk bs (b + 0x2680) 128 0 0 ++ [c (b + 0x2B74) (f (b + 0x2B74) 4 == 0)] ++ zeroChk bs (b + 0x2B80) 128 0 0
  [c 0 (f 0 4 == 0x53544A46), c 4 (f 4 2 == 1), c 6 (decide (f 6 2 < 4)), c 8 (f 8 4 == recordSize t.wpt t.scrk nt), c 0xC (f 0xC 4 == t.num), c 0x10 (f 0x10 8 == h.toNat),
   c 0x18 (f 0x18 1 == t.wpt), c 0x19 (f 0x19 1 == t.pos), c 0x1A (f 0x1A 2 == t.scrk), c 0x1C (nt == ((List.range 10).filter fun n => bits (f (0x1A80 + 16 * n) 1) 1 0 == 1).length)]
  ++ zeroChk bs 0x1E 2 0 0 ++ zeroChk bs 0x28 216 0 0
  ++ ((List.range 24).flatMap fun n => [c (0x110 + 0x40 * n) (decide (f (0x110 + 0x40 * n) 1 < 16))] ++ zeroChk bs (0x111 + 0x40 * n) 15 0 0)
  ++ ((List.range 16).flatMap fun n => [c (0x705 + 0x20 * n) (decide (f (0x705 + 0x20 * n) 1 < 2))] ++ zeroChk bs (0x706 + 0x20 * n) 2 0 0 ++ zeroChk bs (0x714 + 0x20 * n) 12 0 0)
  ++ zeroChk bs 0x900 0x800 0 0
  ++ ((List.range 8).flatMap fun n => [c (0x111A + 32 * n) (decide (f (0x111A + 32 * n) 1 < 2))] ++ zeroChk bs (0x111B + 32 * n) 5 0 0)
  ++ ((List.range 32).flatMap fun i => let x := 0x1200 + 64 * i
      [c (x + 8) (f x 8 == 0 || (CopyKind.ofCode (f (x + 8) 1) (f (x + 9) 1)).isSome)] ++ zeroChk bs (x + 13) 3 0 0 ++ zeroChk bs (x + 42) 2 0 0 ++ zeroChk bs (x + 52) 12 0 0)
  ++ ((List.range 4).flatMap fun n => let x := 0x1A00 + 32 * n; [c (x + 17) (decide (f (x + 17) 1 < 2))] ++ zeroChk bs (x + 20) 12 0 0)
  ++ ((List.range 10).flatMap fun n => let x := 0x1A80 + 16 * n
      [c x (decide (f x 1 < 64) && bits (f x 1) 1 0 != 3 && bits (f x 1) 3 2 != 3), c (x + 1) (decide (f (x + 1) 1 < 128))])
  ++ zeroChk bs 0x1B20 0xE0 0 0
  ++ ((List.range 16).flatMap fun i => let x := 0x2600 + 64 * i
      [c x (f x 1 == 0 || (MxKind.ofCode (f x 1)).isSome), c (x + 7) (decide (f (x + 7) 1 < 16))] ++ zeroChk bs (x + 46) 2 0 0)
  ++ (List.range t.wpt).flatMap warp
  ++ (List.range nt).flatMap fun i => tileChk (0x2A00 + 11264 * t.wpt + 1024 * t.scrk + tileBytes * i) bs

/-- Numbers of a counter in (DONE, ISS] that no saved operation holds: complete already, and waiting their turn. -/
def Tl.fillEarly (c : Tl) (held : List Nat) : Tl :=
  if c.owner = 5 then c else { c with early := ((List.range (c.iss.toNat - c.done.toNat)).map (c.done.toNat + 1 + ·)).filter fun n => !held.contains n }

/-- Numbers that the operations of a team hold on counter n. -/
def Team.heldNums (t : Team) (n : Nat) : List Nat :=
  ((t.copies.filter fun c => c.tl == n).map Copy.num) ++ ((t.batch.filter fun b => b.tln && b.tl == n).map Batch.num) ++ ((t.nb.filter fun b => b.tl == n).map GsyncNb.num)

/-- A team with the values of its record, its tiles not yet bound; `tilesDue` holds their images (R371). Bits of TEVT that the record could not take while the team was saved are ORed in (R368). -/
def State.teamFrom (s : State) (k : Nat) (bs : List Byte) (next : W64 → W64) : Team :=
  let t := s.team k
  let gang := s.gangKey k
  let control := slice bs 0x100 4096
  let mx := slice bs 0x1A00 4096
  let tl := (List.range 8).foldl (fun m n => let o := slice bs (0x1100 + 32 * n) 32
    Cells.set {} m n { (tlFrom o) with cpyflt := if fieldAt o 26 1 = 1 then (t.tlAt n).cpyflt else [] }) []
  let b := batchesFrom tl gang control mx
  let held := (List.range 10).filter fun n => bits (fieldAt mx (0x80 + 16 * n) 1) 1 0 == 1
  let base := 0x2A00 + 11264 * t.wpt
  let img (i : Nat) : Tile := (tileFrom (slice bs (base + 1024 * t.scrk + tileBytes * i) tileBytes)).getD {}
  let terms (n : Nat) : Cells Nat := (List.range 64).foldl (fun m r => Cells.set 0 m r (fieldAt mx (0x200 + 256 * n + 4 * r) 4)) []
  let t := { t with
    warps := (List.range t.wpt).foldl (fun m w => Cells.set {} m w { (warpFrom (t.warp w) (slice bs (0x2A00 + 11264 * w) 11264) next) with idemAt := s.cyc - fieldAt bs 0x20 8 }) [],
    spad := spadFrom (slice bs base (1024 * t.scrk)), rv := (List.range 24).foldl (fun m n => Cells.set {} m n (rvFrom (slice control (0x40 * n) 32))) [],
    stat := (List.range 24).foldl (fun m n => Cells.set {} m n (if b.any fun x => x.rv == n then {} else statusFrom (slice control (0x40 * n + 32) 32))) [],
    ch := (List.range 16).foldl (fun m n => Cells.set {} m n (queueFrom (slice control (0x600 + 0x20 * n) 32))) [],
    tl := tl, tevt := BitVec.ofNat 8 (fieldAt bs 0x1D 1) ||| t.tevt, copies := copiesFrom (slice bs 0x1200 2048), batch := b,
    sd := (List.range 4).foldl (fun m n => Cells.set {} m n (sdFrom gang (slice mx (32 * n) 32))) [],
    tiles := (List.range 10).foldl (fun m n => let f := fieldAt mx (0x80 + 16 * n) 1
      Cells.set {} m n { evicted := bits f 1 0 == 2, image := BitVec.ofNat 64 (fieldAt mx (0x88 + 16 * n) 8), issue := bits f 3 2, terms := if bits f 1 0 = 2 then terms n else [] }) [], rvCyc := [],
    tilesDue := (List.range held.length).map fun i => (held.getD i 0, { (img i) with terms := terms (held.getD i 0) }) }
  { t with tl := (List.range 8).foldl (fun m n => Cells.modify {} m n fun c => let c := c.fillEarly (t.heldNums n); Tl.settle (c.early.length + 1) c) t.tl }

end Sys2Proof.Machine
end

