-- ==== Sys2Proof/Machine/TaskGraph.lean ====
section
/-! DEFINITION. The task graph's steps (spec/05 R93 to R108; spec/22 R416, R417): doorbells, fetching, event rings, completion, retirement, the curators' modes and VDCFG. -/

namespace Sys2Proof.Machine

open Sys2Proof

/-! Event rings (R105, R107, R409). -/

/-- The queue can take an entry. -/
def EvQueue.room (q : EvQueue) : Bool := q.en && decide ((q.tail - q.head).toNat < 2 ^ q.sz)

/-- A curator leaves guest mode (R114). -/
def State.exitGuest (s : State) (d : Nat) : State :=
  s.modDie d fun x => if x.cur.guest.isSome then { x with cur := { x.cur with guest := none, gpc := x.cur.pc, pc := x.cur.hpc } } else x

/-- Address of a queue's next entry (R105). -/
def EvQueue.slot (e : EvQueue) : Nat := e.base.toNat + 32 * (e.tail.toNat % 2 ^ e.sz)

/-- The oldest held event of queue q of die d enters its ring, by a write of that die's, and its MSI-X vector is raised; an entry of queue 16 ends guest mode. -/
def State.ring (s : State) (d q : Nat) : State :=
  let e := Cells.get {} (s.die d).queues q
  let s := if e.room && !e.held.isEmpty then s.settleChunk e.slot else s
  let e := Cells.get {} (s.die d).queues q
  match e.held with
  | [] => s
  | bs :: r =>
    if !e.room then s
    else
      let a := e.slot
      let s := (s.numberFrom d a []).backInvalidate a 32
      let s := { s with mem := writeBytes s.mem a bs, poison := s.poison.filter (· != a / 32), msix := s.msix ++ [17 * d + q] }
      let s := s.modDie d fun x => { x with queues := Cells.set {} x.queues q { e with tail := e.tail + 1, held := r } }
      if q = 16 then s.exitGuest d else s

/-- EVENT_POST (R107). -/
def execEventPost (die queue : Nat) (s : State) : Out := .next (s.ring die queue)

/-! Doorbells and fetching (R95 to R98). -/

/-- LISTERR to the owner's queue and the host's (R106). -/
def State.listErr (s : State) (v l : Nat) (val : W64) : State :=
  let d := ((s.vdev v).list l).hdie
  let arg := val.toNat % 2 ^ 32 + l * 2 ^ 32
  (s.post d v 0x12 v 0 0 arg).post d 16 0x12 v 0 0 arg

/-- LTAIL_WRITE (R95, R97, R445): ignored before READY; an accepted tail starts a stopped list again. -/
def execLtailWrite (vdev list : Nat) (val : W64) (s : State) : Out :=
  let x := (s.vdev vdev).list list
  let t : W32 := val.truncate 32
  if !s.bootstat.getLsbD 0 then .next s
  else if list = 15 ∨ ¬x.en ∨ ¬(t - x.tail).toNat < 2 ^ 31 ∨ ¬(t - x.head).toNat ≤ 2 ^ x.lsz then .next (s.listErr vdev list val)
  else .next (s.modList vdev list fun x => { x with tail := t, stalled := false })

/-- The 8-byte word of the BAR at an offset, a multiple of 8: BOOTSTAT, and, once READY, the identity block at 0x0100 and the doorbell pages, with LTAIL as last accepted and LHEAD (R95, R409, R445, R446, R449). -/
def State.ioRead (s : State) (off : Nat) : Nat :=
  let v := (off - 0x10000) / 0x1000
  let o := off % 0x1000
  if off = 0 then s.bootstat.toNat
  else if !s.bootstat.getLsbD 0 then 0
  else if 0x100 ≤ off ∧ off < 0x280 then fieldAt s.identity (off - 0x100) 8
  else if off < 0x10000 ∨ 0x20000 ≤ off ∨ o % 8 ≠ 0 then 0
  else if o < 0x80 then ((s.vdev v).list (o / 8)).tail.toNat
  else if 0x100 ≤ o ∧ o < 0x180 then ((s.vdev v).list ((o - 0x100) / 8)).head.toNat else 0

/-- TASK_FETCH (R96, R98); a frozen device fetches nothing (R436). -/
def execTaskFetch (vdev list : Nat) (s : State) : Out := if (s.vdev vdev).frozen || (s.die ((s.vdev vdev).list list).hdie).inReset then .next s else .next (s.fetchTask vdev list)

/-! Completion (R101 to R103, R107, R400). -/

/-- CNT of a completion block: the counters of classes 1 to 63 (R103). -/
def cntBytes (c : Cells ClsCnt) : List Byte :=
  (List.range 63).flatMap fun i => let x := Cells.get {} c (i + 1); leBytes 4 x.satc.toNat ++ leBytes 4 x.unfc.toNat ++ leBytes 4 x.evc.toNat

/-- The completion block, 832 bytes (R103, R400). -/
def State.block (s : State) (k : Nat) : List Byte :=
  let t := s.task k
  let u := t.trec.kind == 2
  leBytes 2 t.status ++ leBytes 2 0 ++ leBytes 4 t.trec.tag.toNat ++ leBytes 8 (s.handleOf k).toNat ++ leBytes 8 t.tstart.toNat ++ leBytes 8 t.tend.toNat ++ leBytes 4 t.nroll
    ++ (if u then leBytes 4 t.upd.nflags.toNat ++ leBytes 8 t.upd.written.length ++ leBytes 8 t.upd.nlog else List.replicate 20 0)
    ++ leBytes 8 t.foff ++ (if u then List.replicate 756 0 else cntBytes t.launch.cnt) ++ List.replicate 12 0

/-- The block is written where CADDR asks and all of it can be; CBLK tells that it could not. -/
def State.putBlock (s : State) (k : Nat) : Bool × State :=
  let t := s.task k
  if t.trec.caddr = 0 then (false, s)
  else match s.devWrite (taskDie k) t.vdev t.trec.caddr.toNat (s.block k) with
    | .ok s => (false, s)
    | .error _ => (true, s)

/-- The queue of a task's completion event can take it at once; until then the task keeps its entry (R107, log 36). -/
def State.canPost (s : State) (k : Nat) : Bool :=
  let e := Cells.get {} (s.die (taskDie k)).queues (s.task k).vdev
  e.held.isEmpty && e.room

/-- Positions that a task's SUCC entries name (R92). -/
def Task.edges (t : Task) : List Nat := (t.trec.succ.filter fun d => decide (1 ≤ d ∧ d ≤ 4095)).map fun d => (t.trec.seq + d) % 2 ^ 32

/-- PREEMPTED of a guest request whose last team has been handled (R363, R376). -/
def State.postPreempted (s : State) (k : Nat) : State :=
  let l := (s.task k).launch
  let c := l.preqCnt
  if l.preq then
    (s.postTask 0 (s.task k).vdev 0x44 k (c.1 + c.2.1 * 2 ^ 32 + c.2.2.1 * 2 ^ 64 + c.2.2.2 * 2 ^ 96)).modLaunch k fun l => { l with preq := false, noDispatch := false, preqCnt := (0, 0, 0, 0) }
  else s

/-- The block is written, COMPLETE posted, the edges delivered and the entry freed. A child that still waits for a task which will not retire ends with DEP.FAIL, as a successor does (R97, R102; DEDUCED, log 116). -/
def State.completeTask (s : State) (k : Nat) : State :=
  let t := s.task k
  let (cblk, s) := s.putBlock k
  let s := (s.postTask (taskDie k) t.vdev 0x10 k (t.status + 2 ^ 16 * b2n cblk)).ring (taskDie k) t.vdev
  let (kids, s) := s.orphanKids k
  let s := kids.foldl (fun s c => if (s.task c).st = .waiting then s.failTask c 0x305 else s) s
  let s := t.edges.foldl (fun s p => s.edge t.vdev t.list p (t.status == 0)) s
  let s := s.modList t.vdev t.list fun x => { x with notRetired := x.notRetired.filter (· != t.trec.seq) }
  s.leaveGraph k

/-- TASK_COMPLETE (R103): a finished update that R104 held retires first, and PREEMPTED of a guest request still open is posted first, as no team of it is left to handle. -/
def execTaskComplete (task : Nat) (s : State) : Out :=
  let t := s.task task
  if t.st = .running ∧ t.trec.kind = 2 ∧ t.upd.finished ∧ ¬t.stopped ∧ t.signallersDone then .next (s.retire task)
  else if (t.st = .retired ∨ t.st = .complete) ∧ t.launch.preq then .next (s.postPreempted task)
  else if (t.st = .retired ∨ t.st = .complete) ∧ s.canPost task then .next (s.completeTask task)
  else .next s

/-! Retirement of gangs and launches (R416, R417). -/

/-- Teams of a gang, placed or saved. -/
def State.gangTeams (s : State) (k g : Nat) : List Nat := s.teamKeys.filter fun t => (s.team t).task == k && (s.team t).gang == g

/-- Every warp of a team has ended and everything it issued is complete (R416). -/
def Team.idle (t : Team) : Bool := t.st == .ended && !t.halted && t.copies.isEmpty && t.nb.isEmpty && t.batch.all fun b => b.isOpen && b.ops.isEmpty

/-- A gang can retire. -/
def State.gangDone (s : State) (k g : Nat) : Bool := let ts := s.gangTeams k g; !ts.isEmpty && ts.all fun t => (s.team t).idle

/-- What a retiring team leaves to its launch: its counters' DONE, its run time, its place among the ended teams (R392, R364). -/
def State.retireTeam (s : State) (k : Nat) : State :=
  let t := s.team k
  let s := s.modLaunch t.task fun l => { l with
    tlDone := (List.range 8).foldl (fun m n => Cells.set 0 m (8 * t.num + n) (t.tlAt n).done) l.tlDone,
    runSum := l.runSum + (s.cyc - t.started), runCnt := l.runCnt + 1,
    preqCnt := if t.draining.isSome then (l.preqCnt.1, l.preqCnt.2.1 + 1, l.preqCnt.2.2.1, l.preqCnt.2.2.2) else l.preqCnt }
  s.removeTeam k

/-- GANG_RETIRE (R416): it gives a dispatch opportunity (R108). -/
def execGangRetire (task gang : Nat) (s : State) : Out :=
  if s.gangDone task gang then
    .next ((((s.gangTeams task gang).foldl State.retireTeam s).modLaunch task fun l => { l with retiredGangs := l.retiredGangs ++ [gang] }).opportune (taskDie task) (s.task task).vdev)
  else .next s

/-- A fault slot or request of a launch is held (R417). -/
def State.faultsOf (s : State) (k : Nat) : Bool :=
  let of (b : FaultBy) : Bool := match b with
    | .warp t _ _ | .form t _ _ | .copy t _ _ | .save t | .restore t => (s.team t).task == k
    | .rill c => (s.team (s.rill c).team).task == k
  s.dies.any fun d => d.2.fslots.any (fun x => of x.2.by_) || d.2.faultQ.any fun x => of x.by_

/-- A launch can retire: its gangs have, its writes are performed at their homes, no fault slot is held, and its signallers are done (R417, R104). -/
def State.launchDone (s : State) (k : Nat) : Bool :=
  let t := s.task k
  t.st == .running && !t.stopped && t.trec.kind == 1 && t.launch.stopping.isNone && decide (t.launch.retiredGangs.length = t.launch.adm.ngang)
  && !s.pend.any (fun p => p.task == k) && !s.cxl.any (fun c => c.pend.task == k) && !s.faultsOf k && t.signallersDone

/-- LAUNCH_RETIRE (R417). -/
def execLaunchRetire (task : Nat) (s : State) : Out := if s.launchDone task then .next (s.retire task) else .next s

/-! The curators' modes (R114) and VDCFG (R113). -/

/-- A write of GSTART by host-mode firmware. -/
def State.gstart (s : State) (d : Nat) (val : W64) : State :=
  let g := val &&& 0x10F
  s.modDie d fun x => { x with cur := if val.getLsbD 8 then { x.cur with gstart := g, guest := some (val.toNat % 16), pc := x.cur.gpc } else { x.cur with gstart := g } }

/-- GSTART_WRITE: host-mode firmware starts or resumes a guest's firmware at GPC. -/
def execGstartWrite (die : Nat) (val : W64) (s : State) : Out :=
  if (s.die die).inReset then .next s
  else match (s.die die).cur.guest with
  | some v => .next (s.csrViol die v 0x38 true)
  | none => .next (s.gstart die val)

/-- GEXIT_WRITE: guest code leaves guest mode by writing 1; only guest code writes it. -/
def execGexitWrite (die : Nat) (val : W64) (s : State) : Out :=
  if (s.die die).cur.guest.isSome && !(s.die die).inReset then
    let s := s.modDie die fun x => { x with cur := { x.cur with gexit := val } }
    .next (if val = 1 then s.exitGuest die else s)
  else .next s

/-- Fields of VDCFG. -/
def vdcfgMask : W64 := 0x00FF000700000001

/-- VDCFG_WRITE (R113): applied at the next switch tick. -/
def execVdcfgWrite (die vdev : Nat) (val : W64) (s : State) : Out :=
  let off := 0x800 + 8 * vdev
  if (s.die die).inReset then .next s
  else match (s.die die).cur.guest with
  | some v => .next (s.csrViol die v off true)
  | none =>
    let x := s.vdev vdev
    if bits val.toNat 55 48 ≠ 0 ∧ (x.saveSize = 0 ∨ x.snapSize = 0) then .next (s.csrViol die vdev off true)
    else .next (s.modVdev vdev fun x => { x with cfgW := val &&& vdcfgMask })

end Sys2Proof.Machine
end

