-- ==== Sys2Proof/Machine/Place.lean ====
section
/-! DEFINITION. Gang placement and team restoration (spec/05 R109 to R112, R116; spec/07 R151, R152; spec/18 R371). -/

namespace Sys2Proof.Machine

open Sys2Proof

/-! Room (R109, R110). -/

/-- PARTID of a cluster (R116). -/
def State.clusPart (s : State) (m : Nat) : Nat := bits (s.die (m / 18)).clpart.toNat (3 * (m % 18) + 2) (3 * (m % 18))
/-- Clusters that CLPART gives a partition (R116). -/
def State.partClusters (s : State) (p : Nat) : List Nat := (List.range 72).filter fun m => s.clusPart m == p
/-- Clusters of a partition on which gangs are placed: a die with WOPEN set, or in reset, takes none (R249). -/
def State.clustersOf (s : State) (p : Nat) : List Nat :=
  (s.partClusters p).filter fun m => !(s.die (m / 18)).galWopen && !(s.die (m / 18)).inReset
/-- A team stands on its core. -/
def Team.placed (t : Team) : Bool := t.st == .resident || t.st == .ended
/-- Teams of a core. -/
def State.onCore (s : State) (c : Nat) : List Nat := s.teamKeys.filter fun k => (s.team k).placed && (s.team k).core == c
/-- A core has room for one more team (R109). -/
def State.coreFits (s : State) (c wpt scrk : Nat) : Bool :=
  let ts := (s.onCore c).map s.team
  decide (ts.length < 16 ∧ ts.foldl (fun n t => n + t.wpt) wpt ≤ 32 ∧ ts.foldl (fun n t => n + t.scrk + 4) (scrk + 4) ≤ 1024)
/-- Positions of a gang fit a cluster from core position b. -/
def State.posFit (s : State) (a : Adm) (m b : Nat) (ps : List Nat) : Bool := ps.all fun i => s.coreFits (4 * m + b + i) a.wpt a.scrk

/-- Teams of a gang that wait to return. -/
def State.savedTeams (s : State) (k g : Nat) : List Nat := (s.gangTeams k g).filter fun t => (s.team t).st == .saved
/-- The gang of a launch placed next: a saved one before an unplaced one, each in ascending number (R111, R363). -/
def Launch.nextPlace (l : Launch) : Option (Nat × Bool) :=
  match l.saved with
  | g :: r => some (r.foldl min g, true)
  | [] => if l.nextGang < l.adm.ngang ∧ !l.noDispatch then some (l.nextGang, false) else none
/-- Clusters in the order a launch scans them: after the last one it used, wrapping round. -/
def rotate (l : List Nat) (last : Nat) : List Nat := l.filter (last ≤ ·) ++ l.filter (· < last)

/-- Where a gang fits: {cluster, b}. A gang some of whose teams stayed returns beside them, where a new gang could be placed (R116, R249). -/
def State.gangFit (s : State) (k g : Nat) (saved : Bool) : Option (Nat × Nat) :=
  let l := (s.task k).launch
  let a := l.adm
  let ps := if saved then (s.savedTeams k g).map fun t => (s.team t).pos else List.range a.tpg
  match (s.gangTeams k g).find? fun t => (s.team t).placed with
  | some t =>
    let c := (s.team t).core
    let b := c % 4 - (s.team t).pos
    if (s.clustersOf (s.vdev (s.task k).vdev).partId).contains (coreClus c) && s.posFit a (coreClus c) b ps then some (coreClus c, b) else none
  | none => (rotate (s.clustersOf (s.vdev (s.task k).vdev).partId) l.lastClus).findSome? fun m =>
      ((List.range (5 - a.tpg)).find? fun b => s.posFit a m b ps).map fun b => (m, b)

/-! Grouped launches (R112). -/

/-- A grouped launch has some gang placed, and some not. -/
def State.accumulates (s : State) (k : Nat) : Bool :=
  let t := s.task k
  t.launch.adm.kernel.grp && t.st == .running && (!t.launch.saved.isEmpty || decide (t.launch.nextGang < t.launch.adm.ngang)) && (s.teamsOf k).any fun x => (s.team x).placed
/-- Another grouped launch of the partition accumulates. -/
def State.groupBusy (s : State) (k : Nat) : Bool :=
  (Cells.keys s.tasks).any fun j => j != k && (s.vdev (s.task j).vdev).partId == (s.vdev (s.task k).vdev).partId && s.accumulates j
/-- Gangs that the clusters of a partition hold at once when every core is empty, whether or not a die takes gangs just now (R112). -/
def State.capacity (s : State) (a : Adm) (p : Nat) : Nat := (s.partClusters p).length * (4 / a.tpg) * min (32 / a.wpt) (min 16 (1024 / (a.scrk + 4)))
/-- A launch's teams may issue: its every gang is placed, where its kernel is grouped. -/
def Launch.whole (l : Launch) : Bool := !l.adm.kernel.grp || (l.saved.isEmpty && decide (l.adm.ngang ≤ l.nextGang))

/-! The choice (R111). -/

/-- A launch waits for placement. -/
def State.waitsPlace (s : State) (k : Nat) : Bool :=
  let t := s.task k
  t.trec.kind == 1 && (t.st == .dispatched || t.st == .running) && !t.stopped && t.launch.stopping.isNone && t.launch.nextPlace.isSome
/-- Launches of a virtual device that wait for placement, oldest first. -/
def State.placeQueue (s : State) (v : Nat) : List Nat := sortOn (fun k => (s.task k).order) ((Cells.keys s.tasks).filter fun k => (s.task k).vdev == v && s.waitsPlace k)
/-- Where a launch's next gang can go now. -/
def State.placeAt (s : State) (k : Nat) : Option (Nat × Bool × Nat × Nat) :=
  let l := (s.task k).launch
  if l.adm.kernel.grp && s.groupBusy k then none
  else match l.nextPlace with
    | none => none
    | some (g, saved) => (s.gangFit k g saved).map fun x => (g, saved, x.1, x.2)
/-- A virtual device's gangs are placed: it holds its slice, no switch is in progress and it is not frozen. -/
def State.placing (s : State) (v : Nat) : Bool := s.holdsSlice v && (s.part (s.vdev v).partId).switching.isNone && !(s.vdev v).frozen
/-- A launch's turn: every older one of its device waits in vain, and the oldest has been passed fewer than 64 times. -/
def State.placeTurn (s : State) (k : Nat) : Bool :=
  match s.placeQueue (s.task k).vdev with
  | [] => false
  | o :: r => o == k || (r.contains k && decide ((s.task o).launch.bypass < 64) && (o :: r).all fun j => decide ((s.task k).order ≤ (s.task j).order) || (s.placeAt j).isNone)

/-! New teams (R46, R151, R152, R252, R392). -/

/-- A warp as placement leaves it, but for its private pages (R151, R152). -/
def newWarp (a : Adm) : Warp :=
  { present := true, ejt := BitVec.ofNat 4 a.ejt, rjt := BitVec.ofNat 21 a.rjt, rg := (List.range 4).foldl (fun m i => Cells.set 0 m i (BitVec.ofNat 64 (bits a.rgn.toNat (16 * i + 15) (16 * i)))) [],
    path := Cells.set {} [] 0 { valid := true, pc := a.code + a.kernel.entry, mask := 0xFFFFFFFF } }
/-- Counters at BASE. -/
def newTl (a : Adm) : Cells Tl :=
  (List.range 8).foldl (fun m n => let d := a.tld.getD n (0, 0, 0); Cells.set {} m n { iss := d.1, done := d.1, base := d.1, scope := d.2.1, owner := d.2.2 }) []
/-- Issue numbers that NSIG took for a team before its placement (R392). -/
def heldNums (c : Cells Tl) (n : Nat) (hs : List (Nat × Nat × Nat × Bool)) : Cells Tl :=
  (hs.filter fun h => h.1 == n).foldl (fun c h => Cells.modify {} c h.2.1 fun x =>
    let x := { x with iss := x.iss + 1 }
    if h.2.2.2 then x.complete h.2.2.1 else x) c
/-- Team i of gang g on a core, the pages of PRIV appended to each warp's private page list (R152, R252). -/
def State.newTeam (s : State) (k g i core : Nat) : State :=
  let l := (s.task k).launch
  let a := l.adm
  let n := g * a.tpg + i
  let t : Team := { st := .resident, task := k, vdev := (s.task k).vdev, gang := g, pos := i, num := n, core := core, wpt := a.wpt, tpg := a.tpg, scrk := a.scrk,
                    warps := (List.range a.wpt).foldl (fun m w => Cells.set {} m w (newWarp a)) [], tl := heldNums (newTl a) n l.heldNsig, started := s.cyc }
  let s := { (s.modLaunch k fun l => { l with heldNsig := l.heldNsig.filter fun h => h.1 != n }) with teams := Cells.set {} s.teams s.nextTeam t, nextTeam := s.nextTeam + 1 }
  (List.range a.wpt).foldl (fun s w => s.addPages (s.nextTeam - 1) w ((a.priv + 2047) / 2048)) s

/-! Restoration (R371). -/

/-- RESTFAIL to the launch's queue and the host's, and the launch is killed. -/
def State.restFail (s : State) (k off : Nat) : State :=
  let t := s.team k
  let d := coreDie t.core
  let arg := t.num + off * 2 ^ 32
  ((s.postTask d t.vdev 0x46 t.task arg).postTask d 16 0x46 t.task arg).killLaunch t.task
/-- The unit after the one at a PC, for a handler save. -/
def State.nextUnit (s : State) (v : Nat) (pc : W64) : W64 := match s.translate v (pcLine pc) false true with | .ok (pa, _) => unitNext (readBytes s.mem pa 64) pc | .error _ => pcNext pc 1
/-- A restored team's tiles are bound, in its turn and all at once, and their images loaded. -/
def State.restoreTiles (s : State) (k : Nat) : State :=
  let t := s.team k
  let m := coreClus t.core
  match t.tileTicket with
  | none => s
  | some n =>
    if (s.malcLine m).head? ≠ some n ∨ (s.freeTiles m).length < t.tilesDue.length then s
    else
      let old := t.tiles
      let s := (s.modEngine m fun e => { e with malcWait := e.malcWait.filter (· != n) }).bindTiles k (t.tilesDue.map Prod.fst)
      let s := t.tilesDue.foldl (fun s x => match (s.team k |>.tileAt x.1).held with
        | some p => s.modEngine m fun e => { e with tiles := Cells.set {} e.tiles p { x.2 with owner := (Cells.get {} e.tiles p).owner } }
        | none => s) s
      s.modTeam k fun t => { t with tilesDue := [], tileTicket := none, tiles := t.tilesDue.foldl (fun l x => Cells.modify {} l x.1 fun y => { y with issue := (Cells.get {} old x.1).issue }) t.tiles }
/-- A restored team with tile images joins the cluster's MALC waiters. -/
def State.queueTiles (s : State) (k : Nat) : State :=
  let t := s.team k
  if t.tilesDue.isEmpty then s
  else
    let m := coreClus t.core
    let n := (s.engine m).malcNext
    ((s.modEngine m fun e => { e with malcWait := e.malcWait ++ [n], malcNext := n + 1 }).modTeam k fun t => { t with tileTicket := some n }).restoreTiles k
/-- Every warp of a team has ended. -/
def Team.allEnded (t : Team) : Bool := (List.range t.wpt).all fun w => (t.warp w).ended
/-- The record of a placed team is read; a fault of the read takes a slot and the restore waits (R360); an unreachable peer, of which R255 has no TFAULT, is RESTFAIL at offset 0 (log 119). -/
def State.restoreTeam (s : State) (k : Nat) : State :=
  let t := s.team k
  match t.record with
  | none => (s.modTeam k fun t => { t with halted := false, st := if t.allEnded then .ended else .resident }).queueTiles k
  | some (a, n) =>
    match s.devRead (coreDie t.core) t.vdev a n with
    | .error .xbar => s.restFail k 0
    | .error f =>
      let slot : FSlot := { used := true, by_ := .restore k, kind := f.kind, va := a, cause := f.cause, pa := (match f with | .poison p _ => p | _ => 0), walk := (match f with | .poison _ w => w | _ => false) }
      s.modDie (coreDie t.core) fun x => { x with faultQ := x.faultQ ++ [slot] }
    | .ok (bs, s) =>
      match firstBad (recordChk t (s.handleOf t.task) bs) with
      | some (off, _) => s.restFail k off
      | none =>
        let t := s.teamFrom k bs (s.nextUnit t.vdev)
        (s.modTeam k fun _ => { t with record := none, halted := false, asked := false, st := if t.allEnded then .ended else .resident }).queueTiles k
/-- A saved team stands on a core; a flushed one is ready at once. -/
def State.returnTeam (s : State) (k core : Nat) : State :=
  if (s.team k).st ≠ .saved then s else (s.modTeam k fun t => { t with st := .resident, core := core, halted := true, started := s.cyc - t.started }).restoreTeam k

/-! GANG_PLACE. -/

/-- A gang is placed on a cluster from core position b. -/
def State.placeGang (s : State) (k g : Nat) (saved : Bool) (m b : Nat) : State :=
  let first := (s.task k).st == .dispatched
  let old := (s.placeQueue (s.task k).vdev).head?
  let s := match old with
    | some o => s.modLaunch o fun l => { l with bypass := if o = k then 0 else l.bypass + 1 }
    | none => s
  let s := s.modTask k fun t => { t with st := .running, tstart := if first then s.ns else t.tstart }
  let s := s.modLaunch k fun l => { l with
    lastClus := m + 1, firstDie := if !saved && g == 0 then m / 18 else l.firstDie,
    saved := if saved then l.saved.filter (· != g) else l.saved, nextGang := if saved then l.nextGang else l.nextGang + 1 }
  if saved then (s.savedTeams k g).foldl (fun s t => s.returnTeam t (4 * m + b + (s.team t).pos)) s
  else (List.range (s.task k).launch.adm.tpg).foldl (fun s i => s.newTeam k g i (4 * m + b + i)) s

/-- Teams of a launch that wait for tiles, in their turn with room. -/
def State.tilesServed (s : State) (k : Nat) : Option Nat :=
  (s.teamsOf k).find? fun t => let x := s.team t
    (match x.tileTicket with | some n => (s.malcLine (coreClus x.core)).head? == some n | none => false) && decide (x.tilesDue.length ≤ (s.freeTiles (coreClus x.core)).length)

/-- GANG_PLACE (R110 to R112, R371). -/
def execGangPlace (task : Nat) (s : State) : Out :=
  match s.tilesServed task with
  | some t => .next (s.restoreTiles t)
  | none =>
    let t := s.task task
    let a := t.launch.adm
    if !s.waitsPlace task || !s.placing t.vdev || !s.placeTurn task then .next s
    else if t.st = .dispatched ∧ a.kernel.grp ∧ s.capacity a (s.vdev t.vdev).partId < a.ngang then .next (s.failTask task 0x304)
    else match s.placeAt task with
      | some (g, saved, m, b) => .next (s.placeGang task g saved m b)
      | none => .next s

end Sys2Proof.Machine
end

