-- ==== Sys2Proof/Machine/Switch.lean ====
section
/-! DEFINITION. Time sharing and pre-emption (spec/05 R113 to R115; spec/18 R363 to R368, R375, R376, R453): saving and flushing teams, slice ends, guest requests and TEVPOST. -/

namespace Sys2Proof.Machine

open Sys2Proof

/-! SAVEPOOL (R453). -/

/-- Ranges of the records that a virtual device's teams hold. -/
def State.heldRanges (s : State) (v : Nat) : List (Nat × Nat) := s.teams.filterMap fun c => if c.2.vdev = v then c.2.record else none
/-- The next 64-byte boundary. -/
def poolUp (a : Nat) : Nat := (a + 63) / 64 * 64
/-- The free stretches of a device's pool, {start, end}, each from a 64-byte boundary. -/
def State.poolGaps (s : State) (v : Nat) : List (Nat × Nat) :=
  let x := s.vdev v
  let held := s.heldRanges v
  let lo := x.saveBase.toNat
  let hi := lo + x.saveSize.toNat
  let starts := (sortOn id ((lo :: held.map fun r => r.1 + r.2).map poolUp)).eraseDups
  (starts.map fun a => (a, (held.filter fun r => decide (a < r.1 + r.2)).foldl (fun m r => min m r.1) hi)).filter fun g => decide (lo ≤ g.1 ∧ g.1 < g.2)
/-- Ranges at once for several records {team, size} in free stretches, where any assignment gives every one a range. -/
def allocIn (gaps : List (Nat × Nat)) : List (Nat × Nat) → Option (List (Nat × Nat))
  | [] => some []
  | (k, n) :: r => (List.range gaps.length).findSome? fun i =>
    let g := gaps.getD i (0, 0)
    if g.1 + n ≤ g.2 then (allocIn (gaps.set i (poolUp (g.1 + n), g.2)) r).map fun l => (k, g.1) :: l else none
/-- The records of halted teams of a device are all given a range, or none is. -/
def State.allocAll (s : State) (ts : List Nat) : Option State :=
  match ts with
  | [] => some s
  | k :: _ => (allocIn (s.poolGaps (s.team k).vdev) (ts.map fun k => (k, (s.team k).recordSize))).map fun l =>
      l.foldl (fun s x => s.modTeam x.1 fun t => { t with record := some (x.2, t.recordSize) }) s
/-- A team's record is written to its range (R360: a fault takes a slot, once; an unreachable peer, of which R255 has no TFAULT, takes none: log 119); one that was still to be read stands there already. -/
def State.writeRecord (s : State) (k : Nat) : Except State State :=
  let t := s.team k
  match t.record with
  | none => .ok s
  | some (a, _) =>
    if s.restoring k then .ok s
    else match s.devWrite (coreDie t.core) t.vdev a (s.recordOf k) with
    | .ok s => .ok s
    | .error .xbar => .error s
    | .error f =>
      let slot : FSlot := { used := true, by_ := .save k, kind := f.kind, va := a, cause := f.cause, pa := (match f with | .poison p _ => p | _ => 0), walk := (match f with | .poison _ w => w | _ => false) }
      .error (s.modDie (coreDie t.core) fun x => { x with faultQ := x.faultQ ++ [slot] })
/-- A save fault of a team waits for its slot or its action. -/
def State.saveFault (s : State) (k : Nat) : Bool :=
  let of (b : FaultBy) : Bool := match b with | .save t => t == k | _ => false
  s.dies.any fun d => d.2.fslots.any (fun x => of x.2.by_) || d.2.faultQ.any fun x => of x.by_

/-! Leaving a core. -/

/-- A team leaves its core and waits to be placed again, with its gang. -/
def State.vacate (s : State) (k : Nat) (f : Team → Team) : State :=
  let t := s.team k
  let s := s.removeTeam k
  let s := { s with teams := Cells.set {} s.teams k (f { t with st := .saved, halted := false, asked := false, draining := none, tileTicket := none, started := s.cyc - t.started }) }
  s.modLaunch t.task fun l => { l with saved := if l.saved.contains t.gang then l.saved else l.saved ++ [t.gang] }
/-- A saved team's warps reissue what their paths waited in. -/
def Team.reissue (t : Team) : Team := { t with warps := t.warps.map fun w => (w.1, w.2.reissue) }
/-- A team whose record is written is saved; its TEVT stands in the record. -/
def State.saveOut (s : State) (k : Nat) : State := s.vacate k fun t => { t.reissue with tilesDue := [], tevt := 0 }
/-- A team is saved with no record in the pool: the part keeps it whole (log 29). -/
def State.stash (s : State) (k : Nat) : State :=
  let due := (s.team k).heldTiles.map fun n => (n, { (s.tileVal k n) with owner := none })
  s.vacate k fun t => { t.reissue with record := none, tilesDue := due, tiles := t.tiles.map fun c => (c.1, { c.2 with held := none }) }

/-- Fresh values that the spec leaves open (log 28). -/
def State.fresh (s : State) : W64 × State := (Config.freeWord s.free, { s with free := s.free + 1 })
/-- A warp at a FLUSH restart (R190): one path at the region entry. q0 to q3 and VSTAT, which the spec does not give, are free values. -/
def State.flushWarp (s : State) (k w : Nat) : State :=
  let x := s.warp k w
  if x.ended then s
  else
    let l := (s.task (s.team k).task).launch
    let (fq, s) := s.fresh
    let base := s.free
    let s := { s with free := s.free + 32 }
    let live := maskList x.idemMask
    let n := newWarp l.adm
    let th := threads32.foldl (fun m t => Cells.set {} m t ({ st := if live.contains t then .pathed else .exited, vstat := (Config.freeWord (base + t)).truncate 32 &&& 0x37F } : Thread)) []
    s.modWarp k w fun x => { n with
      th := th, q := (List.range 4).foldl (fun m i => Cells.set false m i (fq.getLsbD i)) [], hwm := x.hwm, pages := x.pages,
      path := Cells.set {} [] 0 { valid := true, pc := x.idem.getD 0, mask := x.idemMask } }
/-- FLUSH (R365): the team restarts at its region entry when it is placed again. -/
def State.flushTeam (s : State) (k : Nat) : State :=
  let s := s.haltTeam k
  let s := (List.range (s.team k).wpt).foldl (fun s w => s.flushWarp k w) s
  s.vacate k fun t => { t with
    record := none, spad := [], rv := [], rvCyc := [], ch := [], stat := [], tevt := 0, copies := [], batch := [], nb := [], rangeCls := [], tiles := [], sd := [], tilesDue := [],
    tl := t.tl.map fun c => (c.1, { c.2 with done := c.2.iss, early := [] }) }

/-! Slice ends (R115, R366, R367). -/

/-- A virtual device is runnable (R115). -/
def State.runnable (s : State) (v : Nat) : Bool :=
  (s.vdev v).weight != 0 && s.tasks.any fun c => c.2.vdev == v && (c.2.st == .ready || c.2.st == .dispatched || c.2.st == .running)
/-- Virtual devices of a partition. -/
def State.partVdevs (s : State) (p : Nat) : List Nat := (List.range 16).filter fun v => (s.vdev v).partId == p
/-- Runnable devices of a partition. -/
def State.partRunnable (s : State) (p : Nat) : List Nat := (s.partVdevs p).filter s.runnable
/-- SUMW of a partition. -/
def State.sumW (s : State) (p : Nat) : Nat := (s.partRunnable p).foldl (fun n v => n + (s.vdev v).weight) 0
/-- Credits before a choice. -/
def State.creditAll (s : State) (p : Nat) : State :=
  (s.partVdevs p).foldl (fun s v => s.modVdev v fun x => if s.runnable v then { x with credit := x.credit + x.weight } else { x with credit := 0, defer := false }) s
/-- The device that a partition chooses: the deferred one, else the greatest credit, the lowest number on ties. -/
def State.chooseVdev (s : State) (p : Nat) : Option Nat :=
  let rs := s.partRunnable p
  match rs.find? fun v => (s.vdev v).defer with
  | some v => some v
  | none => rs.foldl (fun b v => match b with | none => some v | some u => if (s.vdev u).credit < (s.vdev v).credit then some v else some u) none
/-- Placed teams of a virtual device. -/
def State.placedOf (s : State) (v : Nat) : List Nat := s.teamKeys.filter fun k => (s.team k).vdev == v && (s.team k).placed
/-- Outgoing teams of a partition: the holder's. -/
def State.outgoing (s : State) (p : Nat) : List Nat := match (s.part p).holder with | some h => s.placedOf h | none => []
/-- Dies of a partition. -/
def State.partDies (s : State) (p : Nat) : List Nat := (List.range 4).filter fun d => (List.range 18).any fun i => s.clusPart (18 * d + i) == p
/-- A team at a slice end is flushed and not saved (R363). -/
def State.flushesAtEnd (s : State) (k : Nat) : Bool :=
  let t := s.team k
  t.region.isSome && (s.die (coreDie t.core)).flesc.getLsbD t.vdev
/-- The incoming device takes the slice, a dispatch opportunity on every die (R108, R115, R366). -/
def State.takeSlice (s : State) (p : Nat) (w : Option Nat) (sum : Nat) : State :=
  let old := (s.part p).holder
  let s := s.modPart p fun x => { x with holder := w, switching := none, missed := [] }
  let opp (v n : Nat) (m : Cells Nat) : Cells Nat := (List.range 4).foldl (fun m d => Cells.set 0 m (16 * d + v) n) m
  let s := match old with | some v => { s with opps := opp v 0 s.opps } | none => s
  let s := match w with | some v => { s with opps := opp v (b2n !s.gdisp v) s.opps } | none => s
  let s := (s.partDies p).foldl (fun s d => s.modDie d fun x => { x with swConsec := 0 }) s
  match w with
  | some v => s.modVdev v fun x => { x with credit := x.credit - sum, defer := false }
  | none => s
/-- One more team handled by a guest request: saved, drained, flushed, resumed (R363). -/
def State.preqCount (s : State) (k : Nat) (f : Nat × Nat × Nat × Nat → Nat × Nat × Nat × Nat) : State := s.modLaunch k fun l => { l with preqCnt := f l.preqCnt }
/-- One more saved. -/
def cntSaved (c : Nat × Nat × Nat × Nat) : Nat × Nat × Nat × Nat := (c.1 + 1, c.2)
/-- One more flushed. -/
def cntFlushed (c : Nat × Nat × Nat × Nat) : Nat × Nat × Nat × Nat := (c.1, c.2.1, c.2.2.1 + 1, c.2.2.2)
/-- One more resumed. -/
def cntResumed (c : Nat × Nat × Nat × Nat) : Nat × Nat × Nat × Nat := (c.1, c.2.1, c.2.2.1, c.2.2.2 + 1)
/-- A guest request has not handled a team yet: it saves it, or lets it drain. -/
def Team.inRequest (t : Team) : Bool := t.asked || t.draining.isSome
/-- A halted team leaves its core: saved when it has a record, else flushed. A guest request that has still to handle it counts it so (R363, log 29). -/
def State.leave (s : State) (k : Nat) : State :=
  let t := s.team k
  let s := if t.inRequest then s.preqCount t.task (if t.record.isSome then cntSaved else cntFlushed) else s
  if s.restoring k then s.vacate k id else if t.record.isSome then s.saveOut k else s.flushTeam k
/-- Some team still awaits completions of copy chunks that are in flight (R363, R411). -/
def State.chunksOut (s : State) (ts : List Nat) : Bool := ts.any fun k => (s.team k).chunksOut
/-- A switch starts (R366): outgoing teams halt and their records are given ranges; without room for all of them every die with a record to write misses (R367). One that is still to be read has none to write. -/
def State.startSwitch (s : State) (p : Nat) (w : Option Nat) (sum : Nat) : State :=
  let ts := s.outgoing p
  if ts.isEmpty then s.takeSlice p w sum
  else
    let s := ts.foldl State.haltTeam s
    let save := ts.filter fun k => !s.flushesAtEnd k && (s.team k).record.isNone
    let s := s.modPart p fun x => { x with switching := some (w, sum), deadline := s.ns.toNat + 50000, missed := [] }
    match s.allocAll save with
    | some s => s
    | none => s.modPart p fun x => { x with missed := ((ts.filter fun k => !s.flushesAtEnd k && !s.restoring k).map fun k => coreDie (s.team k).core).eraseDups }
/-- A partition's choice at a tick. -/
def State.tickPart (s : State) (p : Nat) : State :=
  if (s.part p).switching.isSome then s
  else
    let s := s.creditAll p
    let w := s.chooseVdev p
    let sum := s.sumW p
    if w = (s.part p).holder then (match w with | some v => s.modVdev v fun x => { x with credit := x.credit - sum } | none => s)
    else s.startSwitch p w sum
/-- SWITCH_TICK (R113 to R115), when its time has come. -/
def execSwitchTick (s : State) : Out :=
  if s.ns.toNat < s.nextTick then .next s
  else
    let s := { s with nextTick := s.nextTick + s.swtick * 1000 }
    let s := (List.range 4).foldl State.exitGuest s
    let s := { s with vdevs := s.vdevs.map fun c => (c.1, { c.2 with cfg := c.2.cfgW }) }
    .next ((List.range 8).foldl State.tickPart s)
/-- PARTITION_CHOOSE (R115): a holder that is not runnable gives up its slice; a partition without one chooses at once. -/
def execPartitionChoose (part : Nat) (s : State) : Out :=
  let x := s.part part
  if x.switching.isSome then .next s
  else
    let gone := match x.holder with | some h => !s.runnable h && (s.placedOf h).isEmpty | none => false
    let s := if gone then s.modPart part fun x => { x with holder := none } else s
    if (s.part part).holder.isSome ∨ (s.partRunnable part).isEmpty then .next s
    else
      let s := s.creditAll part
      .next (s.startSwitch part (s.chooseVdev part) (s.sumW part))

/-- Records of a switch written in turn, until one meets a fault. -/
def State.writeRecords (s : State) : List Nat → Except State State
  | [] => .ok s
  | k :: r => match s.writeRecord k with | .ok s => s.writeRecords r | .error s => .error s
/-- SWITCH_COMMIT (R366): every record is performed before the deadline. -/
def execSwitchCommit (part : Nat) (s : State) : Out :=
  let x := s.part part
  match x.switching with
  | none => .next s
  | some (w, sum) =>
    let ts := s.outgoing part
    if !x.missed.isEmpty || decide (x.deadline ≤ s.ns.toNat) || ts.any s.saveFault || s.chunksOut ts then .next s
    else
      match s.writeRecords ts with
      | .error s => .next s
      | .ok s => .next ((ts.foldl State.leave s).takeSlice part w sum)
/-- SWMISS of a die (R367, R376). -/
def State.swMiss (s : State) (v d : Nat) : State :=
  let s := s.modDie d fun x => { x with swConsec := min 255 (x.swConsec + 1), swTotal := satAdd32 x.swTotal 1 }
  s.post d 16 0x43 v 0 0 ((s.die d).swConsec + v * 2 ^ 8 + d * 2 ^ 12)
/-- A team halted for a missed switch resumes; one that a guest request saves stays halted, its record's range kept (R363, R367), and so does one that waits to be restored. -/
def State.missTeam (s : State) (k : Nat) : State :=
  if (s.team k).asked || s.restoring k then s else (s.freeFaults fun b => b == .save k).modTeam k fun t => { t with record := none, halted := false }
/-- SWITCH_DEADLINE_MISS (R367, R115): at the deadline, or at once where no room or a save fault has decided it. The named dies have not performed their writes; with none named no die has, as records are performed with the commit. -/
def execSwitchDeadlineMiss (part : Nat) (dies : List Nat) (s : State) : Out :=
  let x := s.part part
  match x.switching, x.holder with
  | some (w, sum), some h =>
    if x.missed.isEmpty && decide (s.ns.toNat < x.deadline) then .next s
    else
      let ts := s.outgoing part
      let writing := ((ts.filter fun k => (s.team k).record.isSome && !s.restoring k).map fun k => coreDie (s.team k).core).eraseDups
      let named := dies.filter writing.contains
      let ds := (if x.missed.isEmpty && named.isEmpty then writing else x.missed ++ named).eraseDups
      let s := ts.foldl State.missTeam s
      let s := (sortOn id ds).foldl (fun s d => s.swMiss h d) s
      let s := s.modVdev h fun y => { y with credit := y.credit - sum }
      let s := match w with | some v => s.modVdev v fun y => { y with defer := true } | none => s
      .next (s.modPart part fun x => { x with switching := none, missed := [] })
  | _, _ => .next s

/-! Guest requests (R363, R364). -/

/-- A switch is in progress in a team's partition. -/
def State.inSwitch (s : State) (k : Nat) : Bool := (s.part (s.vdev (s.team k).vdev).partId).switching.isSome
/-- A team that a request cannot save resumes for lack of room or after a save fault; halted by a switch in progress, it resumes with that. -/
def State.preqResume (s : State) (k : Nat) : State :=
  let stay := s.inSwitch k
  (s.modTeam k fun t => { t with halted := stay && t.halted, record := if stay then t.record else none, asked := false, draining := none }).preqCount (s.team k).task cntResumed
/-- A team is halted, where a switch has not halted it, and its record given a range. -/
def State.preqSave (s : State) (k : Nat) : State :=
  let s := (if (s.team k).halted then s else s.haltTeam k).modTeam k fun t => { t with draining := none, asked := true }
  if (s.team k).record.isSome then s else match s.allocAll [k] with | some s => s | none => s.preqResume k
/-- A team is flushed at its region. -/
def State.preqFlush (s : State) (k : Nat) : State :=
  let j := (s.team k).task
  if (s.team k).region.isSome then (s.flushTeam k).preqCount j cntFlushed else s.preqSave k
/-- A team runs on until it retires, or until a cyc (0 for none). -/
def State.preqDrain (s : State) (k deadline : Nat) : State :=
  (s.modTeam k fun t => { t with draining := some deadline }).modLaunch (s.team k).task fun l => { l with noDispatch := true }
/-- AUTO's choice (R364): 0 SAVE, 1 DRAIN, 2 FLUSH. -/
def State.autoChoice (s : State) (k : Nat) : Nat :=
  let t := s.team k
  let l := (s.task t.task).launch
  let save := t.recordSize
  let b := l.adm.latb * s.power.f
  let run := s.cyc - t.started
  let region := t.region.isSome
  -- D is the mean run time less this team's; it and save_t = S / 64 are compared without rounding
  if l.runCnt ≠ 0 ∧ 64 * (l.runSum : Int) ≤ l.runCnt * (save + 64 * run) ∧ (l.runSum : Int) ≤ l.runCnt * (b + run) then 1
  else if region ∧ 64 * t.sinceEntry s.cyc ≤ 2 * save then 2
  else if save ≤ 64 * b then 0
  else if region then 2 else 0
/-- One team of a guest request, by the launch's PMODE; one that a request handles already is passed over. -/
def State.preqTeam (s : State) (k : Nat) : State :=
  let l := (s.task (s.team k).task).launch
  if (s.team k).inRequest then s
  else match l.adm.pmode with
    | 0 => (match s.autoChoice k with | 1 => s.preqDrain k (s.cyc + l.adm.latb * s.power.f) | 2 => s.preqFlush k | _ => s.preqSave k)
    | 1 => s.preqSave k
    | 2 => s.preqDrain k 0
    | _ => s.preqFlush k
/-- PREQ_WRITE (R363, R375): a stale handle is ignored, and so is one whose task is no running launch. -/
def execPreqWrite (die : Nat) (val : W64) (s : State) : Out :=
  let keep (s : State) : State := { s with preq := val }
  .next (s.guestTask die 0x2680 val (fun k =>
    if (s.task k).trec.kind = 1 ∧ (s.task k).st = .running then
      let s := (keep s).modLaunch k fun l => { l with preq := true }
      ((s.teamsOf k).filter fun t => (s.team t).placed).foldl State.preqTeam s
    else keep s) (keep s))
/-- DRAIN_TIMEOUT (R364). -/
def execDrainTimeout (team : Nat) (s : State) : Out :=
  match (s.team team).draining with
  | some (n + 1) => if n + 1 ≤ s.cyc ∧ (s.team team).placed ∧ ¬(s.team team).halted then .next (s.preqSave team) else .next s
  | _ => .next s
/-- Teams of a request whose records are to be written. -/
def State.preqWriting (s : State) (k : Nat) : List Nat := (s.teamsOf k).filter fun t => (s.team t).placed && (s.team t).asked
/-- Teams of a launch still draining. -/
def State.preqDraining (s : State) (k : Nat) : Bool := (s.teamsOf k).any fun t => (s.team t).draining.isSome
/-- GUEST_REQUEST_SAVE_DONE (R363): a request's records are performed, a team whose record cannot be written without a slot resumes (log 119), and PREEMPTED posted when its last team has been handled. -/
def execGuestRequestSaveDone (task : Nat) (s : State) : Out :=
  if !(s.task task).launch.preq || (s.part (s.vdev (s.task task).vdev).partId).switching.isSome then .next s
  else
    match (s.preqWriting task).filter fun k => !s.saveFault k && !(s.team k).chunksOut with
    | k :: _ =>
      (match s.writeRecord k with
       | .ok s => .next (s.leave k)
       | .error s => .next (if s.saveFault k then s else s.preqResume k))
    | [] => if (s.preqWriting task).isEmpty && !s.preqDraining task then .next (s.postPreempted task) else .next s

/-! TEVPOST (R359, R375). -/

/-- Bits are ORed into a team's TEVT, in its record while that is saved, or beside it where the record cannot take them (R368). A set bit ends a PAUSE (R357). -/
def State.orTevt (s : State) (k : Nat) (b : BitVec 8) : State :=
  let t := s.team k
  let keep := s.modTeam k fun t => { t with tevt := t.tevt ||| b }
  match t.st, t.record with
  | .saved, some (a, _) =>
    (match s.devRead (taskDie t.task) t.vdev (a + 0x1D) 1 with
     | .error _ => keep
     | .ok (bs, s) => match s.devWrite (taskDie t.task) t.vdev (a + 0x1D) (leBytes 1 (fieldAt bs 0 1 ||| b.toNat)) with | .ok s => s | .error _ => keep)
  | _, _ => if b = 0 then s else keep.wakePause k
/-- TEVPOST_WRITE (R375): the target is the launch that TEVLNCH names. -/
def execTevpostWrite (die : Nat) (val : W64) (s : State) : Out :=
  .next (s.guestTask die 0x27A8 (s.die die).tevlnch (fun k =>
    match s.teamNo k (bits val.toNat 57 32) with
    | some t => s.orTevt t (val.truncate 8)
    | none => s) s)

end Sys2Proof.Machine
end

