-- ==== Sys2Proof/Machine/Sync.lean ====
section
/-! DEFINITION. Fences, rendezvous, queues, matched synchronisation, groups, and the task graph from a kernel (spec/15 R328 to R342). -/

namespace Sys2Proof.Machine

open Sys2Proof

/-- FENCE (R328): the warp's earlier writes are performed under a release, and at .rc are durable; it executes on the rill. -/
def execFence (f : SForm) (s : State) : Out := if s.anyActive f.grd then s.ordered f.order f.scope fun s => s.finish [] else s.finish []

/-- A point below the kernel's NRV, else RVARG (R43). -/
def State.withRv (s : State) (f : SForm) (k : Nat → Rv → State → Out) : Out :=
  s.once f.grd fun s =>
    let n := f.a.idx.toNat
    if s.cLaunch.adm.kernel.nrv ≤ n then s.pathTrap f 0x4A n else k n (s.ct.rvAt n) s

/-- RVINI (R331): it is applied before the arrivals that reach the point in its cyc (R344). -/
def execRvini (bytes : Bool) (f : SForm) (s : State) : Out :=
  s.withRv f fun n _ s =>
    let e := (s.sB f).toNat
    let b := s.ct.rvNow n s.cyc
    let r := b.was
    if r.orphan then s.pathTrap f 0x48 n
    else if r.init then s.pathTrap f 0x49 n
    else if e = 0 ∨ (if bytes then 2 ^ 30 else 2 ^ 24) < e then s.pathTrap f 0x4A n
    else
      (s.applyArrivals s.cTeam n { b with was := { r with expect := BitVec.ofNat 32 e, count := 0, bytes := bytes, init := true } }).finish []

/-- ARV and ARVB: an arrival that counts is a release at .cl (R332). -/
def State.arrival (s : State) (f : SForm) (byteAmount : Nat) : Out :=
  s.withRv f fun n r s =>
    let a : Arrival := { rank := 2 ^ 32 + s.cWarp, bytes := byteAmount, warp := some s.cWarp, dst := if f.dst.file == .s then some f.dst.idx.toNat else none }
    let go (s : State) : Out := (s.arriveAt s.cTeam n a).finish []
    if r.counts a.warp then s.release go else go s

/-- ARV (R332). -/
def execArv (f : SForm) (s : State) : Out := s.arrival f 0
/-- ARVB (R332). -/
def execArvb (f : SForm) (s : State) : Out := s.arrival f (s.sB f).toNat

/-- RVWT (R333): a path that waits keeps the phase it read at its issue. -/
def execRvwt (f : SForm) (s : State) : Out :=
  s.withRv f fun n r s =>
    let p := match s.cp.hold with | .rvPhase m p => if m = n then p else (s.sB f).setWidth 32 | _ => (s.sB f).setWidth 32
    if !r.init then s.pathTrap f 0x4B n
    else if r.satisfied p then s.finish [] else .next (s.wait (.rvPhase n p))

/-- RVTS.t (R333). -/
def execRvtsT (f : SForm) (s : State) : Out :=
  s.withRv f fun n r s =>
    if !r.init then s.pathTrap f 0x4B n else s.finish (wrPred f.dst 0 (r.satisfied ((s.sB f).setWidth 32)))

/-- RVTS.ph (R333). -/
def execRvtsPh (f : SForm) (s : State) : Out :=
  s.withRv f fun n r s => if !r.init then s.pathTrap f 0x4B n else s.finish (sDst f.dst (r.phase.setWidth 64))

/-! Queues (R334 to R336). -/

/-- A queue below the kernel's NQ, else QARG (R43). -/
def State.withCh (s : State) (f : SForm) (k : Nat → State → Out) : Out :=
  s.once f.grd fun s =>
    let n := f.a.idx.toNat
    if s.cLaunch.adm.kernel.nq ≤ n then s.pathTrap f 0x4D n else k n s

/-- QINI.init (R335). -/
def execQiniInit (f : SForm) (s : State) : Out :=
  s.withCh f fun n s =>
    let q := s.ct.chAt n
    let base := (s.sB { f with bi := false }).toNat
    let lsz := f.imm.toNat
    if q.init && q.head != q.tail then s.pathTrap f 0x4C n
    else if lsz = 0 ∨ 12 < lsz ∨ base % 8 ≠ 0 ∨ s.ct.scrk * 1024 < base + 8 * 2 ^ lsz then s.pathTrap f 0x4D n
    else
      (s.modTeam s.cTeam fun t => { t with
        ch := Cells.set {} t.ch n { q with base := BitVec.ofNat 32 base, lsz := f.imm, init := true, head := 0, tail := 0, allow := (s.sC f).setWidth 32 } }).finish []

/-- QINI.grant (R335). -/
def execQiniGrant (f : SForm) (s : State) : Out :=
  s.withCh f fun n s =>
    let q := s.ct.chAt n
    if !q.init then s.pathTrap f 0x4E n
    else (s.modTeam s.cTeam fun t => { t with ch := Cells.set {} t.ch n { q with allow := satAdd32 q.allow (s.sB f).toNat } }).finish []

/-- The queue a form reaches: its team, or none when POS lies at or above TPG (R336). -/
def State.queueTeam (s : State) (f : SForm) : Option Nat :=
  let t := s.ct
  if natBit f.opd.toNat 2 then (let pos := f.opd.toNat % 4; if t.tpg ≤ pos then none else some ((s.teamAt t.task t.gang pos).getD s.cTeam)) else some s.cTeam

/-- QARG and QNINI checked, then the queue's team and number (R336). -/
def State.withQueue (s : State) (f : SForm) (k : Nat → Nat → State → Out) : Out :=
  s.withCh f fun n s =>
    match s.queueTeam f with
    | none => s.pathTrap f 0x4D n
    | some q => if !((s.team q).chAt n).init then s.pathTrap f 0x4E n else k q n s

/-- PUSH is ready (R336). -/
def Queue.pushReady (q : Queue) : Bool := decide ((q.tail - q.head).toNat < 2 ^ q.lsz.toNat) && q.allow != 0
/-- POP is ready (R336). -/
def Queue.popReady (q : Queue) : Bool := q.head != q.tail

/-- PUSH(h) on queue n of team k: a waiter in PAUSE there wakes (R336, R357). -/
def State.pushAt (s : State) (k n : Nat) (h : W64) : State :=
  let q := (s.team k).chAt n
  let s := s.modTeam k fun t => { t with
    spad := writeBytes t.spad (q.base.toNat + 8 * (q.tail.toNat % 2 ^ q.lsz.toNat)) (leBytes 8 h.toNat),
    ch := Cells.set {} t.ch n { q with tail := q.tail + 1, allow := q.allow - 1 } }
  s.wakePause k

/-- The handle POP returns (R336). -/
def Team.popVal (t : Team) (n : Nat) : W64 :=
  let q := t.chAt n
  BitVec.ofNat 64 (readLe t.spad (q.base.toNat + 8 * (q.head.toNat % 2 ^ q.lsz.toNat)) 8)

/-- POP's effect on queue n of team k (R336). -/
def State.popAt (s : State) (k n : Nat) : State := s.modTeam k fun t => { t with ch := Cells.modify {} t.ch n fun q => { q with head := q.head + 1 } }

/-- A ticket of a queue is still held by a waiting path. -/
def State.ticketLive (s : State) (k n : Nat) (push : Bool) (ticket : Nat) : Bool :=
  s.teams.any fun t => t.2.warps.any fun w => w.2.holds.contains (.queue k n push ticket)

/-- Waiting tickets of a side, in the order in which they reached the queue. -/
def Queue.waiting (q : Queue) (push : Bool) : List Nat := if push then q.pushWait else q.popWait

/-- The issuing path's ticket at a queue. -/
def State.myTicket (s : State) (k n : Nat) (push : Bool) : Option Nat :=
  match s.cp.hold with | .queue k' n' p x => if k' = k ∧ n' = n ∧ p = push then some x else none | _ => none

/-- The issuing path is served next: it is first among the live waiters, or none waits (R336). -/
def State.served (s : State) (k n : Nat) (push : Bool) : Bool :=
  let live := (((s.team k).chAt n).waiting push).filter (s.ticketLive k n push)
  match live with | [] => true | x :: _ => s.myTicket k n push == some x

/-- A ticket leaves its side of a queue. -/
def Queue.dropTicket (q : Queue) (push : Bool) (x : Nat) : Queue := if push then { q with pushWait := q.pushWait.filter (· != x) } else { q with popWait := q.popWait.filter (· != x) }

/-- The issuing path's ticket leaves the queue. -/
def State.unqueue (s : State) (k n : Nat) (push : Bool) : State :=
  match s.myTicket k n push with
  | none => s
  | some x => s.modTeam k fun t => { t with ch := Cells.modify {} t.ch n fun q => q.dropTicket push x }

/-- A path waits its turn at a queue, keeping the ticket it has (R336). -/
def State.queueWait (s : State) (k n : Nat) (push : Bool) : State :=
  match s.myTicket k n push with
  | some x => s.wait (.queue k n push x)
  | none =>
    let x := ((s.team k).chAt n).pushNext
    (s.modTeam k fun t => { t with
      ch := Cells.modify {} t.ch n fun q => { q with pushNext := x + 1, pushWait := if push then q.pushWait ++ [x] else q.pushWait, popWait := if push then q.popWait else q.popWait ++ [x] } }).wait (.queue k n push x)

/-- QPSH (R336): a push is a release at .cl. -/
def execQpsh (f : SForm) (s : State) : Out :=
  s.withQueue f fun k n s =>
    if ((s.team k).chAt n).pushReady && s.served k n true then s.release fun s => ((s.unqueue k n true).pushAt k n (s.sB f)).finish []
    else .next (s.queueWait k n true)

/-- QPOP (R336). -/
def execQpop (f : SForm) (s : State) : Out :=
  s.withQueue f fun k n s =>
    if ((s.team k).chAt n).popReady && s.served k n false then ((s.unqueue k n false).popAt k n).finish (sDst f.dst ((s.team k).popVal n))
    else .next (s.queueWait k n false)

/-- QTRY.psh (R336): it pushes whenever PUSH is ready. -/
def execQtryPsh (f : SForm) (s : State) : Out :=
  s.withQueue f fun k n s =>
    if ((s.team k).chAt n).pushReady then s.release fun s => (s.pushAt k n (s.sB f)).finish (wrPred f.c 0 true)
    else s.finish (wrPred f.c 0 false)

/-- QTRY.pop (R336): it pops whenever POP is ready. -/
def execQtryPop (f : SForm) (s : State) : Out :=
  s.withQueue f fun k n s =>
    if ((s.team k).chAt n).popReady then (s.popAt k n).finish (sDst f.dst ((s.team k).popVal n) ++ wrPred f.c 0 true)
    else s.finish (wrPred f.c 0 false)

/-! SYNCM (R171, R337). -/

/-- A thread waits at the SYNCM at pc, with its mask and the members matched so far. -/
def Warp.syncAt (w : Warp) (pc : W64) (t : Nat) : Option (W32 × W32) :=
  match (w.thread t).sync with | some (p, m, seen) => if p = pc then some (m, seen) else none | none => none

/-- Thread t executes the SYNCM at pc with mask m: it and the waiting members whose masks name it match (R337). -/
def Warp.syncm (w : Warp) (pc : W64) (m : W32) (t : Nat) : Warp :=
  let hit := threads32.filter fun u => u != t && m.getLsbD u && (match w.syncAt pc u with | some (mu, _) => mu.getLsbD t | none => false)
  let w := w.modThreads hit fun th => { th with sync := th.sync.map fun x => (x.1, x.2.1, x.2.2 ||| maskOf [t]) }
  w.modThread t fun th => { th with sync := some (pc, m, maskOf (t :: hit)) }

/-- A waiting thread completes: every member not EXITED has matched (R337). -/
def Warp.syncDone (w : Warp) (pc : W64) (t : Nat) : Bool :=
  match w.syncAt pc t with
  | some (m, seen) => (w.thread t).syncPk.isNone && (maskList m).all fun u => seen.getLsbD u || (w.thread u).st == .exited
  | none => false

/-- A member that is PARKED and not matched (R171). -/
def Warp.syncParked (w : Warp) (m seen : W32) : Option Nat := (maskList m).find? fun u => !seen.getLsbD u && (w.thread u).st == .parked

/-- A thread's open windows after an instruction that writes no register (R134). -/
def Warp.lookPast (w : Warp) (t : Nat) : Warp :=
  { w with look := Cells.modify [] w.look t fun ws => (ws.filter fun x => decide (1 < x.left)).map fun x => { x with left := x.left - 1 } }

/-- Threads ts, which a trap takes at the SYNCM at pc, have not executed it: they no longer wait there, and no other thread has matched them. -/
def Warp.syncUndo (w : Warp) (pc : W64) (ts : List Nat) : Warp :=
  let w := w.modThreads ts fun th => { th with sync := none, syncPk := none }
  w.modThreads (threads32.filter fun u => (w.syncAt pc u).isSome) fun th => { th with sync := th.sync.map fun x => (x.1, x.2.1, x.2.2 &&& ~~~maskOf ts) }

/-- Threads that complete leave their paths and form one at the next slot (R337). -/
def Warp.syncLeave (w : Warp) (pc next : W64) : Warp :=
  let ts := threads32.filter (w.syncDone pc)
  if ts.isEmpty then w else ts.foldl Warp.lookPast (((w.modThreads ts fun th => { th with sync := none }).leave ts).addPath next ts)

/-- The mask of a thread: what it brought when it executed the SYNCM, else the low word of OPA. -/
def State.syncMask (s : State) (f : SForm) (t : Nat) : W32 :=
  match s.cw.syncAt s.cur.ipc t with | some (m, _) => m | none => (s.rdReg t f.a false).setWidth 32

/-- Threads at this SYNCM already whose mask omits t though t's names them, or the reverse (R337). -/
def State.syncClash (s : State) (f : SForm) (act : List Nat) (t : Nat) : List Nat :=
  let m := s.syncMask f t
  threads32.filter fun u =>
    u != t && (act.contains u || (s.cw.syncAt s.cur.ipc u).isSome) &&
    (let mu := s.syncMask f u; m.getLsbD u != mu.getLsbD t)

/-- MASKMM in threads ts that wait at the issuing SYNCM, another thread of it clashing with them (R337). -/
def State.maskmm (s : State) (ts : List Nat) (other : Nat) : Trap :=
  { cause := 0x15, info := BitVec.ofNat 64 other, mask := maskOf ts, pc := s.cur.ipc, next := s.cur.npc }
/-- The threads ts of a waiting path take MASKMM together when another path's SYNCM clashes with them (R337). -/
def State.syncTrapOther (s : State) (e : Nat) (ts : List Nat) (other : Nat) : State :=
  let k := s.cTeam
  let w := s.cWarp
  if (s.team k).st = .absent then s
  else
    let p := (s.warp k w).entry e
    let s := s.modWarp k w fun x => x.syncUndo s.cur.ipc (maskList p.mask)
    s.takeTrap k w e s.cur.handler (s.maskmm ts other)
/-- Waiting threads that were evicted from their path take it once they stand in one again (R155, R337). -/
def State.syncTrapSpilled (s : State) (ts : List Nat) (other : Nat) : State :=
  if ts.isEmpty ∨ (s.team s.cTeam).st = .absent then s
  else s.modWarp s.cTeam s.cWarp fun x => (x.syncUndo s.cur.ipc ts).modThreads ts fun th => { th with pend := some (s.maskmm ts other), held := .none }

/-- SYNCM (R337, R171): self, members that are parked or parked while it waited, and clashes are precise traps; else the active threads match, those complete leave, and the others wait. -/
def execSyncm (f : SForm) (s : State) : Out :=
  s.once f.grd fun s =>
    let pc := s.cur.ipc
    let w := s.cw
    let mine := s.pathThreads.filter fun t => (w.syncAt pc t).isSome
    let new := (s.active f.grd).filter fun t => !mine.contains t
    let act := mine ++ new
    let selfless := new.filter fun t => !(s.syncMask f t).getLsbD t
    let parked := act.filterMap fun t => ((w.thread t).syncPk <|> w.syncParked (s.syncMask f t) (match w.syncAt pc t with | some (_, x) => x | none => 0)).map fun u => (t, u)
    let undo (s : State) : State := s.modWarp s.cTeam s.cWarp fun x => x.syncUndo pc mine
    let clash := new.flatMap fun t => (s.syncClash f act t).map fun u => (t, u)
    match selfless, parked, clash with
    | t :: _, _, _ => .next ((undo s).trapWith 0x15 (BitVec.ofNat 64 t) 0 (maskOf selfless))
    | [], (_, u) :: _, _ => .next ((undo s).trapWith 0x14 (BitVec.ofNat 64 u) 0 (maskOf (parked.map Prod.fst)))
    | [], [], (t, u) :: _ =>
      let inPath := (clash.flatMap fun c => [c.1, c.2]).eraseDups.filter s.pathThreads.contains
      let others := (clash.map Prod.snd).eraseDups.filter fun x => !s.pathThreads.contains x
      let s' := (undo s).trapWith 0x15 (BitVec.ofNat 64 u) 0 (maskOf inPath)
      let s' := s'.syncTrapSpilled (others.filter fun x => (w.thread x).st == .spilled) t
      .next ((List.range 8).foldl (fun s' e =>
        match if (w.entry e).valid then others.filter (w.entry e).mask.getLsbD else [] with
        | [] => s'
        | ts => s'.syncTrapOther e ts t) s')
    | [], [], [] =>
      s.release fun s =>
        let rest := s.pathThreads.filter fun t => !act.contains t
        let s := s.modWarp s.cTeam s.cWarp fun w =>
          let w := new.foldl (fun w t => w.syncm pc (s.syncMask f t) t) w
          let w := w.modEntry s.cEntry fun p => { p with mask := maskOf act, hold := .syncm, age := s.cur.age }
          rest.foldl Warp.lookPast ((w.syncLeave pc s.cur.npc).addPath s.cur.npc rest)
        .next { s with cur := { s.cur with stop := true } }

/-! GSYNC (R338). -/

/-- The group a GSYNC names. -/
def State.groupNo (s : State) (f : SForm) : Nat := (s.sB f).toNat

/-- The team is a member of a group of the launch (R47, R338). -/
def State.inGroup (s : State) (g : Nat) : Bool := decide (g < s.cLaunch.adm.ngroup) && ((s.cLaunch.adm.groups.getD s.ct.num []).contains g)

/-- The issuing warp arrives at its group's present phase, which completes when it is the last (R338). -/
def State.groupArrive (s : State) (g : Nat) : State :=
  let me := (s.ct.num, s.cWarp)
  (s.modLaunch s.cTask fun l => { l with
    groups := Cells.modify {} l.groups g fun p => if p.arrived.contains me then p else { p with arrived := p.arrived ++ [me] } }).groupTry s.cTask g

/-- A phase of a group of the issuer's launch. -/
def State.groupPhase (s : State) (g : Nat) : Nat := (Cells.get {} s.cLaunch.groups g).phase

/-- GSYNC.wait (R338): the path's hold names the group and the phase it has arrived in; OPB is not read again. -/
def execGsyncWait (f : SForm) (s : State) : Out :=
  s.once f.grd fun s =>
    match s.cp.hold with
    | .group g ph => if ph < s.groupPhase g then s.finish [] else .next (s.wait (.group g ph))
    | _ =>
      let g := s.groupNo f
      if !s.inGroup g then s.pathTrap f 0x4F g
      else
        s.release fun s =>
          let ph := s.groupPhase g
          let s := s.groupArrive g
          if ph < s.groupPhase g then s.finish [] else .next (s.wait (.group g ph))

/-- GSYNC.nb (R338): the counter's owner is collectives and its scope .dv or wider. -/
def execGsyncNb (f : SForm) (s : State) : Out :=
  s.once f.grd fun s =>
    let g := s.groupNo f
    let n := f.opd.toNat % 8
    let c := s.ct.tlAt n
    if c.owner ≠ 4 ∨ c.scope < 3 ∨ !s.inGroup g then s.pathTrap f 0x4F g
    else
      s.release fun s =>
        let num := c.iss + 1
        let s := s.modTeam s.cTeam fun t => { t with
          tl := Cells.set {} t.tl n { c with iss := num }, nb := t.nb ++ [{ group := g, phase := s.groupPhase g, tl := n, num := num.toNat }] }
        (s.groupArrive g).finish []

/-! The task graph from a kernel (R339, R340). -/

/-- TLSIG (R339): a release at .dv. -/
def execTlsig (f : SForm) (s : State) : Out :=
  s.once f.grd fun s => s.release fun s => (s.signal (coreDie s.ct.core) s.cTask (s.sA f)).finish []

/-- A path's read of 64 bytes at a device address (R340, R428): MISAL, faults, XBAR and answers from outside the package as for a thread's access. -/
def State.record64 (s : State) (f : SForm) (a : Nat) (k : List Byte → State → Out) : Out :=
  if a % 64 ≠ 0 then s.pathTrap f 0x27 a
  else
    match s.translate s.cVdev a false false with
    | .error e => .next (s.takeFault e a (maskOf (s.active f.grd)))
    | .ok (pa, pte) =>
      let d := coreDie s.ct.core
      let port := corePort s.ct.core
      if !s.reaches d port pa then (s.xbarv d port pa).pathTrap f 0x28 a
      else
        match s.poisonHit pa 64 false with
        | some q => .next (s.takeFault (.poison (32 * q) false) a (maskOf (s.active f.grd)))
        | none =>
          if s.chunkBusy pa then .next (s.wait (.chunk (paDie pa) (paChunk pa)))
          else match s.rangesWait [(a, pa, 64)] with
          | some h => .next ((s.cMark pte false).waitRanges false [(a, pa, 64)] h)
          | none => k (readBytes s.mem pa 64) ((s.takeAsks s.lowThread false [] [(a, pa, 64)]).cMark pte false)

/-- LAUNCH (R340, R97). -/
def execLaunch (f : SForm) (s : State) : Out :=
  s.once f.grd fun s =>
    s.release fun s =>
      s.record64 f (s.sA f).toNat fun bs s =>
        let r := s.appendLaunch s.cTask bs
        r.1.finish (sDst f.dst r.2)

end Sys2Proof.Machine
end

