-- ==== Sys2Proof/Machine/System.lean ====
section
/-! DEFINITION. System instructions (spec/18 R352 to R359; CSRR and CSRW stand in Csr.lean) and recovery-point instructions (spec/22 R426 to R430). -/

namespace Sys2Proof.Machine

open Sys2Proof

/-- TRAP (R353). -/
def execTrap (f : SForm) (s : State) : Out := s.once f.grd fun s => s.pathTrap f 0x16 f.imm.toNat

/-- ERET (R354, R302), legal in a handler line whatever the guard (R127): with an EVICTED tile it waits while another handler path can restore one, and else raises MXEVT (log 23). -/
def execEret (f : SForm) (s : State) : Out :=
  if !s.cur.handler then s.illop
  else s.once f.grd fun s =>
    if s.ct.anyEvicted then (if s.cw.othersRestore s.cEntry then .next (s.wait .evicted) else s.pathTrap f 0x43 0)
    else .next (s.eretPath s.cTeam s.cWarp)

/-- KILLW (R356). A warp at or above WPT, or one that has ended, is passed over. -/
def execKillw (f : SForm) (s : State) : Out :=
  s.once f.grd fun s =>
    let w := (s.sB f).toNat % 2 ^ 32
    if s.ct.wpt ≤ w ∨ (s.ct.warp w).ended then s.finish []
    else if w = s.cWarp then .next (s.killWarp s.cTeam w)
    else (s.killWarp s.cTeam w).finish []

/-- PAUSE (R357): the path keeps its AGE. -/
def execPause (f : SForm) (s : State) : Out :=
  s.once f.grd fun s =>
    let h := Hold.pauseTill (s.cyc + 64 * f.imm.toNat)
    let s := s.advance
    .next (match s.cur.agent with
      | .warp t w e => s.modWarp t w fun x => x.modEntry e fun p => { p with hold := h, age := s.cur.age }
      | _ => s)

/-- MIRX.off (R358). -/
def execMirxOff (f : SForm) (s : State) : Out :=
  s.once f.grd fun s => if s.cLaunch.mirrored then s.warpDone fun w => { w with mirOff := true } else s.finish []
/-- MIRX.on (R358). -/
def execMirxOn (f : SForm) (s : State) : Out :=
  s.once f.grd fun s => if s.cLaunch.mirrored then s.warpDone fun w => { w with mirOff := false } else s.finish []
/-- MIRX.test (R358). -/
def execMirxTest (f : SForm) (s : State) : Out := s.once f.grd fun s => s.finish (wrPred f.dst 0 s.cMirrored)

/-- WAITEV (R359). -/
def execWaitev (f : SForm) (s : State) : Out :=
  s.once f.grd fun s =>
    let m := f.imm
    let hit := s.ct.tevt &&& m
    if m = 0 then s.illop
    else if hit = 0 then .next (s.wait (.tevt m))
    else (s.modTeam s.cTeam fun t => { t with tevt := t.tevt &&& ~~~m }).finish (sDst f.dst (hit.setWidth 64))

/-! Recovery points. -/

/-- NEXT point (R427). -/
def nextPoint (n : W32) : W32 := if n = 0xFFFFFFFF then 1 else n + 1
/-- N of RPCUR (R425). -/
def RPoint.n (r : RPoint) : W32 := r.cur.truncate 32
/-- RPCUR.OPEN. -/
def RPoint.isOpen (r : RPoint) : Bool := r.cur.getLsbD 63
/-- RPCUR.SEALING. -/
def RPoint.sealing (r : RPoint) : Bool := r.cur.getLsbD 62
/-- RPCUR of a point. -/
def rpCur (isOpen sealing : Bool) (n : W32) : W64 := BitVec.ofNat 64 (2 ^ 63 * b2n isOpen + 2 ^ 62 * b2n sealing + n.toNat)

/-- RPOPN (R427): an acquire-release at .dv. -/
def execRpopn (f : SForm) (s : State) : Out :=
  s.once f.grd fun s =>
    s.release fun s =>
      let v := s.cVdev
      let r := s.rp v
      let n := (s.sB f).setWidth 32
      if r.isOpen || r.sealing then s.finish (sDst f.dst 1)
      else if n ≠ nextPoint r.n then s.finish (sDst f.dst 2)
      else if s.csize = 0 ∨ (List.range 8).any (fun i => (s.stk i).jrnSize == 0 || (s.stk i).ulSize == 0) then s.finish (sDst f.dst 3)
      else (s.modRp v fun r => { r with cur := rpCur true false n, covered := [], armer := none }).finish (sDst f.dst 0)

/-- RPSEAL (R428): durable first, then the record, then the point is PENDING. -/
def execRpseal (f : SForm) (s : State) : Out :=
  s.once f.grd fun s =>
    let v := s.cVdev
    if !(s.rp v).isOpen then s.finish (sDst f.dst 1)
    else
      s.ordered .rel .rc fun s =>
        s.record64 f (s.sA f).toNat fun bs s =>
          let h := (s.handleOf s.cTask).toNat
          (s.modRp v fun r => { r with
            cur := rpCur false true r.n, keptAddr := s.sA f, keptTask := bs, armer := some h,
            covered := if r.covered.contains h then r.covered else r.covered ++ [h] }).finish (sDst f.dst 0)

/-- State of point n of a virtual device (R429). -/
def RPoint.stateOf (r : RPoint) (n : W32) : Nat :=
  if n = 0 ∨ (r.sealedN.truncate 32 - n : W32).toNat < 2 ^ 31 then 3
  else if n = r.n ∧ r.sealing then 2
  else if n = r.n ∧ r.isOpen then 1 else 0

/-- A wait for a point is over: sealed, gone, or pending and covering the launch of a handle (R429). -/
def RPoint.waitOver (r : RPoint) (n : W32) (h : Nat) : Bool := r.stateOf n == 3 || r.stateOf n == 0 || (r.stateOf n == 2 && r.covered.contains h)

/-- RPQRY.st (R429). -/
def execRpqrySt (f : SForm) (s : State) : Out :=
  s.once f.grd fun s => s.finish (sDst f.dst (BitVec.ofNat 64 ((s.rp s.cVdev).stateOf ((s.sB f).setWidth 32))))

/-- RPQRY.wt (R429): a pending point that covers the issuing launch returns 2 at once. -/
def execRpqryWt (f : SForm) (s : State) : Out :=
  s.once f.grd fun s =>
    let r := s.rp s.cVdev
    let n := (s.sB f).setWidth 32
    if r.waitOver n (s.handleOf s.cTask).toNat then s.finish (sDst f.dst (BitVec.ofNat 64 (r.stateOf n)))
    else .next (s.wait (.rpoint n))

end Sys2Proof.Machine
end

