-- ==== Sys2Proof/Machine/Faults.lean ====
section
/-! DEFINITION. Rollback and machine checks (spec/18 R372 to R374; spec/05 R104), fault slots and FRESUME (spec/10 R253 to R255; spec/18 R360 to R362), and the steps of paths, rill threads and handlers (spec/07 R155 to R168; spec/18 R348, R351). -/

namespace Sys2Proof.Machine

open Sys2Proof

/-! Rollback (R373, R104, R423, R431). -/

/-- A launch's journal lines are discarded and a seal it armed is open again; the sectors it tagged are no longer its own. -/
def State.discardLines (s : State) (k : Nat) : State :=
  let h := s.handleOf k
  let v := (s.task k).vdev
  let s := (List.range 8).foldl (fun (s : State) i => s.modStk i fun x => { x with lines := x.lines.map fun l => if l.handle = h then { l with tag := 0 } else l }) s
  let s := { s with tags := s.tags.map fun c => (c.1, if c.2.handle = h ∧ ¬c.2.sealed then { c.2 with handle := 0 } else c.2) }
  if (s.rp v).armer == some h.toNat && (s.rp v).sealing then s.modRp v fun r => { r with cur := rpCur true false r.n, armer := none, keptAddr := 0, keptTask := [] } else s
/-- A snapshot page written back by the part. -/
def State.putSnap (s : State) (v : Nat) (p : SnapPage) : State :=
  let a := p.pa * 65536
  let s := (List.range 2048).foldl (fun s i => s.tagSector v none (a / 32 + i)) s
  { s.backInvalidate a 65536 with mem := writeBytes s.mem a ((List.range 65536).map fun i => Cells.get emptyByte p.bytes i), poison := s.poison.filter fun x => !decide (a / 32 ≤ x ∧ x < a / 32 + 2048) }
/-- A launch as it stood at its admission; signals that reached a task without effect, or one that is complete, are passed over in the replay (R104). -/
def State.resetLaunch (s : State) (k : Nat) : State :=
  let h := (s.handleOf k).toNat
  let gone := (Cells.keys s.tasks).flatMap fun j => if (s.task j).st = .complete then List.replicate ((s.task j).consumed.count h) (s.handleOf j).toNat else []
  s.modLaunch k fun l => { l with
    cnt := [], nextGang := 0, retiredGangs := [], saved := [], bypass := 0, lastClus := 0, groups := [], endedTeams := [], snaps := [], snapWait := [],
    sigSkip := l.signalled ++ gone, runSum := 0, runCnt := 0, noDispatch := false, stopping := none, tlDone := [] }
/-- A stopped launch is undone, its writes all performed: its lines discarded, its pages restored, its admitted copy kept. -/
def State.undoLaunch (s : State) (k : Nat) : State :=
  let s := (s.discardLines k).postPreempted k
  let s := (s.task k).launch.snaps.foldl (fun s p => s.putSnap (s.task k).vdev p) s
  s.resetLaunch k
/-- A launch stops, and go follows once every write that it issued is performed; until then it is stopping (R373). -/
def State.stopThen (s : State) (k : Nat) (go : State → State) : State :=
  let s := s.stopLaunch k
  if s.launchQuiet k then go s else s.modLaunch k fun l => { l with stopping := some false }
/-- A task that consumed a signal of a rolled-back launch is undone and waits for it again (R104, R397). -/
def State.rearm (s : State) (h j : Nat) : State :=
  let t := s.task j
  let n := t.consumed.count h
  let s := if t.trec.kind = 2 then (if t.st = .running ∨ t.upd.resume.isSome then (s.undoUpdate j).freeCons j else s).modTask j fun t => { t with upd := {} }
    else if t.st = .dispatched ∨ t.st = .running then s.stopThen j fun s => s.undoLaunch j else s
  let s := s.modTask j fun t => { t with st := .waiting, rcvd := t.rcvd - n, consumed := t.consumed.filter (· != h), nroll := if t.st = .waiting then t.nroll else t.nroll + 1 }
  if t.st = .waiting then s else s.postTask (taskDie j) t.vdev 0x42 j (t.nroll + 1)
/-- Tasks that consumed a signal of a launch and have not retired. -/
def State.dependents (s : State) (h : Nat) : List Nat :=
  (Cells.keys s.tasks).filter fun j => let t := s.task j
    t.consumed.contains h && (t.st == .waiting || t.st == .ready || t.st == .dispatched || t.st == .running)
/-- Dependents are rolled back, and theirs in turn. -/
def State.rollDeps : Nat → State → Nat → State
  | 0, s, _ => s
  | n + 1, s, k =>
    let h := (s.handleOf k).toNat
    (s.dependents h).foldl (fun s j => rollDeps n (s.rearm h j) j) s
/-- ROLLBACK of a stopped launch whose writes are all performed (R373). -/
def State.rollbackEnd (s : State) (k : Nat) : State :=
  let s := s.undoLaunch k
  let s := State.rollDeps s.tasks.length s k
  let n := (s.task k).nroll + 1
  let s := (s.modTask k fun t => { t with nroll := n }).postTask (taskDie k) (s.task k).vdev 0x42 k n
  s.modTask k fun t => if 4 < n then { t with st := .complete, status := 0x306, tend := s.ns } else { t with st := .dispatched }
/-- ROLLBACK of a running launch (R373). -/
def State.rollback (s : State) (k : Nat) : State :=
  if (s.task k).st ≠ .running ∨ (s.task k).trec.kind ≠ 1 ∨ (s.task k).launch.stopping.isSome then s else s.stopThen k fun s => s.rollbackEnd k
/-- A stopping launch whose writes are all performed goes on: killed, rolled back, or undone as a dependent that waits for its signals again (R104, R372, R373). -/
def State.stopDone (s : State) (k : Nat) : State :=
  match (s.task k).launch.stopping with
  | none => s
  | some kill => if !s.launchQuiet k then s else if kill then s.endKilled k else if (s.task k).st = .running then s.rollbackEnd k
    else let s := s.undoLaunch k; if (s.task k).st = .ready then s.opportune (taskDie k) (s.task k).vdev else s
/-- A machine check of kind on die d, met by the team of a number or by none: MCHK and the rollback of a running launch; an update's is CONS.MCHK, and it is rolled back (R372, R376, R397). -/
def State.machineCheck (s : State) (k kind d : Nat) (num : Option Nat) : State :=
  let t := s.task k
  if t.st ≠ .running then s
  else if t.trec.kind = 2 then (if kind ≠ 2 ∨ t.upd.finished ∨ t.upd.faulted.isSome then s else s.modUpd k fun u => { u with faulted := some 0x31A })
  else if t.trec.kind ≠ 1 then s
  else
    let arg := kind + (match num with | some n => 16 * n | none => 2 ^ 30)
    (((s.postTask d t.vdev 0x41 k arg).postTask d 16 0x41 k arg)).rollback k
/-- A machine check that a team of a launch meets on its die. -/
def State.teamCheck (s : State) (k kind : Nat) : State := let t := s.team k; s.machineCheck t.task kind (coreDie t.core) (some t.num)
/-- MACHINE_CHECK (R372): kind 1 arises only under mirrored issue (R175). -/
def execMachineCheck (task kind : Nat) (site : CheckSite) (s : State) : Out :=
  .next (if kind = 1 ∧ !(s.task task).launch.mirrored then s else s.machineCheck task kind site.die (site.team.map fun k => (s.team k).num))
/-- LAUNCH_ROLLBACK (R373): of a launch that runs, or goes on with one that is stopping. -/
def execLaunchRollback (task : Nat) (s : State) : Out := .next (if (s.task task).launch.stopping.isSome then s.stopDone task else s.rollback task)
/-- SNAPSHOT (R374): of a page that a launch's next write waits for. -/
def execSnapshot (task page : Nat) (s : State) : Out :=
  match s.pend.find? fun p => p.task == task && p.pa / 65536 == page && paSpace p.pa == .hbm with
  | none => .next s
  | some p => .next (if s.snapReady task p.pa then s.takeSnap task page else s.snapFull task p.va p.pa)

/-! Fault slots (R253 to R255). -/

/-- Team of a fault. -/
def State.faultTeam (s : State) (b : FaultBy) : Nat := match b with | .warp t _ _ | .form t _ _ | .copy t _ _ | .save t | .restore t => t | .rill c => (s.rill c).team
/-- A stopped requester learns its slot. -/
def State.setSlot (s : State) (d slot : Nat) (b : FaultBy) : State :=
  match b with
  | .warp t w _ | .form t w _ => s.modWarp t w fun x => { x with fault := some (d, slot) }
  | .rill c => s.modRill c fun r => { r with fault := some (d, slot) }
  | .copy t num tl => s.modTeam t fun x => { x with copies := x.copies.map fun c => if c.tl = tl ∧ c.num = num then { c with fault := some (d, slot) } else c }
  | _ => s
/-- TFAULT or POISON of a slot (R255). -/
def State.postFault (s : State) (d slot : Nat) (f : FSlot) : State :=
  let k := (s.team (s.faultTeam f.by_)).task
  let v := (s.task k).vdev
  let copy := match f.by_ with | .copy _ _ _ => true | _ => false
  if f.kind = 0 then s.postTask d v 0x31 k (f.pa % 2 ^ 56 + slot * 2 ^ 96 + b2n f.walk * 2 ^ 106)
  else s.postTask d v 0x30 k (f.va % 2 ^ 80 + f.kind * 2 ^ 80 + b2n copy * 2 ^ 88 + slot * 2 ^ 96)
/-- The lowest free fault slot of a die. -/
def Die.freeSlot (x : Die) : Option Nat := (List.range 1024).find? fun i => !(Cells.get {} x.fslots i).used
/-- TRANSLATION_FAULT (R253): the oldest request of a die takes a slot. -/
def execTranslationFault (die : Nat) (s : State) : Out :=
  match (s.die die).faultQ, (s.die die).freeSlot with
  | f :: r, some i =>
    let s := s.modDie die fun x => { x with faultQ := r, fslots := Cells.set {} x.fslots i f }
    .next ((s.setSlot die i f.by_).postFault die i f)
  | _, _ => .next s

/-- A held slot; a free one is ignored (R253). -/
def State.withSlot (s : State) (d slot : Nat) (k : FSlot → State → State) : Out :=
  let f := Cells.get {} (s.die d).fslots slot
  if f.used then .next (k f (s.modDie d fun x => { x with fslots := Cells.erase x.fslots slot })) else .next s
/-- PGROW is resolved by appending pages until HWM lies above the offset (R252; log 30). -/
def State.growTo (s : State) (k w va : Nat) : State := s.addPages k w (va % 2 ^ 64 / 2048 + 1 - (s.warp k w).hwm / 2048)
/-- FRESUME_REPLAY: ACT 0 (R253, R360). -/
def execFresumeReplay (die slot : Nat) (s : State) : Out :=
  s.withSlot die slot fun f s =>
    match f.by_ with
    | .warp t w _ | .form t w _ => (if f.kind = 5 then s.growTo t w f.va else s).modWarp t w fun x => { x with fault := none }
    | .rill c =>
      let s := if f.kind = 5 then s.growTo (s.rill c).team (s.rill c).warp f.va else s
      s.modRill c fun r => { r with fault := none }
    | .copy t num tl => s.modTeam t fun x => { x with copies := x.copies.map fun c => if c.tl = tl ∧ c.num = num then { c with stopped := false, fault := none } else c }
    | .save _ => s
    | .restore t => s.restoreTeam t
/-- The trap of a slot. -/
def FSlot.trap (f : FSlot) : Trap := { cause := f.cause, info := BitVec.ofNat 64 f.va, info2 := BitVec.ofNat 64 (f.va / 2 ^ 64), mask := f.mask, pc := f.pc, next := f.next }
/-- The class that a load of a unit names, 0 for none. -/
def loadClass : Instr → Nat | .ld f | .ldg f => f.cls.toNat | _ => 0
/-- The entry in which the threads of a slot stand: none where their path has been evicted since (R155). -/
def Warp.slotEntry (w : Warp) (f : FSlot) : Option Nat := (List.range 8).find? fun e => let p := w.entry e; p.valid && p.pc == f.pc && p.mask &&& f.mask != 0
/-- Its threads, in that entry or SPILLED at the unit. -/
def Warp.slotThreads (w : Warp) (f : FSlot) : List Nat :=
  match w.slotEntry f with
  | some e => maskList (w.entry e).mask
  | none => (w.inSt .spilled).filter fun t => (w.thread t).pc == f.pc
/-- What its path has counted of the unit. -/
def Warp.slotCnt (w : Warp) (f : FSlot) : Nat × Nat × Bool := match w.slotEntry f with | some e => (w.entry e).cnt | none => w.cntOf (w.slotThreads f)
/-- Its path stands at a PC with nothing of the unit kept. -/
def Warp.slotTo (w : Warp) (f : FSlot) (pc : W64) : Warp :=
  match w.slotEntry f with
  | some e => w.modEntry e fun p => { p with pc := pc, hold := .none, done := 0, cnt := (0, 0, false), rng := 0 }
  | none => w.modThreads (w.slotThreads f) fun th => { th with pc := pc, held := .none, did := false, cnt := (0, 0, false), rng := false }
/-- Some thread of the slot's path passes a guard. -/
def State.slotGuard (s : State) (t w : Nat) (f : FSlot) (g : Guard) : Bool :=
  let p : Path := { valid := true, pc := f.pc, mask := maskOf ((s.warp t w).slotThreads f) }
  let s := s.modWarp t w fun x => x.modEntry 0 fun _ => p
  !(({ s with cur := { agent := .warp t w 0 } } : State).active g).isEmpty
/-- A unit that ends by ACT 1 has been performed for some threads: its class counts what they met (R89, R253). -/
def State.countDone (s : State) (t w : Nat) (f : FSlot) : State :=
  let c := (s.warp t w).slotCnt f
  let s := if c = (0, 0, false) then s else s.count (s.team t).task ((s.unitAt t f.pc).foldl (fun n i => max n (loadClass i)) 0) c.1 c.2.1 c.2.2
  s.modWarp t w fun x => { (x.slotTo f f.pc) with fault := none }
/-- A handler-line access under ACT 1: the unit completes with no further effect and HFLT is set; an MRSH in it whose guard holds leaves its tile by R362. -/
def State.handlerFault (s : State) (t w : Nat) (f : FSlot) : State :=
  let s := (s.unitAt t f.pc).foldl (fun s i => match i with | .mrsh x => if s.slotGuard t w f x.grd then s.mrshAbandon t x.ta.toNat else s | _ => s) s
  (s.countDone t w f).modWarp t w fun x => { (x.slotTo f f.next) with tstat := x.tstat ||| 2 }
/-- The precise trap of a slot under ACT 1, in its path or, that evicted, in its threads once they stand in one again (R155, R253). -/
def State.slotTrapped (s : State) (t w : Nat) (f : FSlot) : State :=
  match (s.warp t w).slotEntry f with
  | some e => (s.countDone t w f).takeTrap t w e false f.trap
  | none => (s.countDone t w f).modWarp t w fun x => x.modThreads (x.slotThreads f) fun th => { th with pend := some f.trap }
/-- A save abandoned by ACT 1 counts as a missed deadline, and leaves the team of a guest request resumed (R360, R363). -/
def State.saveAbandon (s : State) (t : Nat) : State :=
  let p := (s.vdev (s.team t).vdev).partId
  let s := if s.inSwitch t then s.modPart p fun x => { x with missed := x.missed ++ [coreDie (s.team t).core] } else s
  if (s.team t).asked then s.preqResume t else s
/-- FRESUME_TRAP: ACT 1 (R253, R360 to R362). -/
def execFresumeTrap (die slot : Nat) (s : State) : Out :=
  s.withSlot die slot fun f s =>
    match f.by_ with
    | .warp t w _ | .form t w _ =>
      let x := s.warp t w
      if (match x.handler with | some h => maskOf (x.slotThreads f) &&& h.mask != 0 | none => false) then s.handlerFault t w f
      else s.slotTrapped t w f
    | .rill c => s.recallRill c (s.rill c).pc (some f.trap)
    | .copy t num tl => s.copyAbandon t num tl f.cause
    | .save t => s.saveAbandon t
    | .restore t => s.restFail t 0
/-- FRESUME_ROLLBACK: ACT 2 (R253, R372). -/
def execFresumeRollback (die slot : Nat) (s : State) : Out :=
  s.withSlot die slot fun f s => s.teamCheck (s.faultTeam f.by_) 4

/-! Paths (R155, R158, R167). -/

/-- AGEMAX (R154). -/
def ageMax : Nat := 16384
/-- The valid entry with the smallest AGE, the lowest on ties (R155). -/
def Warp.evictee (w : Warp) : Option Nat :=
  ((List.range 8).filter fun e => (w.entry e).valid).foldl (fun b e => match b with | none => some e | some x => if (w.entry e).age < (w.entry x).age then some e else some x) none
/-- An eviction is due (R155). -/
def Warp.evictDue (w : Warp) : Bool := decide (ageMax ≤ w.spillAge) && w.freeEntry.isNone && !(w.inSt .spilled).isEmpty
/-- SPILL_EVICT (R155): the evicted threads keep what their path waits for. -/
def execSpillEvict (team warp : Nat) (s : State) : Out :=
  let w := s.warp team warp
  match w.evictee with
  | some e =>
    if w.evictDue then .next (s.modWarp team warp fun w =>
      let p := w.entry e
      let w := (maskList p.mask).foldl (fun w t => w.modThread t fun th => { th with st := .spilled, pc := p.pc, held := p.hold, did := p.done.getLsbD t, rng := p.rng.getLsbD t }) w
      let w := match maskList p.mask with | t :: _ => w.modThread t fun th => { th with cnt := p.cnt } | [] => w
      (w.modEntry e fun _ => {}).refill)
    else .next s
  | none => .next s
/-- A team's warps act. -/
def Team.acts (t : Team) : Bool := t.placed && !t.halted
/-- MEET_RELEASE (R158). -/
def execMeetRelease (team warp : Nat) (addr : W64) (s : State) : Out :=
  let w := s.warp team warp
  .next (if w.releasable addr && (s.team team).acts then s.modWarp team warp fun w => w.releaseAt addr (w.awaitSet addr) none else s)
/-- A rejoin timer has run its time. -/
def Warp.timerDue (w : Warp) (x : W64) (cyc : Nat) : Bool := w.handler.isNone && (w.awaitSet x).any (w.isParkedAt x) && w.timers.any fun t => t.addr == x && decide (t.start + t.rjt ≤ cyc)
/-- REJOIN_TIMEOUT (R167, R168). -/
def execRejoinTimeout (team warp : Nat) (addr : W64) (s : State) : Out :=
  .next (if (s.warp team warp).timerDue addr s.cyc && (s.team team).acts then s.modWarp team warp fun w => w.timeoutAt addr else s)

/-! Rill threads (R163, R166). -/

/-- The next unit of a rill thread is one that recalls it. -/
def State.rillRecalls (s : State) (c : Nat) : Bool :=
  let r := s.rill c
  let core := (s.team r.team).core
  match s.readLine (s.team r.team).vdev (coreDie core) (corePort core) r.pc with
  | .error _ => false
  | .ok (l, _) => (match readUnit l (r.pc.toNat % 8) with | .ok _ i j _ _ => recalls i || (j.map recalls).getD false | .bad _ _ => false)
/-- A rill context runs a thread that is not held. -/
def Rill.runs (r : Rill) : Bool := r.used && !r.mirror && r.fault.isNone
/-- RILL_RECALL (R163). -/
def execRillRecall (ctx : Nat) (s : State) : Out :=
  let r := s.rill ctx
  .next (if r.runs && s.rillRecalls ctx then s.recallRill ctx r.pc none else s)
/-- An away thread stands at its MEET. -/
def State.arrives (s : State) (c : Nat) : Bool := let r := s.rill c; r.runs && ((s.warp r.team r.warp).thread r.thread).meet == r.pc
/-- RILL_ARRIVE (R166, R168): a straggler does not park. -/
def execRillArrive (ctx : Nat) (s : State) : Out :=
  if s.arrives ctx then
    let r := s.rill ctx
    let x := r.pc
    .next ((s.writeBack ctx).modWarp r.team r.warp fun w =>
      match (w.thread r.thread).strag with
      | some g => (w.modThread r.thread fun th => { th with meet := g.adopted.getD noMeet }).addPath x [r.thread]
      | none => w.parkAt x [r.thread])
  else .next s

/-! Handlers, line parity, timed waits and accesses (R348, R351, R187, R357, R309). -/

/-- A warp in handler code that has not its core's bank yet (R371). -/
def State.wantsBank (s : State) (t w : Nat) : Bool := (s.warp t w).handler.isSome && Cells.get none s.handlerBank (s.team t).core != some (t, w)
/-- TRAP_DISPATCH (R348, R371): a path that waits for the bank takes it, or a restored warp takes it back. -/
def execTrapDispatch (team warp entry : Nat) (s : State) : Out :=
  let c := (s.team team).core
  if (Cells.get none s.handlerBank c).isSome || !(s.team team).acts then .next s
  else if s.wantsBank team warp then .next { s with handlerBank := Cells.set none s.handlerBank c (some (team, warp)) }
  else match ((s.warp team warp).entry entry).hold with
    | .trap t => .next (s.takeTrap team warp entry false t)
    | _ => .next s
/-- LINE_REFETCH (R351): a second mismatch is a machine check. -/
def execLineRefetch (team warp entry : Nat) (s : State) : Out :=
  let t := s.team team
  let p := (s.warp team warp).entry entry
  if !p.refetched then .next s
  else
    let s' := s.modWarp team warp fun w => w.modEntry entry fun p => { p with refetched := false }
    match s.readLine t.vdev (coreDie t.core) (corePort t.core) p.pc with
    | .ok (l, _) => .next (if lineParityOk l then s' else s.teamCheck team 3)
    | .error _ => .next s'
/-- YIELD_EXPIRE (R187). -/
def execYieldExpire (team warp entry : Nat) (s : State) : Out :=
  match ((s.warp team warp).entry entry).hold with
  | .yieldTill c => .next (if c ≤ s.cyc then s.modWarp team warp fun w => w.modEntry entry fun p => { p with hold := .none } else s)
  | _ => .next s
/-- PAUSE_EXPIRE (R357). -/
def execPauseExpire (team warp entry : Nat) (s : State) : Out :=
  match ((s.warp team warp).entry entry).hold with
  | .pauseTill c => .next (if c ≤ s.cyc then s.modWarp team warp fun w => w.modEntry entry fun p => { p with hold := .none } else s)
  | _ => .next s
/-- ACCESS_PERFORMED_AT_HOME (R309). -/
def execAccessPerformedAtHome (index : Nat) (s : State) : Out := .next (s.performAt index)

end Sys2Proof.Machine
end

