-- ==== Sys2Proof/Machine/Recovery.lean ====
section
/-! DEFINITION. Durability and recovery (spec/22 R418 to R435; spec/24 R443 to R449): journalling, seals, die resets, RECOVER, FORMAT, firmware verification and bring-up. -/

namespace Sys2Proof.Machine

open Sys2Proof

/-! Journal lines and seals (R423, R430, R431). -/

/-- The CRC of a journal line (R423). -/
def JLine.crc (l : JLine) : W32 :=
  crc32c (leBytes 8 (l.pa % 2 ^ 56 + l.vdev * 2 ^ 56) ++ leBytes 4 l.jseq.toNat ++ leBytes 8 l.handle.toNat ++ List.replicate 8 0 ++ l.data ++ leBytes 4 l.tag.toNat)
/-- Lines of a point of a virtual device on stack i, in JSEQ order. -/
def State.linesOf (s : State) (v : Nat) (n : W32) (i : Nat) : List JLine := (s.stk i).lines.filter fun l => l.vdev == v && l.tag == n
/-- One line folded into the digest (R431). -/
def foldLine (d : W64) (l : JLine) : W64 := d.rotateLeft 7 ^^^ BitVec.ofNat 64 (l.jseq.toNat * 2 ^ 32 + l.crc.toNat)
/-- DIGEST of a point. -/
def State.pointDigest (s : State) (v : Nat) (n : W32) : W64 := ((List.range 8).flatMap (s.linesOf v n)).foldl foldLine 0
/-- Lines of a point on every stack. -/
def State.pointLines (s : State) (v : Nat) (n : W32) : Nat := ((List.range 8).flatMap (s.linesOf v n)).length
/-- PERSTK of stack i. -/
def State.perStk (s : State) (v : Nat) (n : W32) (i : Nat) : Nat :=
  match s.linesOf v n i with | [] => 0 | l :: r => l.jseq.toNat * 2 ^ 32 + (r.length + 1)
/-- A seal record, 256 bytes (R430). -/
def State.sealRecord (s : State) (v : Nat) : List Byte :=
  let r := s.rp v
  let n := r.n
  let body := leBytes 4 0x4C534A46 ++ leBytes 2 1 ++ leBytes 2 v ++ leBytes 4 n.toNat ++ leBytes 4 0 ++ leBytes 8 (s.pointLines v n) ++ leBytes 8 (s.pointDigest v n).toNat
    ++ leBytes 8 r.keptAddr.toNat ++ leBytes 8 s.ns.toNat ++ List.replicate 16 0 ++ r.keptTask ++ ((List.range 8).flatMap fun i => leBytes 8 (s.perStk v n i)) ++ List.replicate 60 0
  body ++ leBytes 4 (crc32c body).toNat
/-- JOURNAL_WRITE (R423, R420). -/
def execJournalWrite (sector : Nat) (s : State) : Out := .next (s.journalSector sector)
/-- Handles covered by the point of a virtual device (R430). -/
def State.coveredBy (s : State) (v : Nat) : List Nat :=
  let n := (s.rp v).n
  (s.rp v).covered ++ ((List.range 8).flatMap fun i => ((s.stk i).undo.filter fun r => r.vdev == v && r.step == n).map UndoRec.task)
    ++ ((Cells.keys s.tasks).filter fun k => (s.task k).vdev == v && (s.task k).inStep n).map fun k => (s.handleOf k).toNat
/-- Every covered task has retired, or has gone; a torn point is never sealed (R432, R433). -/
def State.sealReady (s : State) (v : Nat) : Bool := (s.rp v).sealing && !(s.rp v).torn && (s.coveredBy v).all s.writerDone
/-- Sectors of a point become sealed (R430 step 3). -/
def State.sealTags (s : State) (v : Nat) (n : W32) : State :=
  { s with tags := s.tags.map fun c => (c.1, if c.2.vdev = v ∧ c.2.point = n ∧ ¬c.2.sealed then { c.2 with sealed := true, unjournalled := false, hbm := [] } else c.2) }
/-- SEAL (R430). -/
def execSealPoint (vdev : Nat) (s : State) : Out :=
  if !s.sealReady vdev then .next s
  else
    let s := (s.unjournalled vdev).foldl State.journalSector s
    if !s.durable vdev then .next s
    else
      let r := s.rp vdev
      let n := r.n
      let old : W32 := r.sealedN.truncate 32
      let rec_ := s.sealRecord vdev
      let lines := s.pointLines vdev n
      let dig := s.pointDigest vdev n
      let s := s.sealTags vdev n
      let s := (List.range 8).foldl (fun (s : State) i => s.modStk i fun k => { k with
        lines := k.lines.filter fun l => !(l.vdev == vdev && (l.tag == old || l.tag == 0) && l.tag != n), undo := k.undo.filter fun u => !(u.vdev == vdev && u.step == n) }) s
      let s := s.modRp vdev fun r => { r with
        slots := Cells.set [] r.slots (n.toNat % 2) rec_, sealedN := n.setWidth 64, dig := dig, task := r.keptAddr, cur := rpCur false false n, armer := none, covered := [] }
      .next (s.post 0 vdev 0x50 vdev 0 0 (n.toNat + lines * 2 ^ 32))

/-! Commands of RPCMD (R425, R433, R434). -/

/-- The events of a command go to the device's queue and to the host's, which issued it (R440). -/
def State.postBoth (s : State) (code v arg : Nat) : State := (s.post 0 v code v 0 0 arg).post 0 16 code v 0 0 arg
/-- A seal slot is valid (R433). -/
def slotValid (v : Nat) (b : List Byte) : Bool :=
  b.length == 256 && fieldAt b 0 4 == 0x4C534A46 && fieldAt b 4 2 == 1 && fieldAt b 6 2 == v && fieldAt b 0xFC 4 == (crc32c (b.take 252)).toNat
/-- The point to recover to, with its slot: the valid slot of the later N. -/
def RPoint.lastSeal (r : RPoint) (v : Nat) : Option (List Byte) :=
  ((List.range 2).map fun i => Cells.get [] r.slots i).foldl (fun b x =>
    if !slotValid v x then b
    else match b with
      | none => some x
      | some y => if (BitVec.ofNat 32 (fieldAt x 8 4) - BitVec.ofNat 32 (fieldAt y 8 4) : W32).toNat < 2 ^ 31 then some x else some y) none
/-- A launch's teams and unperformed writes vanish, and with them what they waited for of a journal. -/
def State.dropLaunch (s : State) (k : Nat) : State := ((s.teamsOf k).foldl State.removeTeam { s with pend := s.pend.filter fun p => p.task != k }).jrnSettle (s.task k).vdev
/-- Tasks of a virtual device that have not retired or ended. -/
def State.liveTasks (s : State) (v : Nat) : List Nat :=
  (Cells.keys s.tasks).filter fun k => let t := s.task k; t.vdev == v && (t.st == .waiting || t.st == .ready || t.st == .dispatched || t.st == .running)
/-- A task stopped by a reset, or by the recovery, completes with KILLED. -/
def State.killStopped (s : State) (k : Nat) : State := (((s.dropLaunch k).freeCons k).failTask k 0x306).modTask k fun t => { t with stopped := false, launch := { t.launch with snaps := [], snapWait := [], stopping := none } }
/-- A device's values tagged with another point than n are dropped from the home slices; the rest is in HBM. -/
def State.dropTags (s : State) (v : Nat) (n : W32) : State :=
  let gone := s.tags.filter fun c => c.2.vdev == v && c.2.point != n
  let m := gone.foldl (fun m c => if c.2.sealed || c.2.hbm.isEmpty then m else writeBytes m (32 * c.1) c.2.hbm) s.mem
  { s with mem := m, tags := s.tags.filter fun c => !(c.2.vdev == v && c.2.point != n) }
/-- Journal lines of a point written into HBM in ascending JSEQ. -/
def State.replayLines (s : State) (v : Nat) (n : W32) : State :=
  { s with mem := ((List.range 8).flatMap (s.linesOf v n)).foldl (fun m l => writeBytes m l.pa l.data) s.mem }
/-- A command ends. -/
def State.rpEnd (s : State) (v status : Nat) : State := s.modRp v fun r => { r with status := status, busy := false, cmd := 0 }
/-- RECOVER's effect on a device whose seal of n verifies, or has none (n = 0); the tasks that a reset stopped then complete with KILLED. -/
def State.recoverTo (s : State) (v : Nat) (n : W32) (b : List Byte) : State :=
  let s := s.dropTags v n
  let s := s.undoAll fun r => r.vdev == v && r.step != n
  let s := if n = 0 then s else s.replayLines v n
  let s := (List.range 8).foldl (fun (s : State) i => s.modStk i fun k => { k with lines := k.lines.map fun l => if l.vdev = v ∧ l.tag ≠ n then { l with tag := 0 } else l }) s
  let status := if n = 0 then 1 else 0
  let s := s.modRp v fun r => { r with
    torn := false, cur := rpCur false false n, sealedN := n.setWidth 64, dig := BitVec.ofNat 64 (if n = 0 then 0 else fieldAt b 0x18 8), task := BitVec.ofNat 64 (if n = 0 then 0 else fieldAt b 0x20 8),
    base := BitVec.ofNat 64 ((r.base.toNat / 2 ^ 32 + 1) % 2 ^ 32 * 2 ^ 32 + n.toNat), armer := none, covered := [], keptAddr := 0, keptTask := [] }
  let s := (s.rpEnd v status).postBoth 0x52 v (n.toNat + status * 2 ^ 32)
  (((s.liveTasks v).filter fun k => (s.task k).stopped).foldl State.killStopped s).jrnSettle v
/-- RECOVER (R434), when commanded. -/
def execRecover (vdev : Nat) (s : State) : Out :=
  let r := s.rp vdev
  if !(r.busy && r.cmd == 1) then .next s
  else
    match r.lastSeal vdev with
    | none => .next (s.recoverTo vdev 0 [])
    | some b =>
      let n : W32 := BitVec.ofNat 32 (fieldAt b 8 4)
      let count := fieldAt b 0x10 8 != s.pointLines vdev n || (List.range 8).any fun i => fieldAt b (0x80 + 8 * i) 8 != s.perStk vdev n i
      let dig := fieldAt b 0x18 8 != (s.pointDigest vdev n).toNat
      if count || dig then .next ((s.rpEnd vdev 2).postBoth 0x53 vdev (n.toNat + b2n count * 2 ^ 32 + b2n dig * 2 ^ 33))
      else .next (s.recoverTo vdev n b)
/-- FORMAT's effect (R425). -/
def State.formatVdev (s : State) (v : Nat) : State :=
  let s := (List.range 8).foldl (fun (s : State) i => s.modStk i fun k => { k with lines := k.lines.filter (fun l => l.vdev != v), undo := k.undo.filter fun u => u.vdev != v }) s
  ({ s with tags := s.tags.filter fun c => c.2.vdev != v }).modRp v fun r => { r with cur := 0, sealedN := 0, dig := 0, base := 0, task := 0, slots := [], keptAddr := 0, keptTask := [], armer := none, covered := [] }
/-- FORMAT (R425), when commanded: refused while a point is OPEN or PENDING. -/
def execFormat (vdev : Nat) (s : State) : Out :=
  let r := s.rp vdev
  if !(r.busy && r.cmd == 2) then .next s
  else if r.isOpen || r.sealing then .next (s.rpEnd vdev 3)
  else .next ((s.formatVdev vdev).rpEnd vdev 0)

/-! Firmware and bring-up (R443 to R449). -/

/-- The checks of a boot ROM (R443, R444): ERR, or the image's BDIG and SVN. -/
def fwCheck (fl : Cells Byte) : Except Nat (List Byte × Nat) :=
  let h := readBytes fl 0 256
  let n := fieldAt h 8 4
  if fieldAt h 0 4 ≠ 0x57464A46 ∨ fieldAt h 4 2 ≠ 1 ∨ fieldAt h 6 2 ≠ 0x100 ∨ n % 64 ≠ 0 ∨ n < 64 ∨ 16 * 2 ^ 20 < n then .error 1
  else if sha384 (slice h 0x40 96) ≠ Config.rootHash then .error 2
  else if !ecdsaVerify (slice h 0x40 96) (slice h 0xA0 96) (sha384 (h.take 0xA0)) then .error 3
  else if sha384 (readBytes fl 256 n) ≠ slice h 0x10 48 then .error 4
  else if fieldAt h 0xC 4 < Config.svnMin then .error 5
  else .ok (slice h 0x10 48, fieldAt h 0xC 4)
/-- CLEN of a die: every physical cluster but the two that are fused off (R26, R28). -/
def clen (d : Nat) : BitVec 20 :=
  let x := (Config.clen d).toNat
  ~~~((1#20 <<< (x % 20)) ||| (1#20 <<< ((x % 20 + 1 + x / 20 % 19) % 20)))
/-- Enabled physical clusters of a die, ascending: the n-th is CLUS.18d + n (R26). -/
def physClusters (d : Nat) : List Nat := (List.range 20).filter fun i => (clen d).getLsbD i
/-- Enabled clusters of a die (R28). -/
def numClus (d : Nat) : Nat := (physClusters d).length
/-- The physical cluster of DIE.d that holds a logical cluster (R26, R27). -/
def physOf (m : Nat) : Option Nat := (physClusters (m / 18))[m % 18]?
/-- BOOTSTAT with DIEOK of die d, ERR and READY changed. -/
def bootSet (b : W64) (d : Nat) (ok : Bool) (err : Option Nat) : W64 :=
  let x := b.toNat
  let x := setBits x (20 + d) (20 + d) (b2n ok)
  BitVec.ofNat 64 (match err with | some e => setBits x 15 8 e | none => x)
/-- The board has written an image into the flash before die d loads it (R445 step 2). -/
def State.reflashed (s : State) (d : Nat) : State :=
  match Cells.get [] s.reflash d with | [] => s | f => { s with flash := f, reflash := Cells.erase s.reflash d }
/-- Steps 1 to 3 of bring-up on a die (R445, R447): its image must be the other running dies'. -/
def State.bootDie (s : State) (d : Nat) : State :=
  let s := s.reflashed d
  let fail (e : Nat) : State := { (s.modDie d fun x => { x with inReset := true, bootErr := e }) with bootstat := bootSet s.bootstat d false (some e) }
  match fwCheck s.flash with
  | .error e => fail e
  | .ok (dig, svn) =>
    if (List.range 4).any fun j => j != d && !(s.die j).inReset && !(s.die j).fwdig.isEmpty && (s.die j).fwdig != dig then fail 7
    else if numClus d ≠ 18 then fail 6
    else { (s.modDie d fun x => { x with inReset := false, bootErr := 0, fwdig := dig, fwsvn := svn }) with bootstat := bootSet s.bootstat d true none }
/-- The identity block of DIE.0 (R449): 384 bytes, ATSIG by its identity key over the 0x110 bytes before it. -/
def idBlock (svn : Nat) (dig : List Byte) : List Byte :=
  let h := leBytes 4 0x44494A46 ++ leBytes 2 1 ++ leBytes 1 stepByte ++ leBytes 1 0 ++ leBytes 8 capCode ++ leBytes 4 svn ++ List.replicate 12 0 ++ dig
  let b := h ++ ecdsaPub (Config.identityKey 0) ++ ecdsaPub (Config.attestKey 0 dig)
  b ++ ecdsaSign (Config.identityKey 0) (sha384 b) ++ List.replicate 16 0

/-! Die reset (R432, R447). -/

/-- A virtual device can reach a home slice of die d from some port of its partition (R116, R432). -/
def State.reachesDie (s : State) (v d : Nat) : Bool :=
  (List.range 72).any fun m => s.clusPart m == (s.vdev v).partId && bits (s.hsmask (m / 18) (m % 18)).toNat (16 * d + 15) (16 * d) != 0
/-- A reset of die d affects a virtual device (R432). -/
def State.affected (s : State) (d v : Nat) : Bool :=
  (s.partDies (s.vdev v).partId).contains d || s.reachesDie v d
  || (Cells.keys s.tasks).any (fun k => taskDie k == d && (s.task k).vdev == v && (s.task k).st != .free)
  || (Cells.keys s.conss).any (fun c => c / 32 == d && (match (s.cons c).task with | some k => (s.task k).vdev == v | none => false))
  || (s.placedOf v).any fun k => coreDie (s.team k).core == d
/-- An affected task stops without completion: a launch at once, an update at its instruction boundary. -/
def State.stopTask (s : State) (k : Nat) : State := (s.dropLaunch k).modTask k fun t => { t with stopped := true, launch := { t.launch with stopping := none } }
/-- What the home slices of a die held of unsealed values is lost: HBM keeps its contents (R420, R432). -/
def State.loseSlices (s : State) (d : Nat) : State :=
  let here (c : Nat × SecTag) : Bool := paDie (32 * c.1) == d && !c.2.sealed
  { s with mem := (s.tags.filter here).foldl (fun m c => if c.2.hbm.isEmpty then m else writeBytes m (32 * c.1) c.2.hbm) s.mem, tags := s.tags.filter fun c => !here c }
/-- A die's units and registers at their reset values; producers keep the events they hold (R105, R107). -/
def resetDie (x : Die) : Die := { ({} : Die) with queues := x.queues.filterMap fun c => if c.2.held.isEmpty then none else some (c.1, { ({} : EvQueue) with held := c.2.held }), flesc := 0 }
/-- DIE.0's registers of a virtual device at their reset values; its list positions and the configuration in effect stand (log 33). -/
def resetVdev (x : Vdev) : Vdev :=
  { x with cfgW := 0, ptroot := 0, galvd := 0, hvec := 0, saveBase := 0, saveSize := 0, snapBase := 0, snapSize := 0,
           lists := x.lists.map fun c => (c.1, { c.2 with lbase := 0, lsz := 4, hdie := 0, prio := 0, en := false }) }
/-- BOOTSTAT after DIE.0's reset: 0, then what it reports of bring-up as it stands (R6, R446; DEDUCED, log 102). DIEOK tells which other dies have completed step 3. -/
def State.bootAgain (s : State) : State :=
  { s with bootstat := (List.range 4).foldl (fun b d => bootSet b d (d != 0 && !(s.die d).inReset && !(s.die d).fwdig.isEmpty) none) 0 }
/-- READY, once no die is held in reset (R445 step 6). -/
def State.bootReady (s : State) : State := if (List.range 4).any (fun d => (s.die d).inReset) then s else { s with bootstat := s.bootstat ||| 1 }
/-- DIE.0's package registers at their reset values (R6, R450). QCTL reads 0, or STATUS 3 where this reset ended a QUIESCE (R436; DESIGN CHOICE, log 103). -/
def State.resetDie0 (s : State) (ended : Bool) : State :=
  let p := s.power
  { s with vdevs := s.vdevs.map (fun c => (c.1, resetVdev c.2)), swtick := 1000, preq := 0, stepAbt := 0, qaddr := 0, qsize := 0,
           power := { p with plimNext := 2400, freqNext := 1800, pw := 0, temp := 0, cause := 0, f := 1800, energy := 0, thrc := 0 },
           qctl := if ended then 0x300 else 0, rhwnode := 0, rpoints := s.rpoints.map fun c => (c.1, { c.2 with busy := false, cmd := 0 }),
           stks := s.stks.map fun c => (c.1, { c.2 with jrnWait := 0 }) }
/-- A command of QCTL ends: STATUS, BUSY 0. -/
def State.qEnd (s : State) (status : Nat) : State := { s with qctl := BitVec.ofNat 64 (s.qctl.toNat % 16 + status * 256) }
/-- The other end of a Dammal edge (R408): end e of DIE.d has key 2 d + e, e = 0 for the edge to the die of its row, 1 for its column. -/
def dmlOther (l : Nat) : Nat := if l % 2 = 0 then 2 * ((l / 2) ^^^ 1) else 2 * ((l / 2) ^^^ 2) + 1
/-- DIE_RESET (R432, R433, R436, R447, R20, R404): it ends a QUIESCE, an open or pending point of an affected device is torn, both ends of every edge of the die start again at full width, and no translation stays cached. -/
def execDieReset (die : Nat) (s : State) : Out :=
  let vs := (List.range 16).filter (s.affected die)
  let s := (vs.flatMap s.liveTasks).foldl State.stopTask s
  let s := vs.foldl (fun (s : State) v => if (s.rp v).isOpen || (s.rp v).sealing then s.modRp v fun r => { r with torn := true } else s) s
  let ended := s.qctl.getLsbD 7 && bits s.qctl.toNat 5 4 == 1
  let s := if ended then (s.qEnd 3).modVdev (s.qctl.toNat % 16) fun x => { x with frozen := false } else s
  let s := (List.range 16).foldl State.jrnSettle (s.loseSlices die)
  let s := { s with
    tlb := [],
    gallery := s.gallery.filter fun c => c.1 / 2 ^ 29 != die, engines := s.engines.filter fun c => c.1 / 18 != die, rills := s.rills.filter fun c => c.1 / 64 / 18 != die,
    handlerBank := s.handlerBank.filter fun c => coreDie c.1 != die, lastIssue := s.lastIssue.filter fun c => coreDie (c.1 / 2) != die,
    links := (s.links.filter fun c => !((8 ≤ c.1 && c.1 % 8 / 2 == die) || (c.1 < 8 && (c.1 / 2 == die || dmlOther c.1 / 2 == die)))) }
  let s := s.modDie die resetDie
  .next (if die = 0 then ((s.resetDie0 ended).bootAgain.bootDie 0).bootReady else s.bootDie die)

end Sys2Proof.Machine
end

