-- ==== Sys2Proof/Machine/Image.lean ====
section
/-! DEFINITION. QUIESCE, RESUME and RESTORE, and the state image (spec/22 R436 to R439). What the image has no field for is said in log 32. -/

namespace Sys2Proof.Machine

open Sys2Proof

/-! Freezing (R436). -/

/-- A command of QCTL runs for a virtual device. -/
def State.qBusy (s : State) (cmd v : Nat) : Bool := s.qctl.getLsbD 7 && bits s.qctl.toNat 5 4 == cmd && s.qctl.toNat % 16 == v
/-- A halted team is kept by the part; a guest request that has still to handle it counts it as saved (log 29). -/
def State.keepTeam (s : State) (k : Nat) : State :=
  let s := if (s.team k).inRequest then s.preqCount (s.team k).task cntSaved else s
  (s.freeFaults fun b => b == .save k || b == .restore k).stash k
/-- A team stands at a unit that it has performed in part before a fault: a record has no place for that (R253, R321, log 78). -/
def Team.partly (t : Team) : Bool := t.warps.any fun w => w.2.path.any (fun p => p.2.valid && p.2.done != 0) || w.2.th.any fun th => th.2.st == .spilled && th.2.did
/-- QUIESCE (R436 steps 1 to 3): once no team of the device stands in a unit performed in part (log 78), dispatch, fetching and updates stop, and every placed team is halted and, its chunks in flight complete, saved; the part keeps the teams itself (log 29). -/
def execQuiesce (vdev : Nat) (s : State) : Out :=
  let ts := s.placedOf vdev
  if !s.qBusy 1 vdev || ((s.vdev vdev).frozen && ts.isEmpty) then .next s
  else if !(s.vdev vdev).frozen && s.teams.any (fun t => t.2.vdev == vdev && t.2.partly) then .next s
  else
    let s := ts.foldl State.haltTeam (s.modVdev vdev fun x => { x with frozen := true })
    .next (if s.chunksOut ts then s else ts.foldl State.keepTeam s)
/-- RESUME (R436). -/
def execResumeFrozen (vdev : Nat) (s : State) : Out :=
  if s.qBusy 2 vdev then .next ((s.qEnd 0).modVdev vdev fun x => { x with frozen := false }) else .next s

/-! The image (R437, R438). -/

/-- A saved team's record: from SAVEPOOL, or as the part keeps it. -/
def State.recordBytes (s : State) (k : Nat) : List Byte :=
  match (s.team k).record with
  | some (a, n) =>
    (match s.devRead (taskDie (s.team k).task) (s.team k).vdev a n with
     | .ok (bs, _) => bs.take 0x1D ++ [bs.getD 0x1D 0 ||| (s.team k).tevt] ++ bs.drop 0x1E
     | .error _ => s.recordOf k)
  | none => s.recordOf k
/-- State code of a task (R438). -/
def TaskSt.code : TaskSt → Nat | .waiting => 0 | .ready => 1 | .dispatched => 2 | .running => 3 | _ => 4
/-- A gang block. -/
def State.gangBlock (s : State) (k g : Nat) : List Byte := leBytes 8 g ++ ((sortOn (fun t => (s.team t).pos) (s.gangTeams k g)).flatMap s.recordBytes)
/-- The rest of an admitted launch's section. -/
def State.launchSect (s : State) (k : Nat) : List Byte :=
  let l := (s.task k).launch
  let entry (g : List Nat) : List Byte := (List.range 4).flatMap fun j => leBytes 2 (g.getD j 0xFFFF)
  if !l.admitted then []
  else l.adm.raw ++ ((List.range (l.adm.ngang * l.adm.tpg)).flatMap fun n => entry (l.adm.groups.getD n []))
    ++ ((List.range l.adm.ngroup).flatMap fun g => leBytes 4 (Cells.get {} l.groups g).phase) ++ cntBytes l.cnt ++ leBytes 4 l.nextGang ++ leBytes 4 l.saved.length
    ++ (sortOn id l.saved).flatMap (s.gangBlock k)
/-- The rest of a dispatched update's section. -/
def State.updSect (s : State) (k : Nat) : List Byte :=
  let t := s.task k
  let c := s.cons t.upd.cons
  let mine := c.task == some k
  let back := t.upd.resume.getD ([], 0)
  if t.upd.raw.isEmpty then []
  else t.upd.raw ++ ((List.range 16).flatMap fun i => lanes64.flatMap fun l => leBytes 4 (if mine then c.lane i l else Cells.get 0 back.1 (64 * i + l)).toNat)
    ++ ((List.range 8).flatMap fun i => leBytes 8 (if mine then c.caAt i else t.upd.ca.getD i 0).toNat) ++ leBytes 4 (if mine then c.pc else back.2)
    ++ leBytes 4 (if mine then c.nflags else t.upd.nflags).toNat ++ List.replicate 56 0
/-- A task section. -/
def State.taskSect (s : State) (k : Nat) : List Byte :=
  let t := s.task k
  let body := if t.trec.kind = 2 then s.updSect k else s.launchSect k
  padTo 128 (leBytes 4 (if t.trec.kind = 2 then 0x50554A46 else 0x414C4A46) ++ leBytes 1 (if t.upd.resume.isSome then 3 else t.st.code) ++ leBytes 1 t.rcvd ++ leBytes 2 0 ++ leBytes 8 (s.handleOf k).toNat ++ t.trec.raw
    ++ leBytes 8 (128 + body.length)) ++ body
/-- An undo record's 64 bytes (R394). -/
def UndoRec.bytes (r : UndoRec) (seq : Nat) : List Byte :=
  let a := leBytes 8 r.pa ++ leBytes 4 r.step.toNat ++ leBytes 4 seq ++ leBytes 8 r.task
  a ++ leBytes 4 (crc32c (a ++ r.old)).toNat ++ leBytes 4 0 ++ r.old
/-- Undo entries of an image: the device's records of step n, then one for each sector tagged with the unsealed point (R437). -/
def State.imageUndo (s : State) (v : Nat) : List UndoRec :=
  let n := (s.rp v).n
  ((List.range 8).flatMap fun i => (s.stk i).undo.filter fun r => r.vdev == v && r.step == n)
    ++ s.tags.filterMap fun c => if c.2.vdev = v ∧ c.2.point = n ∧ ¬c.2.sealed then some { pa := 32 * c.1, step := n, vdev := v, old := if c.2.hbm.isEmpty then readBytes s.mem (32 * c.1) 32 else c.2.hbm } else none
/-- Nonzero edge slots: {list, position, count} (R100). -/
def State.imageEdges (s : State) (v : Nat) : List (Nat × Nat × Nat) :=
  (s.vdev v).lists.flatMap fun c => c.2.window.map fun w => (c.1, (c.2.head.toNat + (w.1 + 4096 - c.2.head.toNat % 4096) % 4096) % 2 ^ 32, w.2.1)
/-- Tasks of an image, in ascending handle. -/
def State.imageTasks (s : State) (v : Nat) : List Nat := sortOn (fun k => (s.handleOf k).toNat) ((Cells.keys s.tasks).filter fun k => (s.task k).vdev == v && (s.task k).st != .free)
/-- LCTL of a list (R94). -/
def SubList.lctl (x : SubList) (l : Nat) : Nat := x.lsz * 2 ^ 16 + x.hdie * 2 ^ 12 + (if l = 15 then 15 else x.prio) * 2 ^ 8 + b2n x.en
/-- The device section, 768 bytes. -/
def State.deviceSect (s : State) (v : Nat) : List Byte :=
  let r := s.rp v
  let x := s.vdev v
  padTo 768 (padTo 8 (leBytes 4 0x44564A46) ++ ([r.cur, r.sealedN, r.dig, r.base, r.task].flatMap fun y => leBytes 8 y.toNat) ++ leBytes 8 r.keptAddr.toNat ++ padTo 64 r.keptTask ++ List.replicate 8 0
    ++ padTo 256 (if r.sealedN = 0 then [] else Cells.get [] r.slots (r.sealedN.toNat % 2))
    ++ ((List.range 16).flatMap fun l => let y := x.list l; leBytes 8 y.lbase.toNat ++ leBytes 4 (y.lctl l) ++ leBytes 4 y.head.toNat)
    ++ leBytes 8 x.cfgW.toNat ++ leBytes 8 (BitVec.ofInt 64 x.credit).toNat ++ leBytes 1 (b2n x.defer))
/-- The image with its DIGEST taken as 0. -/
def State.imageBody (s : State) (v : Nat) : List Byte :=
  let us := s.imageUndo v
  let es := s.imageEdges v
  let ks := s.imageTasks v
  let rest := s.deviceSect v ++ ((List.range us.length).flatMap fun i => (us.getD i {}).bytes i) ++ (es.flatMap fun e => leBytes 8 (e.1 + e.2.1 * 2 ^ 4 + e.2.2 * 2 ^ 40)) ++ ks.flatMap s.taskSect
  padTo 256 (leBytes 4 0x4D494A46 ++ leBytes 2 1 ++ leBytes 2 v ++ leBytes 8 (256 + rest.length) ++ leBytes 8 capCode ++ padTo 8 (leBytes 1 stepByte) ++ List.replicate 48 0
    ++ leBytes 4 ks.length ++ leBytes 4 us.length ++ leBytes 4 es.length) ++ rest
/-- An image with its DIGEST. -/
def withDigest (b : List Byte) : List Byte := b.take 0x20 ++ sha384 b ++ b.drop 0x50
/-- Everything outside the frozen device has settled: no outbound request, write or signal of it is outstanding, and no task waits to complete (R436 step 4). -/
def State.quiet (s : State) (v : Nat) : Bool :=
  (s.placedOf v).isEmpty && !s.pend.any (fun p => p.vdev == v) && !s.cxl.any (fun c => c.pend.vdev == v)
  && !s.conss.any (fun c => c.2.pendSig.any fun x => (s.task (x.1 % 65536)).vdev == v) && !s.tasks.any fun c => c.2.vdev == v && c.2.st == .complete
/-- QUIESCED to the device's queue and the host's. -/
def State.quiesced (s : State) (v status size : Nat) : State := { (s.qEnd status).postBoth 0x54 v (status + size * 2 ^ 64) with qsize := BitVec.ofNat 64 size }
/-- QUIESCE_IMAGE_WRITTEN (R436 step 5): a buffer that cannot be written keeps the command running (log 32). -/
def execQuiesceImageWritten (vdev : Nat) (s : State) : Out :=
  if !s.qBusy 1 vdev || !(s.vdev vdev).frozen || !s.quiet vdev then .next s
  else
    let s := (s.unjournalled vdev).foldl State.journalSector s
    if !s.durable vdev then .next s
    else
      let b := s.imageBody vdev
      if s.qsize.toNat < b.length then .next (s.quiesced vdev 2 b.length)
      else match s.devWrite 0 vdev s.qaddr.toNat (withDigest b) with
        | .ok s => .next (s.quiesced vdev 0 b.length)
        | .error _ => .next s

/-! RESTORE (R439). -/

/-- Sections of an image's tasks: {offset, bytes}; the last may be cut short. -/
def cutTasks : Nat → Nat → List Byte → List (Nat × List Byte)
  | 0, _, _ => []
  | n + 1, o, bs => let z := max 128 (fieldAt bs 0x50 8); (o, bs.take z) :: cutTasks n (o + z) (bs.drop z)
/-- Gang blocks: {offset, gang, records}. -/
def cutGangs (tpg : Nat) : Nat → Nat → List Byte → List (Nat × Nat × List (Nat × List Byte))
  | 0, _, _ => []
  | n + 1, o, bs =>
    let recs := (List.range tpg).foldl (fun (a : List (Nat × List Byte) × Nat) _ => let z := fieldAt bs (a.2 + 8) 4; (a.1 ++ [(o + a.2, slice bs a.2 z)], a.2 + z)) ([], 8)
    (o, fieldAt bs 0 8, recs.1) :: cutGangs tpg n (o + recs.2) (bs.drop recs.2)
/-- An admitted launch's section taken apart, offsets from the section's start. -/
structure LSect where
  lrec : List Byte := []
  groups : List (List Nat) := []
  phases : List Nat := []
  cnt : List Byte := []
  next : Nat := 0
  nsaved : Nat := 0
  blocks : List (Nat × Nat × List (Nat × List Byte)) := []
  size : Nat := 0
/-- Where the group table of a section ends. -/
def lsectFrom (b : List Byte) : LSect :=
  let r := slice b 128 1024
  let n := fieldAt r 0x28 4 * fieldAt r 0x2C 1
  let ng := fieldAt r 0x50 2
  let p := 128 + 1024 + 8 * n
  let q := p + 4 * ng + 756
  let ns := fieldAt b (q + 4) 4
  let bl := cutGangs (fieldAt r 0x2C 1) ns (q + 8) (b.drop (q + 8))
  { lrec := r, groups := (List.range n).map (groupsOf (slice b 1152 (8 * n))), phases := (List.range ng).map fun g => fieldAt b (p + 4 * g) 4, cnt := slice b (p + 4 * ng) 756,
    next := fieldAt b q 4, nsaved := ns, blocks := bl, size := bl.foldl (fun z x => z + 8 + x.2.2.foldl (fun y r => y + r.2.length) 0) (q + 8) }
/-- A launch as an image gives it, admitted against the object and binding record in the target's memory. -/
def State.launchFrom (s : State) (v k : Nat) (b : List Byte) : State :=
  let l := lsectFrom b
  let s := (s.modTask k fun _ => { st := .ready, vdev := v, gen := BitVec.ofNat 32 (fieldAt b 8 8 / 65536), trec := parseTask (slice b 16 64) (fieldAt b 0x18 4) }).admitObj k l.lrec l.groups
  s.modLaunch k fun x => { x with
    groups := (List.range l.phases.length).foldl (fun m g => Cells.set {} m g { phase := l.phases.getD g 0 }) [],
    cnt := (List.range 63).foldl (fun m i => let f (o : Nat) : W32 := BitVec.ofNat 32 (fieldAt l.cnt (12 * i + o) 4)
      Cells.set {} m (i + 1) { satc := f 0, unfc := f 4, evc := f 8, firstDone := f 8 != 0 }) [],
    nextGang := l.next, saved := l.blocks.map fun x => x.2.1, retiredGangs := (List.range l.next).filter fun g => !l.blocks.any fun x => x.2.1 == g }
/-- A saved team of an image, before its record is read. -/
def State.teamBase (s : State) (v k g i : Nat) : Team :=
  let a := (s.task k).launch.adm
  { st := .saved, task := k, vdev := v, gang := g, pos := i, num := g * a.tpg + i, wpt := a.wpt, tpg := a.tpg, scrk := a.scrk,
    warps := (List.range a.wpt).foldl (fun m w => Cells.set {} m w (newWarp a)) [] }
/-- Checks of the gang blocks of a launch section (R369, R370). -/
def State.blockChk (s : State) (v k o : Nat) (l : LSect) : List Chk :=
  l.blocks.flatMap fun x => (o + x.1, 0, decide (x.2.1 < l.next)) ::
    (List.range x.2.2.length).flatMap fun i =>
      let r := x.2.2.getD i (0, [])
      (recordChk (s.teamBase v k x.2.1 i) (s.handleOf k) r.2).map fun c => (o + r.1 + c.1, c.2.1, c.2.2)
/-- Checks of one task section at offset o (R438, R439). -/
def State.sectChk (s : State) (v o : Nat) (b : List Byte) : List Chk :=
  let upd := fieldAt b 0 4 == 0x50554A46
  let h := fieldAt b 8 8
  let k := h % 65536
  let l := lsectFrom b
  let z := fieldAt b 0x50 8
  [(o, 0, upd || fieldAt b 0 4 == 0x414C4A46), (o + 4, 0, decide (fieldAt b 4 1 ≤ 4)), (o + 6, 0, fieldAt b 6 2 == 0),
   (o + 8, 0, decide (k < 16384 ∧ h / 65536 < 2 ^ 32 ∧ 65536 ≤ h) && (s.task k).st == .free), (o + 0x10, 0, taskRecOk (slice b 16 64) 0 && fieldAt b 0x14 1 == (if upd then 2 else 1)),
   (o + 0x50, 0, z == b.length && (z == 128 || (if upd then z == 128 + 4480 else decide (1152 ≤ z) && z == l.size)))]
  ++ zeroChk b 0x58 40 0 o
  ++ (if upd then (if z = 128 then [] else (o + 128, 0, udescOk (slice b 128 256)) :: zeroChk b (128 + 4424) 56 0 o)
      else if z = 128 then []
      else
        let s' := s.launchFrom v k b
        ((lrecChk l.lrec).map fun c => (o + 128 + c.1, c.2.1, c.2.2)) ++ [(o + 128, 0, (s'.task k).launch.admitted)] ++ s'.blockChk v k o l)
/-- Checks of undo entry i at offset o. -/
def undoChk (o i : Nat) (b : List Byte) : List Chk :=
  [(o, 0, decide (fieldAt b 0 8 % 32 = 0) && paSpace (fieldAt b 0 8) == .hbm), (o + 0xC, 0, fieldAt b 0xC 4 == i), (o + 0x18, 0, fieldAt b 0x18 4 == (crc32c (b.take 24 ++ slice b 32 32)).toNat), (o + 0x1C, 0, fieldAt b 0x1C 4 == 0)]
/-- Every check of an image, in order of offset. -/
def State.imageChk (s : State) (v : Nat) (b : List Byte) : List Chk :=
  let f (o n : Nat) := fieldAt b o n
  let c (o : Nat) (ok : Bool) : Chk := (o, 0, ok)
  let nu := f 0x54 4
  let ne := f 0x58 4
  let us := 1024
  let es := us + 64 * nu
  let ts := es + 8 * ne
  let sects := cutTasks (f 0x50 4) ts (b.drop ts)
  let free := !s.tasks.any (fun x => x.2.vdev == v && x.2.st != .free) && !(s.rp v).isOpen && !(s.rp v).sealing
  [c 0 (f 0 4 == 0x4D494A46 && free), c 4 (f 4 2 == 1), c 6 (decide (f 6 2 < 16)), c 8 (f 8 8 == b.length && b.length == sects.foldl (fun z x => z + x.2.length) ts),
   c 0x10 (bits (f 0x10 8) 47 16 == bits capCode 47 16), c 0x20 (slice b 0x20 48 == sha384 (b.take 0x20 ++ List.replicate 48 0 ++ b.drop 0x50))]
  ++ zeroChk b 0x19 7 0 0 ++ zeroChk b 0x5C 164 0 0 ++ [c 0x100 (f 0x100 4 == 0x44564A46)] ++ zeroChk b 0x104 4 0 0 ++ [c 0x10C (f 0x10C 4 % 2 ^ 30 == 0)] ++ zeroChk b 0x114 4 0 0 ++ zeroChk b 0x178 8 0 0
  ++ ((List.range 16).flatMap fun l => [c (0x280 + 16 * l) (f (0x280 + 16 * l) 8 % 64 == 0), c (0x288 + 16 * l) (let x := f (0x288 + 16 * l) 4; decide (x < 2 ^ 21 ∧ 4 ≤ x / 2 ^ 16 ∧ x / 2 ^ 16 ≤ 16) && bits x 15 14 == 0 && bits x 7 1 == 0)])
  ++ [c 0x380 (f 0x380 8 &&& vdcfgMask.toNat == f 0x380 8)]
  ++ [c 0x390 (decide (f 0x390 1 ≤ 1))] ++ zeroChk b 0x391 111 0 0
  ++ ((List.range nu).flatMap fun i => undoChk (us + 64 * i) i (slice b (us + 64 * i) 64))
  ++ ((List.range ne).map fun i => c (es + 8 * i) (let e := f (es + 8 * i) 8; bits e 39 36 == 0 && decide (e < 2 ^ 48)))
  ++ (List.range sects.length).flatMap fun i =>
    let x := sects.getD i (0, [])
    (x.1 + 8, 0, i == 0 || decide (fieldAt (sects.getD (i - 1) (0, [])).2 8 8 < fieldAt x.2 8 8)) :: s.sectChk v x.1 x.2

/-- The list of a restored task: the one whose slot holds its handle in the target's memory, else 0 (log 32). -/
def State.listOf (s : State) (v : Nat) (h seq : Nat) : Nat :=
  ((List.range 16).find? fun l => let x := (s.vdev v).list l
    (x.en || x.lbase != 0) && (match s.devRead x.hdie v (x.slot seq + 0x30) 8 with | .ok (bs, _) => fieldAt bs 0 8 == h | .error _ => false)).getD 0
/-- Numbers of a record's collective counters that are not complete: GSYNC.nb in the present phase of the team's first group, as the image names no group (log 32). -/
def State.nbFrom (s : State) (k num : Nat) (b : List Byte) : List GsyncNb :=
  let l := (s.task k).launch
  let g := (l.adm.groups.getD num []).headD 0
  (List.range 8).flatMap fun n =>
    let c := tlFrom (slice b (0x1100 + 32 * n) 32)
    if c.owner = 4 then (List.range (c.iss.toNat - c.done.toNat)).map fun i => { group := g, phase := (Cells.get {} l.groups g).phase, tl := n, num := c.done.toNat + 1 + i } else []
/-- The arrivals that a restored team's numbers in progress stand for, as its first warps': the image does not say whose they are (log 32). A path that waited arrives again by itself. -/
def State.nbArrive (s : State) (k num wpt : Nat) (nb : List GsyncNb) : State :=
  match nb with
  | [] => s
  | b :: _ => s.modLaunch k fun l => { l with
      groups := Cells.modify {} l.groups b.group fun p => { p with arrived := p.arrived ++ (List.range (min nb.length wpt)).map fun w => (num, w) } }
/-- A restored team, kept by the part until its gang is placed, with PRIV's pages in its private page lists (log 32). -/
def State.putTeam (s : State) (v k g i : Nat) (b : List Byte) : State :=
  let n := s.nextTeam
  let x := s.teamBase v k g i
  let nb := s.nbFrom k x.num b
  let s := ({ s with teams := Cells.set {} s.teams n { x with nb := nb }, nextTeam := n + 1 } : State).nbArrive k x.num x.wpt nb
  let s := (List.range x.wpt).foldl (fun s w => s.addPages n w (((s.task k).launch.adm.priv + 2047) / 2048)) s
  let t := s.teamFrom n b (s.nextUnit v)
  let s := s.modTeam n fun _ => { t with st := .saved, record := none }
  if t.allEnded then s.modLaunch k fun l => { l with endedTeams := l.endedTeams ++ [t.num] } else s
/-- A running update waits, dispatched, for its conservator, to go on at its PC with its registers (R439). -/
def State.putUpd (s : State) (k : Nat) (b : List Byte) : State :=
  let secs := ((s.stk ((s.task k).upd.cons / 16)).undo.filter fun r => r.task == (s.handleOf k).toNat).map fun r => r.pa / 32
  let cv := (List.range 16).foldl (fun m i => lanes64.foldl (fun m l => Cells.set 0 m (64 * i + l) (BitVec.ofNat 32 (fieldAt b (384 + 256 * i + 4 * l) 4))) m) []
  s.modTask k fun t => { t with
    st := .dispatched, upd := { t.upd with
      logged := secs, written := secs, nlog := secs.length, resume := some (cv, fieldAt b 4544 4), nflags := BitVec.ofNat 32 (fieldAt b 4548 4),
      ca := (List.range 8).map fun i => BitVec.ofNat 64 (fieldAt b (4480 + 8 * i) 8) } }
/-- A task of an image installed under its own handle. -/
def State.putTask (s : State) (v : Nat) (b : List Byte) : State :=
  let h := fieldAt b 8 8
  let k := h % 65536
  let seq := fieldAt b 0x18 4
  let r := parseTask (slice b 16 64) seq
  let list := s.listOf v h seq
  let st : TaskSt := match fieldAt b 4 1 with | 0 => .waiting | 1 => .ready | 2 => .dispatched | 3 => .running | _ => .retired
  let s := if fieldAt b 0x50 8 = 128 then s.modTask k fun _ => {}
    else if r.kind = 2 then (match s.updRead (taskDie k) v (slice b 128 256) with | .ok (u, s) => s.modTask k fun _ => { upd := u } | .error c => s.modTask k fun _ => { status := c })
    else s.launchFrom v k b
  let bad := (s.task k).status ≠ 0
  let s := s.modTask k fun t => { t with
    st := if bad then .complete else st, gen := BitVec.ofNat 32 (h / 65536), vdev := v, list := list, trec := r, npred := r.npred + b2n (list == 15), rcvd := fieldAt b 5 1, order := s.nextOrder }
  let s : State := { (s.modList v list fun x => { x with notRetired := x.notRetired ++ [seq] }) with nextOrder := s.nextOrder + 1 }
  let s := if (s.task k).st = .ready then s.opportune (taskDie k) v else s
  if bad ∨ fieldAt b 0x50 8 = 128 then s
  else if r.kind = 2 then (if st = .running then s.putUpd k b else s)
  else (lsectFrom b).blocks.foldl (fun s x => (List.range x.2.2.length).foldl (fun s i => s.putTeam v k x.2.1 i (x.2.2.getD i (0, [])).2) s) s
/-- An image that passed its checks is installed. -/
def State.install (s : State) (v : Nat) (b : List Byte) : State :=
  let f (o n : Nat) := fieldAt b o n
  let w (o : Nat) : W64 := BitVec.ofNat 64 (f o 8)
  let nu := f 0x54 4
  let ne := f 0x58 4
  let ts := 1024 + 64 * nu + 8 * ne
  let sealedN := f 0x110 8
  let s := s.modVdev v fun x => { x with
    frozen := false, credit := (w 0x388).toInt, defer := f 0x390 1 == 1,
    lists := (List.range 16).foldl (fun m l =>
      let o := 0x280 + 16 * l
      let c := f (o + 8) 4
      let hd : W32 := BitVec.ofNat 32 (f (o + 12) 4)
      Cells.set {} m l { lbase := w o, lsz := bits c 20 16, hdie := bits c 13 12, prio := bits c 11 8, en := natBit c 0, head := hd, tail := hd }) [] }
  let s := (List.range ne).foldl (fun (s : State) i =>
    let e := f (1024 + 64 * nu + 8 * i) 8
    s.modList v (e % 16) fun x => { x with window := Cells.set (0, false) x.window (bits e 35 4 % 4096) (bits e 47 40, false) }) s
  let s := s.modRp v fun r => { r with
    cur := w 0x108, sealedN := w 0x110, dig := w 0x118, base := w 0x120, task := w 0x128, keptAddr := w 0x130, keptTask := if (w 0x108).getLsbD 62 then slice b 0x138 64 else [],
    slots := if sealedN = 0 then r.slots else Cells.set [] r.slots (sealedN % 2) (slice b 0x180 256), armer := none, covered := [] }
  let s := (List.range nu).foldl (fun (s : State) i =>
    let e := slice b (1024 + 64 * i) 64
    s.pushUndo (fieldAt e 0 8 / 32) (fieldAt e 16 8) v (BitVec.ofNat 32 (fieldAt e 8 4)) (slice e 32 32)) s
  let s := (cutTasks (f 0x50 4) ts (b.drop ts)).foldl (fun s x => s.putTask v x.2) s
  -- which launches had written under the point the image does not say: each admitted one covers it (log 32)
  let hs := ((s.liveTasks v).filter fun k => (s.task k).launch.admitted).map fun k => (s.handleOf k).toNat
  s.modRp v fun r => { r with covered := if r.isOpen || r.sealing then hs else [] }
/-- RESTORED to the device's queue and the host's. -/
def State.restored (s : State) (v status off : Nat) : State := (s.qEnd status).postBoth 0x55 v (status + off * 2 ^ 64)
/-- RESTORE (R439), when commanded. -/
def execRestoreImage (vdev : Nat) (s : State) : Out :=
  if !s.qBusy 3 vdev then .next s
  else
    match s.devRead 0 vdev s.qaddr.toNat 256 with
    | .error _ => .next (s.restored vdev 1 0)
    | .ok (h, s) =>
      match s.devRead 0 vdev s.qaddr.toNat (max 1024 (min (fieldAt h 8 8) (2 ^ 40))) with
      | .error _ => .next (s.restored vdev 1 8)
      | .ok (b, s) =>
        match firstBad (s.imageChk vdev b) with
        | some (off, _) => .next (s.restored vdev 1 off)
        | none => .next ((s.install vdev b).restored vdev 0 0)

end Sys2Proof.Machine
end

