-- ==== Sys2Proof/Machine/Links.lean ====
section
/-! DEFINITION. Links off the die (spec/21 R402 to R415): Dammal and Rhawin flits, retraining and loss, the CXL port, inbound peer traffic. -/

namespace Sys2Proof.Machine

open Sys2Proof

/-! Flits (R402, R403). -/

/-- The other end of a link: of a Dammal edge, or of a Rhawin port and its peer. -/
def otherEnd (l : Nat) : Nat := if l < 8 then dmlOther l else if l < 16 then l + 8 else l - 8
/-- The last SEQ received in sequence. -/
def LinkEnd.ack (e : LinkEnd) : BitVec 16 := e.expected - 1
/-- Flits of this end reach its wires. -/
def LinkEnd.up (e : LinkEnd) : Bool := decide (e.state < 2)
/-- Bytes 0x00 to 0xFB of a flit: SEQ, ACK, KIND, VC, reserved bytes and the payload, which the end fills up with zeros (R402). -/
def flitBody (seq ack : BitVec 16) (f : Flit) : List Byte :=
  leBytes 2 seq.toNat ++ leBytes 2 ack.toNat ++ [f.kind, f.vc, 0, 0] ++ padTo 244 (f.payload.take 244)
/-- The 256 bytes of a flit, its CRC-32C last (R402). -/
def flitImage (seq ack : BitVec 16) (f : Flit) : List Byte := let b := flitBody seq ack f; b ++ leBytes 4 (crc32c b).toNat
/-- A flit's CRC agrees (R402). -/
def flitOk (b : List Byte) : Bool := b.length == 256 && fieldAt b 0xFC 4 == (crc32c (b.take 0xFC)).toNat
/-- SEQ of a flit. -/
def flitSeq (b : List Byte) : BitVec 16 := BitVec.ofNat 16 (fieldAt b 0 2)
/-- ACK of a flit. -/
def flitAck (b : List Byte) : BitVec 16 := BitVec.ofNat 16 (fieldAt b 2 2)
/-- KIND, VC and payload of a flit. -/
def flitOf (b : List Byte) : Flit := { kind := BitVec.ofNat 8 (fieldAt b 4 1), vc := BitVec.ofNat 8 (fieldAt b 5 1), payload := slice b 8 244 }
/-- A flit damaged on the wires: a bit of its last byte is lost. -/
def flitHit (b : List Byte) : List Byte := b.take 0xFF ++ (b.drop 0xFF).map (· ^^^ 1)
/-- A flit transmitted. -/
def LinkEnd.transmit (e : LinkEnd) (seq : BitVec 16) (f : Flit) : LinkEnd := { e with wire := e.wire ++ [flitImage seq e.ack f] }
/-- SEND of a data flit that finds room in the buffer; on a retraining edge it waits there. `via` names the die its packet goes on to (R405). -/
def LinkEnd.enter (e : LinkEnd) (ns : Nat) (f : Flit) (via : Option Nat) : LinkEnd :=
  let x := { e with nextSeq := e.nextSeq + 1, buffer := e.buffer ++ [(e.nextSeq, f)], heldSince := if e.buffer.isEmpty && e.up then ns else e.heldSince,
                    via := e.via ++ via.toList.map fun d => (e.nextSeq, d) }
  if e.up then x.transmit e.nextSeq f else x
/-- Flits that wait enter the buffer, in order, while it has room. -/
def LinkEnd.pump (ns : Nat) : Nat → LinkEnd → LinkEnd
  | 0, e => e
  | n + 1, e =>
    match e.waiting with
    | [] => e
    | (f, v) :: r => if 512 ≤ e.buffer.length then e else LinkEnd.pump ns n (({ e with waiting := r }).enter ns f v)
/-- SEND of a data flit: it waits while the buffer holds 512 flits. -/
def LinkEnd.send (e : LinkEnd) (ns : Nat) (f : Flit) (via : Option Nat) : LinkEnd :=
  LinkEnd.pump ns (e.waiting.length + 1) { e with waiting := e.waiting ++ [(f, via)] }
/-- Every buffered flit transmitted again, in SEQ order. -/
def LinkEnd.resend (e : LinkEnd) : LinkEnd := e.buffer.foldl (fun e b => e.transmit b.1 b.2) e
/-- A retransmission started by this end, by NAK or by timer (R408). -/
def LinkEnd.replay (e : LinkEnd) : LinkEnd :=
  if e.buffer.isEmpty then e else { e.resend with repl := if e.repl = 0xFFFF then e.repl else e.repl + 1, retries := e.retries + 1 }
/-- A dropped flit counted in CRCE (R408). -/
def LinkEnd.dropped (e : LinkEnd) : LinkEnd := { e with crce := if e.crce = 0xFFFFF then e.crce else e.crce + 1 }
/-- A NAK flit, with ACK expected − 1. -/
def nakFlit : Flit := { kind := 2, vc := 0, payload := [] }
/-- Buffered flits up to and including an ACK are freed, and flits that wait take their room. -/
def LinkEnd.free (e : LinkEnd) (ns : Nat) (ack : BitVec 16) : LinkEnd :=
  let b := e.buffer.filter fun x => decide (2 ^ 15 ≤ (ack - x.1).toNat)
  if b.length = e.buffer.length then e
  else LinkEnd.pump ns e.waiting.length { e with buffer := b, via := e.via.filter fun v => b.any fun x => x.1 == v.1, retries := 0, heldSince := ns }
/-- RECEIVE of a flit's bytes at one end (R402, R403). -/
def LinkEnd.receive (e : LinkEnd) (ns : Nat) (b : List Byte) : LinkEnd :=
  let seq := flitSeq b
  let ack := flitAck b
  let f := flitOf b
  if !flitOk b then
    let e := e.dropped
    if e.nakOut then e else { e.transmit 0 nakFlit with nakOut := true }
  else if decide (3 < f.kind.toNat) || decide (2 < f.vc.toNat) then e.dropped
  else if f.kind = 0 ∧ seq ≠ e.expected then e
  else
    let e := if f.kind = 0 then { e with delivered := e.delivered ++ [f.payload], expected := e.expected + 1, nakOut := false } else e
    let e := e.free ns ack
    if f.kind = 2 then e.replay else e
/-- The die's other edge. -/
def sideEdge (l : Nat) : Nat := if l % 2 = 0 then l + 1 else l - 1
/-- Flits held at a down edge follow the die's other edge towards their die (R405). -/
def State.reroute (s : State) (l : Nat) : State :=
  let e := s.link l
  if 8 ≤ l ∨ e.state ≠ 3 ∨ (s.link (sideEdge l)).state = 3 then s
  else
    let held := e.buffer.map (fun b => (b.2, (e.via.find? fun v => v.1 == b.1).map Prod.snd)) ++ e.waiting
    (s.modLink l fun e => { e with buffer := [], via := [], waiting := [] }).modLink (sideEdge l) fun x =>
      held.foldl (fun x b => x.send s.ns.toNat b.1 (some (b.2.getD (otherEnd l / 2)))) x
/-- FLIT_SEND (R403): a flit of another kind is not buffered; a data flit for a down edge takes the remaining path (R405). -/
def execFlitSend (link : Nat) (flit : Flit) (s : State) : Out :=
  let e := s.link link
  if 24 ≤ link then .next s
  else if e.state = 3 then
    (if link < 8 ∧ flit.kind = 0 ∧ (s.link (sideEdge link)).state ≠ 3 then
      .next (s.modLink (sideEdge link) fun x => x.send s.ns.toNat flit (some (otherEnd link / 2))) else .next s)
  else if flit.kind = 0 then .next (s.modLink link fun e => e.send s.ns.toNat flit none)
  else if e.up then .next (s.modLink link fun e => e.transmit 0 flit)
  else .next s
/-- A data flit that an end has just accepted goes on along the chain, where its packet is for another die (R405). -/
def State.forward (s : State) (link : Nat) (via : Option Nat) (f : Flit) : State :=
  match via with
  | none => s
  | some d =>
    if d = link / 2 then s
    else (s.modLink link fun e => { e with delivered := e.delivered.dropLast }).modLink (sideEdge link) fun x => x.send s.ns.toNat f (some d)
/-- FLIT_RECEIVE (R403): the oldest flit on the wires to an end, whole or damaged there. -/
def execFlitReceive (link : Nat) (good : Bool) (s : State) : Out :=
  let o := otherEnd link
  match (s.link o).wire with
  | [] => .next s
  | b :: r =>
    if 24 ≤ link then .next s
    else
      let via := ((s.link o).via.find? fun v => v.1 == flitSeq b).map Prod.snd
      let n := (s.link link).delivered.length
      let s := (s.modLink o fun e => { e with wire := r }).modLink link fun e => e.receive s.ns.toNat (if good then b else flitHit b)
      .next (if link < 8 ∧ n < (s.link link).delivered.length then s.forward link via (flitOf b) else s)
/-- The replay timer of an end has run out: 1 µs with no advance of ACK. -/
def State.replayDue (s : State) (link : Nat) : Bool :=
  let e := s.link link
  decide (link < 24) && e.up && !e.buffer.isEmpty && decide (e.heldSince + 1000 ≤ s.ns.toNat)
/-- REPLAY_TIMEOUT (R403). -/
def execReplayTimeout (link : Nat) (s : State) : Out :=
  if s.replayDue link then .next (s.modLink link fun e => { e.replay with heldSince := s.ns.toNat }) else .next s

/-! Retraining of an edge (R404, R405). Edge 0 joins DIE.0 and DIE.1, 1 DIE.2 and DIE.3, 2 DIE.0 and DIE.2, 3 DIE.1 and DIE.3. -/

/-- Link keys of the two ends of an edge. -/
def edgeEnds (edge : Nat) : Nat × Nat := match edge with | 0 => (0, 2) | 1 => (4, 6) | 2 => (1, 5) | _ => (3, 7)
/-- Both ends of an edge changed. -/
def State.modEdge (s : State) (edge : Nat) (f : LinkEnd → LinkEnd) : State := let e := edgeEnds edge; (s.modLink e.1 f).modLink e.2 f
/-- EDGE_RETRAIN (R404). -/
def execEdgeRetrain (edge : Nat) (s : State) : Out :=
  let e := edgeEnds edge
  let due (l : Nat) : Bool := (s.link l).up && decide (8 ≤ (s.link l).retries)
  if 4 ≤ edge ∨ !(due e.1 || due e.2) then .next s
  else .next (s.modEdge edge fun x => { x with state := 2, wire := [], retries := 0, nakOut := false, heldSince := s.ns.toNat })
/-- A link event to the host queue of the die that observes it (R415). -/
def State.linkEvent (s : State) (d code arg : Nat) : State := s.post d 16 code 0xFF 0 0 arg
/-- An edge is down at its end. -/
def State.edgeDown (s : State) (edge : Nat) : Bool := (s.link (edgeEnds edge).1).state == 3
/-- Every compute die is reset, the dies being no longer connected (R405). -/
def State.resetAll (s : State) : State := (List.range 4).foldl (fun s d => match execDieReset d s with | .next s => s | _ => s) s
/-- RETRAIN_COMPLETE (R404): after 10 µs, at full width, at half width, or down. -/
def execRetrainComplete (edge : Nat) (good : BitVec 4) (s : State) : Out :=
  let e := edgeEnds edge
  let x := s.link e.1
  if 4 ≤ edge ∨ x.state ≠ 2 ∨ s.ns.toNat < x.heldSince + 10000 then .next s
  else
    let halfOk := good &&& 3 = 3 ∨ good &&& 12 = 12
    let down := ¬(good = 15) ∧ ¬halfOk
    let s := s.modEdge edge fun x => { x with
      good := good, half := x.half || decide (good ≠ 15), state := if down then 3 else if x.half ∨ good ≠ 15 then 1 else 0, heldSince := s.ns.toNat }
    if good = 15 then .next (s.modEdge edge LinkEnd.resend)
    else if halfOk then
      let s := s.modEdge edge LinkEnd.resend
      .next (((s.linkEvent (e.1 / 2) 0x60 (e.1 % 2 + 16 * good.toNat)).linkEvent (e.2 / 2) 0x60 (e.2 % 2 + 16 * good.toNat)))
    else
      let arg := e.1 / 2 + 4 * (e.2 / 2)
      let s := (s.linkEvent (e.1 / 2) 0x61 arg).linkEvent (e.2 / 2) 0x61 arg
      if 2 ≤ ((List.range 4).filter s.edgeDown).length then .next s.resetAll
      else .next ((s.reroute e.1).reroute e.2)

/-! The CXL port (R410, R411). -/

/-- XBAR at a unit whose requests ps have ended without an answer, in the threads they are of: its information names the first of them (R347, R360, R411, R414). -/
def State.abortTrap (s : State) (ps : List Pend) (pc : W64) : Trap :=
  let p := ps.headD {}
  { cause := MFault.xbar.cause, info := BitVec.ofNat 64 p.va, info2 := BitVec.ofNat 64 (p.va / 2 ^ 64),
    mask := maskOf (ps.filterMap fun p => p.ask.map Prod.fst), pc := pc, next := s.nextUnit p.vdev pc }
/-- Requests of some threads are given up; the unit that sent them starts again (R346). -/
def State.askStop (s : State) (k w : Nat) (ts : List Nat) : State :=
  (s.dropAsks fun q => q.askOf k w ts).modWarp k w fun x => x.modThreads ts fun th => { th with got := false }
/-- Requests ps of warp w of team k end without an answer: the unit that waits for them traps XBAR, of a path at once, of an evicted thread before its path issues, of a rill thread after its recall (R117, R165, R360, R411, R414). -/
def State.abortWarp (s : State) (k w : Nat) (ps : List Pend) : State :=
  let s := (List.range 8).foldl (fun (s : State) e =>
    let x := s.warp k w
    let p := x.entry e
    let hit := ps.filter fun q => p.valid && q.askOf k w (maskList p.mask)
    if hit.isEmpty then s else (s.askStop k w (maskList p.mask)).takeTrap k w e (x.isHandlerPath e) (s.abortTrap hit p.pc)) s
  (ps.filterMap fun q => q.ask.map Prod.fst).eraseDups.foldl (fun (s : State) t =>
    let th := (s.warp k w).thread t
    match th.st with
    | .spilled =>
      let ts := ((s.warp k w).inSt .spilled).filter fun u => ((s.warp k w).thread u).pc == th.pc
      let trap := s.abortTrap (ps.filter fun q => q.askOf k w ts) th.pc
      (s.askStop k w ts).modWarp k w fun x => x.modThreads ts fun u => { u with held := .none, pend := if u.pend.isSome then u.pend else some trap }
    | .away =>
      (match s.rills.find? fun c => c.2.used && !c.2.mirror && c.2.team == k && c.2.warp == w && c.2.thread == t with
       | some c => (s.askStop k w [t]).recallRill c.1 c.2.pc (some (s.abortTrap (ps.filter fun q => q.askOf k w [t]) c.2.pc))
       | none => s)
    | _ => s) s
/-- Threads' requests end without an answer, warp by warp. -/
def State.abortAsks (s : State) (ps : List Pend) : State :=
  ((ps.map fun p => (p.team, p.warp)).eraseDups).foldl (fun s x => s.abortWarp x.1 x.2 (ps.filter fun p => p.team == x.1 && p.warp == x.2)) s
/-- A decoder range: whole chunks of one stack's device memory outside the Cistern. -/
def State.hdmOk (s : State) (base size : Nat) : Bool :=
  base % 2 ^ 30 == 0 && size % 2 ^ 30 == 0 && paSpace base == .hbm && decide (base % 2 ^ 37 + size ≤ (80 - s.csize.toNat) * 2 ^ 30)
/-- HDM_DECODER_WRITE (R410): a size of 0 turns a decoder off, a breach is ignored. -/
def execHdmDecoderWrite (dec : Nat) (base size : W64) (s : State) : Out :=
  if 2 ≤ dec then .next s
  else if size = 0 then .next { s with hdm := Cells.set none s.hdm dec none }
  else if s.hdmOk base.toNat size.toNat then .next { s with hdm := Cells.set none s.hdm dec (some (base.toNat, size.toNat)) }
  else .next s
/-- A host access lies in a decoder's range. -/
def State.decoded (s : State) (pa n : Nat) : Bool := s.hdm.any fun c => match c.2 with | some (b, z) => decide (b ≤ pa ∧ pa + n ≤ b + z) | none => false
/-- The first sector of an inbound access that its port may not reach. -/
def State.refused (s : State) (d port pa n : Nat) : Option Nat := (sectorsOf pa n).find? fun k => !s.reaches d port (32 * k)
/-- An inbound write at its home: untagged, it clears the poison of the sectors it covers; a partial write of a poisoned one has no effect (R254, R419). -/
def State.inboundWrite (s : State) (pa : Nat) (data : List Byte) : State :=
  let secs := sectorsOf pa data.length
  let full := secs.filter fun k => decide (pa ≤ 32 * k ∧ 32 * k + 32 ≤ pa + data.length)
  if secs.any fun k => s.poison.contains k && !full.contains k then s
  else { s.backInvalidate pa data.length with mem := writeBytes s.mem pa data, poison := s.poison.filter fun k => !full.contains k }
/-- The gallery byte that an inbound address names: 2^56 + g is gallery offset g, which lies in no memory space (R249; DESIGN CHOICE, log 101). -/
def galIn (pa n : Nat) : Option Nat := if 2 ^ 56 ≤ pa ∧ pa + n ≤ 2 ^ 56 + 2 ^ 31 then some (pa - 2 ^ 56) else none
/-- An inbound write to the gallery: accepted while OPEN reads 1 on the die of every byte, else aborted without effect (R249). -/
def State.galInbound (s : State) (g : Nat) (data : List Byte) : State :=
  if (s.die (bits g 30 29)).galOpen && (s.die (bits (g + data.length - 1) 30 29)).galOpen then { s with gallery := writeBytes s.gallery g data } else s
/-! Beside device memory, an inbound access names the BAR from 2^57 and configuration space from 2^58 (DESIGN CHOICE, log 101). -/

/-- What configuration space reports of the port (R409). -/
inductive CxlFeature
  | lanes | rate | flitBytes | deviceType | logicalDevices | dynamicCapacity | fabricMemory | portRouting | configSpace | barBytes | msixVectors
  | hdmDecoders | backInvalidation | interleave | cacheRead | cacheOwn | cacheWrite | hostLinesKept | ide | tsp
  deriving DecidableEq, Repr
/-- The features in the order of their words; a word past them reports another feature as absent. -/
def cxlFeatures : List CxlFeature :=
  [.lanes, .rate, .flitBytes, .deviceType, .logicalDevices, .dynamicCapacity, .fabricMemory, .portRouting, .configSpace, .barBytes, .msixVectors,
   .hdmDecoders, .backInvalidation, .interleave, .cacheRead, .cacheOwn, .cacheWrite, .hostLinesKept, .ide, .tsp]
/-- A feature's number, 0 for an absent one (R409). -/
def CxlFeature.report : CxlFeature → Nat
  | .lanes => 16 | .rate => 64 | .flitBytes => 256 | .deviceType => 2 | .logicalDevices => 1 | .configSpace => 1 | .barBytes => 262144 | .msixVectors => 68
  | .hdmDecoders => 2 | .backInvalidation => 1 | .cacheRead => 1 | .cacheOwn => 1 | .cacheWrite => 1
  | .dynamicCapacity | .fabricMemory | .portRouting | .interleave | .hostLinesKept | .ide | .tsp => 0
/-- A byte of what a host's read through CXL.io returns: of configuration space, which responds before READY too, or of the BAR (R409, R445). -/
def State.ioByte (s : State) (pa : Nat) : Byte :=
  let o := pa % 2 ^ 57
  let w := if 2 ^ 58 ≤ pa then ((cxlFeatures[o / 8]?).map CxlFeature.report).getD 0 else s.ioRead (o / 8 * 8)
  BitVec.ofNat 8 (w / 2 ^ (8 * (o % 8)))
/-- An inbound access of CXL.io. -/
def ioIn (pa n : Nat) : Bool := decide ((2 ^ 57 ≤ pa ∧ pa + n ≤ 2 ^ 57 + 2 ^ 18) ∨ (2 ^ 58 ≤ pa ∧ pa + n ≤ 2 ^ 58 + 4096))
/-- CXL_MEM_WRITE (R410, R117, R249): a write to a chunk that changes its mapping waits for it (R240). -/
def execCxlMemWrite (pa : Nat) (data : List Byte) (s : State) : Out :=
  match galIn pa data.length with
  | some g => .next (s.galInbound g data)
  | none =>
  if !s.decoded pa data.length then .next s
  else
    let s := s.settleChunk pa
    if s.chunkBusy pa then .next s
    else match s.refused 0 18 pa data.length with
    | some k => .next (s.xbarv 0 18 (32 * k))
    | none => .next (s.inboundWrite pa data)
/-- CXL_MEM_READ (R409, R410, R445): of the BAR and configuration space the words that they hold; of device memory its value, and the host holds the lines it has read. A poisoned sector's value is not returned. -/
def execCxlMemRead (pa len : Nat) (s : State) : Out :=
  if ioIn pa len then .next { s with hostReads := s.hostReads ++ [(pa, (List.range len).map fun i => s.ioByte (pa + i))] }
  else if !s.decoded pa len then .next s
  else
    let s := s.settleChunk pa
    if s.chunkBusy pa then .next s
    else match s.refused 0 18 pa len with
    | some k => .next (s.xbarv 0 18 (32 * k))
    | none =>
      if (sectorsOf pa len).any s.poison.contains then .next s
      else
        let ls := (List.range ((pa % 64 + len + 63) / 64)).map (pa / 64 + ·)
        .next { s with hostReads := s.hostReads ++ [(pa, readBytes s.mem pa len)], hostLines := s.hostLines ++ ls.filter fun l => !s.hostLines.contains l }
/-- HOST_SNOOP (R411): of an owned line it waits until the write-back. -/
def execHostSnoop (line : Nat) (s : State) : Out :=
  if s.lineOwned line ∧ ¬s.snoops.contains line then .next { s with snoops := s.snoops ++ [line] } else .next s
/-- CXL_COMPLETION (R411): a thread's request is answered, an RMW's keeping its line until the write-back; a copy chunk's last one lets it go on. -/
def execCxlCompletion (id : Nat) (s : State) : Out :=
  match s.cxl.find? fun c => c.id == id && !c.answered with
  | none => .next s
  | some c =>
    match c.pend.ask with
    | none => .next ((s.cxlLeave fun x => x.id == id).sentDone c)
    | some (t, owner) =>
      let s := if owner then { s with cxl := s.cxl.map fun x => if x.id = id then { x with answered := true } else x } else s.cxlLeave fun x => x.id == id
      .next (s.answer c.pend.team c.pend.warp t)
/-- CXL_LINK_ERROR (R411, R415): requests without a completion end; a copy chunk's stop their copy, a unit's are its XBAR (R360). -/
def execCxlLinkError (ids : List Nat) (s : State) : Out :=
  let gone := s.cxl.filter fun c => ids.contains c.id && !c.answered
  match gone with
  | [] => .next s
  | c :: _ =>
    let s := (s.cxlLeave fun c => ids.contains c.id && !c.answered).linkEvent 0 0x63 (min gone.length 255 + 256 * c.pend.pa)
    let s := (gone.filter fun c => c.copy.isSome).foldl State.sentAbort s
    .next (s.abortAsks ((gone.filter fun c => c.copy.isNone).map CxlReq.pend))

/-! Rhawin ports (R412 to R414). -/

/-- A unit's request to a peer goes through a port. -/
def State.viaPort (s : State) (port : Nat) (p : Pend) : Bool :=
  p.ask.isSome && paSpace p.pa == .peer && (Cells.get 0xF (s.die (coreDie p.core)).rhwrt (bits p.pa 53 44)).toNat == port
/-- RHAWIN_RETRAIN (R412, R414): the port resumes at 32 or at 16 lanes, or goes down; the units whose requests it has not answered then trap XBAR, and their replay carries the same numbers. -/
def execRhawinRetrain (port : Nat) (good : BitVec 2) (s : State) : Out :=
  let l := 8 + port
  let e := s.link l
  let d := port / 2
  if 8 ≤ port ∨ !e.up ∨ e.retries < 8 then .next s
  else
    let s := s.modLink l fun e => { e with good := good.setWidth 4, state := if good = 0 then 3 else if good = 3 then 0 else 1, retries := 0, wire := [], heldSince := s.ns.toNat }
    if good = 3 then .next (s.modLink l LinkEnd.resend)
    else if good ≠ 0 then .next ((s.modLink l LinkEnd.resend).linkEvent d 0x60 (2 + port % 2 + 16 * good.toNat))
    else
      let waiting := s.pend.filter (s.viaPort port)
      let s := (s.modLink l fun e => { e with buffer := [], waiting := [] }).linkEvent d 0x62 (port + 2 ^ 8 * min waiting.length 255)
      .next (s.abortAsks waiting)

/-- A peer's request, told by the upper half of its number word: 0 a write, 1 a read, 2 + 2 op + signed an ATOM, 0x40 an ACAS with the expected value before the new one (R413; DESIGN CHOICE, log 121). -/
inductive PeerReq
  | write
  | read
  | atom (op : AtomOp) (signed : Bool)
  | acas
  deriving DecidableEq, Repr
/-- The request of a code. -/
def PeerReq.ofCode (c : Nat) : Option PeerReq :=
  if c = 0 then some .write else if c = 1 then some .read else if c = 0x40 then some .acas
  else ([AtomOp.add, .min, .max, .and, .or, .xor, .exch, .incw, .decw][c / 2 - 1]?).map fun op => .atom op (c % 2 == 1)
/-- Bytes that a request accesses. -/
def PeerReq.size (r : PeerReq) (data : List Byte) : Nat := match r with | .acas => data.length / 2 | _ => data.length
/-- An RMW is of 4 or 8 aligned bytes (R322). -/
def PeerReq.ok (r : PeerReq) (pa : Nat) (data : List Byte) : Bool :=
  match r with
  | .atom _ _ | .acas => (r.size data == 4 || r.size data == 8) && pa % r.size data == 0 && data.length % r.size data == 0
  | _ => data.length != 0
/-- What a request leaves in the bytes that it accesses, if it writes (R323, R324). -/
def PeerReq.result (r : PeerReq) (old data : List Byte) : Option (List Byte) :=
  match r with
  | .write => some data
  | .read => none
  | .atom op sg => some (leBytes old.length (atomOp op sg (8 * old.length) (leNat old) (leNat data)))
  | .acas => if data.take old.length = old then some (data.drop old.length) else none
/-- A request performed at its home, with its response; poison stops a read, and a write that does not cover it (R254). -/
def State.peerPerform (s : State) (pa : Nat) (r : PeerReq) (data : List Byte) : State × List Byte :=
  let old := readBytes s.mem pa (r.size data)
  match r with
  | .write => (s.inboundWrite pa data, [])
  | _ => if (sectorsOf pa old.length).any s.poison.contains then (s, []) else (match r.result old data with | some bs => s.inboundWrite pa bs | none => s, old)
/-- A response goes back to the peer of a pair. -/
def State.respond (s : State) (k : Nat) (n : W32) (resp : List Byte) : State := { s with answers := s.answers ++ [(k, n, resp)] }
/-- RHAWIN_INBOUND (R413, R406, R249): a peer's request, checked at port 19 of the port's die. What writes is numbered: performed once, and answered by its kept response when it comes again. -/
def execRhawinInbound (port peer num pa : Nat) (data : List Byte) (s : State) : Out :=
  let d := port / 2
  let k := 1024 + 8 * peer
  let n : W32 := BitVec.ofNat 32 num
  match PeerReq.ofCode (num / 2 ^ 32) with
  | none => .next s
  | some r =>
    let z := r.size data
    if 8 ≤ port ∨ 1024 ≤ peer ∨ !(s.link (8 + port)).up ∨ !r.ok pa data then .next s
    else if r != .read && (Cells.get {} s.reqs k).covers n then
      .next (s.respond k n (((Cells.get {} s.reqs k).kept.find? fun x => x.1 == n).map Prod.snd |>.getD []))
    else
      let put (x : State × List Byte) : Out :=
        .next ((if r == .read then x.1 else { x.1 with reqs := Cells.modify {} x.1.reqs k fun p => p.perform n x.2 }).respond k n x.2)
      match galIn pa z with
      | some g => if r == .write then put (s.galInbound g data, []) else .next s
      | none =>
        if paSpace pa ≠ PaSpace.hbm ∨ s.inCistern pa ∨ s.inCistern (pa + z - 1) ∨ paSpace (pa + z - 1) ≠ PaSpace.hbm then .next s
        else
          let s := s.settleChunk pa
          if s.chunkBusy pa then .next s
          else match s.refused d 19 pa z with
          | some x => .next (s.xbarv d 19 (32 * x))
          | none => put (s.peerPerform pa r data)

end Sys2Proof.Machine
end

