-- ==== Sys2Proof/Machine/Translate.lean ====
section
/-! DEFINITION. Translation, home-slice mapping, the Cistern and the galleries (spec/10 R234 to R250), and the rings of the Cistern (spec/20 R393; spec/22 R422, R424). -/

namespace Sys2Proof.Machine

open Sys2Proof

/-- A register that only host-mode firmware writes: in guest mode the write is ignored and CSRVIOL posted (R114); a die that is held in reset writes nothing (R444). -/
def State.hostOnly (s : State) (d off : Nat) (k : State → State) : State :=
  if (s.die d).inReset then s
  else match (s.die d).cur.guest with
  | some v => s.csrViol d v off true
  | none => k s

/-! Walks and invalidation (R237, R242; log 86). -/

/-- TINVC of a die reads GO. -/
def Die.tinvGo (x : Die) : Bool := x.tinvc.getLsbD 0
/-- A write of TINVC: KIND 3 is ignored, and so is any write while GO reads 1. -/
def State.tinvcWrite (s : State) (d : Nat) (val : W64) : State :=
  if (s.die d).tinvGo ∨ bits val.toNat 2 1 = 3 then s else s.modDie d fun x => { x with tinvc := val &&& 0xF7 }
/-- TINVC_GO (R242). -/
def execTinvcGo (die : Nat) (val : W64) (s : State) : Out := .next (s.hostOnly die 0x2088 fun s => s.tinvcWrite die val)
/-- An invalidation matches a translation of a VA of virtual device v by a page of some size: KIND 0 its page, 1 its region, 2 its device's every one (R242). -/
def Die.tinvHits (x : Die) (v va span : Nat) : Bool :=
  let a := x.tinva.toNat * 65536
  v == bits x.tinvc.toNat 7 4 && (match bits x.tinvc.toNat 2 1 with | 0 => va / span == a / span | 1 => va / 2 ^ 64 == a / 2 ^ 64 | _ => true)
/-- TINVC_DONE (R242): matching translations leave the caches, and GO reads 0, once every issued access that used one is performed. -/
def execTinvcDone (die : Nat) (s : State) : Out :=
  let x := s.die die
  if !x.tinvGo then .next s
  else
    let used (p : Pend) : Bool := x.tinvHits p.vdev p.va p.span
    let s := s.drain used
    if s.drained used then .next ({ s with tlb := s.tlb.filter fun y => !x.tinvHits y.vdev y.va (pageSpan y.e) }.modDie die fun x => { x with tinvc := x.tinvc &&& 0xFE })
    else .next s
/-- A translation that the caches take in, in place of one of the same page. -/
def State.installXlat (s : State) (x : Xlat) : State :=
  { s with tlb := s.tlb.filter (fun y => !(y.vdev == x.vdev && y.va / pageSpan y.e == x.va / pageSpan y.e)) ++ [x] }
/-- PAGE_WALK (R237): a walk that ends in a leaf sets A, and D for a write, and installs the translation it read. -/
def execPageWalk (vdev : Nat) (region : BitVec 16) (off : W64) (write : Bool) (s : State) : Out :=
  let va := region.toNat * 2 ^ 64 + off.toNat
  match ({ s with tlb := [] } : State).translate vdev va write false with
  | .ok (_, e) => let s := s.markPte e write; .next (s.installXlat { vdev := vdev, va := va, e := s.pte e })
  | .error _ => .next s

/-! Home slices (R239, R240). -/

/-- A legal byte of HSMAP (R243): {FIRST, LWAYS}. -/
def hsmapByte (b : Nat) : Option (Nat × Nat) :=
  let f := bits b 7 4
  let l := bits b 2 0
  if l ≤ 4 ∧ f % 2 ^ l = 0 then some (f, l) else none
/-- A write of HSMAP.reg: each legal byte waits to take effect. -/
def State.hsmapWrite (s : State) (d reg : Nat) (val : W64) : State :=
  if 20 ≤ reg then s
  else s.modDie d fun x => { x with
    hsmapPend := (List.range 8).foldl (fun m j => match hsmapByte (bits val.toNat (8 * j + 7) (8 * j)) with | some p => Cells.set (16, 16) m (8 * reg + j) p | none => m) x.hsmapPend }
/-- HSMAP_WRITE (R240). -/
def execHsmapWrite (die reg : Nat) (val : W64) (s : State) : Out := .next (s.hostOnly die (0x2100 + 8 * reg) fun s => s.hsmapWrite die reg val)
/-- HSMAP_APPLY (R240). -/
def execHsmapApply (die chunk : Nat) (s : State) : Out := .next (s.applyMap die chunk)

/-! The Cistern and its rings (R241, R243, R393, R422, R424). -/

/-- A write of CISTERN. -/
def State.cisternWrite (s : State) (val : W64) : State :=
  if s.clock ∨ 10 < val.toNat % 16 then s else { s with csize := val.truncate 4, clock := val.getLsbD 4 }
/-- CISTERN_WRITE (R243): the register is on DIE.0. -/
def execCisternWrite (die : Nat) (val : W64) (s : State) : Out := .next (s.hostOnly die 0x2400 fun s => s.cisternWrite val)
/-- A ring {OFF, SIZE} in MiB lies in a stack's share, clear of MiB 0 and of the other ring. -/
def State.ringOk (s : State) (off size off' size' : Nat) : Bool :=
  decide (off + size ≤ s.csize.toNat * 1024) && (size == 0 || (decide (1 ≤ off) && (size' == 0 || decide (off + size ≤ off' ∨ off' + size' ≤ off))))
/-- A write of ULCFG.i (R393): ignored while an update runs on the stack. -/
def State.ulWrite (s : State) (i : Nat) (val : W64) : State :=
  let k := s.stk i
  let run := (List.range 16).any fun c => (s.cons (16 * i + c)).task.isSome
  if run ∨ !s.ringOk (bits val.toNat 15 0) (bits val.toNat 31 16) k.jrnOff.toNat k.jrnSize.toNat then s
  else s.modStk i fun k => { k with ulOff := val.truncate 16, ulSize := BitVec.ofNat 16 (bits val.toNat 31 16) }
/-- A write of JRNCFG.i (R424): ignored while a point of any virtual device is OPEN or PENDING. -/
def State.jrnWrite (s : State) (i : Nat) (val : W64) : State :=
  let k := s.stk i
  if (List.range 16).any (fun v => (s.rp v).isOpen || (s.rp v).sealing) ∨ !s.ringOk (bits val.toNat 15 0) (bits val.toNat 31 16) k.ulOff.toNat k.ulSize.toNat then s
  else s.modStk i fun k => { k with jrnOff := val.truncate 16, jrnSize := BitVec.ofNat 16 (bits val.toNat 31 16) }

/-! Galleries (R249, R250). -/

/-- A write of GALCTL. -/
def State.galctlWrite (s : State) (d : Nat) (val : W64) : State := s.modDie d fun x => { x with galWopen := val.getLsbD 0 }
/-- GALCTL_WOPEN_WRITE (R249). -/
def execGalctlWopenWrite (die : Nat) (val : W64) (s : State) : Out := .next (s.hostOnly die 0x2200 fun s => s.galctlWrite die val)
/-- A die's gallery may open: WOPEN is set and no team is resident on the die. -/
def State.galOpens (s : State) (d : Nat) : Bool := (s.die d).galWopen && !(s.die d).galOpen && !s.teamKeys.any fun k => (s.team k).placed && coreDie (s.team k).core == d
/-- GALLERY_OPEN (R249). -/
def execGalleryOpen (die : Nat) (s : State) : Out := .next (if s.galOpens die then s.modDie die fun x => { x with galOpen := true } else s)
/-- GALLERY_CLOSE (R249): a gallery write is performed as it is accepted. -/
def execGalleryClose (die : Nat) (s : State) : Out := .next (if (s.die die).galWopen then s else s.modDie die fun x => { x with galOpen := false })
/-- GALLERY_REFRESH (R250): the calendar follows device time, and the reads that meet a window wait by it (State.homesWait), so the window itself changes no state. -/
def execGalleryRefresh (_die _group : Nat) (s : State) : Out := .next s

end Sys2Proof.Machine
end

