-- ==== Sys2Proof/Machine/Power.lean ====
section
/-! DEFINITION. Package power: bring-up (spec/24 R443 to R449), the power governor (R450, R451) and power loss (spec/01 R20; spec/22 R435). -/

namespace Sys2Proof.Machine

open Sys2Proof

/-- What lies outside the package's power: the boot flash with what the board writes there, and what the model itself counts. -/
def State.unpowered (s : State) : State := { State.reset with flash := s.flash, reflash := s.reflash, agenda := s.agenda, tick := s.tick, free := s.free }
/-- Steps 4 and 5 of R445, by DIE.0's firmware (log 8): the Cistern, its lock, its rings, the identity block. -/
def State.bringUp (s : State) : State :=
  let s := s.cisternWrite (BitVec.ofNat 64 (16 + Config.bringupCsize.toNat % 11))
  let s := (List.range 8).foldl (fun (s : State) i => let r := Config.bringupJrn i; s.jrnWrite i (BitVec.ofNat 64 (r.1.toNat + 65536 * r.2.toNat))) s
  let s := (List.range 8).foldl (fun (s : State) i => let r := Config.bringupUl i; s.ulWrite i (BitVec.ofNat 64 (r.1.toNat + 65536 * r.2.toNat))) s
  { s with identity := idBlock (s.die 0).fwsvn (s.die 0).fwdig, power := { s.power with plimNext := 2400, freqNext := 1800 } }
/-- POWER_ON (R445, R448): READY once every die has passed. -/
def execPowerOn (s : State) : Out :=
  if s.bootstat ≠ 0 ∧ ¬s.powerLost then .next s
  else
    let s := (List.range 4).foldl State.bootDie s.unpowered
    if (s.die 0).inReset then .next s
    else .next s.bringUp.bootReady
/-- The clock after an interval, in MHz (R451). -/
def nextF (p t plim freq f : Nat) : Nat :=
  if plim < p ∨ 105 ≤ t then max (f - 100) 600
  else if f < freq ∧ p * (f + 100) ≤ plim * f then f + 100
  else if freq < f then freq else f
/-- POWER_EVAL (R450, R451), every 10 µs of device time: power in W over the interval, temperature in °C. -/
def execPowerEval (power temp : Nat) (s : State) : Out :=
  if s.ns.toNat < s.nextEval then .next s
  else
  let s := { s with nextEval := s.nextEval + 10000 }
  let w := s.power
  let w := { w with plim := w.plimNext, freq := w.freqNext, pw := power % 65536, temp := temp % 256, energy := w.energy + BitVec.ofNat 64 (10 * power) }
  if 115 ≤ temp then .next { s with power := { w with trip := true } }
  else
    let f := nextF power temp w.plim w.freq w.f
    let hot := decide (w.plim < power ∨ 105 ≤ temp)
    .next { s with power := { w with
      f := f, cause := BitVec.ofNat 3 (b2n (decide (w.plim < power)) + 2 * b2n (decide (105 ≤ temp)) + 4 * b2n (hot && f == 600)), thrc := if f < w.freq then w.thrc + 1 else w.thrc } }
/-- A write of PWRCTL, in effect at the next evaluation. -/
def State.pwrWrite (s : State) (val : W64) : State :=
  let p := bits val.toNat 47 32
  let q := bits val.toNat 31 16
  let w := s.power
  let w := if p < 600 then w else { w with plimNext := min p 2400 }
  { s with power := if q % 100 = 0 ∧ 600 ≤ q ∧ q ≤ 1800 then { w with freqNext := q } else w }
/-- PACKAGE_POWER_LOSS (R20, R435): nothing in the package survives. -/
def execPackagePowerLoss (s : State) : Out := .next { s.unpowered with powerLost := true }

end Sys2Proof.Machine
end

