-- ==== Sys2Proof/Machine/Csr.lean ====
section
/-! DEFINITION. Control space: the registers' offsets and access rules (spec/00 R6, R7; spec/05 R94, R105, R114 to R116; spec/10 R243; spec/18 R349, R355, R375; spec/20 R393; spec/21 R408, R413; spec/22 R424, R425, R436; spec/24 R450), CSRR, CSRW and CSR_WRITE. -/

namespace Sys2Proof.Machine

open Sys2Proof

/-- The state after a step that answers next. -/
def outState (o : Out) (s : State) : State := match o with | .next t => t | _ => s
/-- A step applied as part of another. -/
def State.then_ (s : State) (f : State → Out) : State := outState (f s) s
/-- Register k of a bank of n registers of a stride at a base, and the offset within it. -/
def bank (off base stride n : Nat) : Option (Nat × Nat) :=
  if base ≤ off ∧ off < base + stride * n then some ((off - base) / stride, (off - base) % stride) else none

/-! Writes by host-mode firmware. -/

/-- A queue's ring lies within one stack's HBM, outside the Cistern (R105). -/
def State.eqRingOk (s : State) (base sz : Nat) : Bool := paSpace base == .hbm && decide (base % 2 ^ 37 + 32 * 2 ^ sz ≤ (80 - s.csize.toNat) * 2 ^ 30)
/-- A write of one of a queue's registers (R105). -/
def State.eqPut (s : State) (d q o : Nat) (val : W64) : State :=
  let e := Cells.get {} (s.die d).queues q
  let put (f : EvQueue → EvQueue) : State := s.modDie d fun x => { x with queues := Cells.modify {} x.queues q f }
  match o with
  | 0x00 => if e.en then s else put fun e => { e with base := val &&& 0x00FFFFFFFFFFFFC0 }
  | 0x08 =>
    let z := bits val.toNat 20 16
    let n := if e.en then e.sz else z
    if z < 8 ∨ 16 < z then s
    else if val.getLsbD 0 && !s.eqRingOk e.base.toNat n then s
    else put fun e => { e with sz := n, en := val.getLsbD 0 }
  | 0x10 => put fun e => { e with head := val.truncate 32 }
  | _ => s
/-- A write of a list's registers (R94): an LSZ outside 4 to 16 leaves LSZ as it is. -/
def State.listPut (s : State) (v l o : Nat) (val : W64) : State :=
  match o with
  | 0 => s.modList v l fun x => if x.en then x else { x with lbase := val &&& 0xFFFFFFFFFFFFFFC0 }
  | 8 =>
    let z := bits val.toNat 20 16
    s.modList v l fun x => { x with
      lsz := if x.en ∨ z < 4 ∨ 16 < z then x.lsz else z, hdie := if x.en then x.hdie else bits val.toNat 13 12,
      prio := if l = 15 then x.prio else bits val.toNat 11 8, en := val.getLsbD 0 }
  | _ => s
/-- A write of RPCMD (R425). -/
def State.rpCmd (s : State) (v : Nat) (val : W64) : State :=
  let c := val.toNat % 4
  if (s.rp v).busy ∨ c = 0 ∨ c = 3 then s else s.modRp v fun r => { r with busy := true, cmd := c }
/-- A write of QCTL (R436): ignored while a command runs. -/
def State.qPut (s : State) (val : W64) : State :=
  if s.qctl.getLsbD 7 then s
  else
    let c := bits val.toNat 5 4
    { s with qctl := BitVec.ofNat 64 (bits s.qctl.toNat 15 8 * 256 + b2n (c != 0) * 128 + c * 16 + val.toNat % 16) }
/-- A write of STEPABT (R398): ignored while GO reads 1. -/
def State.stepPut (s : State) (val : W64) : State := if s.stepAbt.getLsbD 32 then s else { s with stepAbt := val &&& 0x1FFFFFFFF }
/-- A write of FRESUME (R253): ACT 3 is ignored. -/
def State.fresume (s : State) (d : Nat) (val : W64) : State :=
  let slot := val.toNat % 1024
  match bits val.toNat 17 16 with
  | 0 => s.then_ (execFresumeReplay d slot)
  | 1 => s.then_ (execFresumeTrap d slot)
  | 2 => s.then_ (execFresumeRollback d slot)
  | _ => s
/-- A write of RHWRT.k (R413): a reserved port is written as 0xF. -/
def State.rhwPut (s : State) (d k : Nat) (val : W64) : State :=
  s.modDie d fun x => { x with rhwrt := (List.range 16).foldl (fun m i =>
    let p := bits val.toNat (4 * i + 3) (4 * i)
    Cells.set 0xF m (16 * k + i) (if p < 8 then BitVec.ofNat 4 p else 0xF)) x.rhwrt }
/-- A write of SWTICK (R115). -/
def State.swtickPut (s : State) (val : W64) : State := let x := bits val.toNat 16 0; if 100 ≤ x ∧ x ≤ 100000 then { s with swtick := x } else s
/-- A write of a package register, on DIE.0 (R94, R113, R243, R375, R393, R413, R424, R425, R436, R450). -/
def State.csrPut0 (s : State) (off : Nat) (val : W64) : State :=
  match off with
  | 0x0020 => s.swtickPut val
  | 0x2400 => s.cisternWrite val
  | 0x2680 => s.then_ (execPreqWrite 0 val)
  | 0x2880 => s.stepPut val
  | 0x2940 => { s with rhwnode := val.truncate 10 }
  | 0x2E80 => s.qPut val
  | 0x2E88 => { s with qaddr := val }
  | 0x2E90 => { s with qsize := val }
  | 0x3200 => s.pwrWrite val
  | _ =>
    match bank off 0x800 8 16, bank off 0x1000 16 256, bank off 0x2000 8 16, bank off 0x2280 8 16, bank off 0x2500 8 16 with
    | some (v, 0), _, _, _, _ => s.then_ (execVdcfgWrite 0 v val)
    | _, some (k, o), _, _, _ => s.listPut (k / 16) (k % 16) o val
    | _, _, some (v, 0), _, _ => s.modVdev v fun x => { x with ptroot := val &&& 0x00FFFFFFFFFF8001 }
    | _, _, _, some (v, 0), _ => s.modVdev v fun x => { x with galvd := val.truncate 32 }
    | _, _, _, _, some (v, 0) => s.modVdev v fun x => { x with hvec := val }
    | _, _, _, _, _ =>
      match bank off 0x2580 16 16, bank off 0x26A0 16 16, bank off 0x2800 8 8, bank off 0x2A00 64 16, bank off 0x2E00 8 8 with
      | some (v, 0), _, _, _, _ => s.modVdev v fun x => { x with saveBase := val }
      | some (v, 8), _, _, _, _ => s.modVdev v fun x => { x with saveSize := val }
      | _, some (v, 0), _, _, _ => s.modVdev v fun x => { x with snapBase := val }
      | _, some (v, 8), _, _, _ => s.modVdev v fun x => { x with snapSize := val }
      | _, _, some (i, 0), _, _ => s.ulWrite i val
      | _, _, _, some (v, 0x28), _ => s.rpCmd v val
      | _, _, _, _, some (i, 0) => s.jrnWrite i val
      | _, _, _, _, _ => s
/-- A write of a register of die t, whose curator is not in guest mode (R114, R116, R117, R375). -/
def State.csrPut (s : State) (t off : Nat) (val : W64) : State :=
  match off with
  | 0x0030 => s.modDie t fun x => { x with cur := { x.cur with gpc := val } }
  | 0x0040 => s.modDie t fun x => { x with cur := { x.cur with hpc := val } }
  | 0x0120 => s.then_ (execTgdecWrite t val)
  | 0x0128 => s.then_ (execDispatchWrite t val)
  | 0x0500 => s.modDie t fun x => { x with clpart := val &&& 0x003FFFFFFFFFFFFF }
  | 0x2080 => s.modDie t fun x => { x with tinva := val }
  | 0x2088 => s.tinvcWrite t val
  | 0x2200 => s.galctlWrite t val
  | 0x2300 => s.fresume t val
  | 0x2690 => s.modDie t fun x => { x with flesc := val &&& 0xFFFF }
  | 0x27A0 => s.modDie t fun x => { x with tevlnch := val }
  | 0x27A8 => s.then_ (execTevpostWrite t val)
  | _ =>
    match bank off 0x400 8 20, bank off 0x900 64 17, bank off 0x2100 8 20, bank off 0x3000 8 64 with
    | some (p, 0), _, _, _ => s.modDie t fun x => { x with xbar := Cells.set 0xFFFFFFFFFFFFFFFF x.xbar p val }
    | _, some (q, o), _, _ => s.eqPut t q o val
    | _, _, some (k, 0), _ => s.hsmapWrite t k val
    | _, _, _, some (k, 0) => s.rhwPut t k val
    | _, _, _, _ => if t = 0 then s.csrPut0 off val else s
/-- A write by host-mode firmware to the control space of die t. -/
def State.csrHost (s : State) (t off : Nat) (val : W64) : State :=
  if off = 0x38 then s.gstart t val
  else
    let g := (s.die t).cur.guest
    let s := (s.modDie t fun x => { x with cur := { x.cur with guest := none } }).csrPut t off val
    s.modDie t fun x => { x with cur := { x.cur with guest := g } }

/-! Guest reach (R114). -/

/-- A write by guest firmware of v on die d: outside its reach it is ignored, and CSRVIOL posted. -/
def State.csrGuest (s : State) (d v t off : Nat) (val : W64) : State :=
  let own := decide (t = d)
  if off = 0x48 && own then s.then_ (execGexitWrite d val)
  else if off = 0x120 && own then s.then_ (execTgdecWrite d val)
  else if off = 0x128 && own then s.then_ (execDispatchWrite d val)
  else if off = 0x27A0 && own then s.guestTask d off val (fun _ => s.modDie d fun x => { x with tevlnch := val }) (s.modDie d fun x => { x with tevlnch := val })
  else if off = 0x27A8 && own then s.then_ (execTevpostWrite d val)
  else if off = 0x900 + 64 * v + 0x10 && own then s.eqPut d v 0x10 val
  else if off = 0x2680 && t == 0 then s.then_ (execPreqWrite d val)
  else if off = 0x2500 + 8 * v && t == 0 then s.modVdev v fun x => { x with hvec := val }
  else s.csrViol d v off true
/-- Registers guest firmware of v on die d may read. -/
def guestReads (d v t off : Nat) : Bool :=
  (t == d && (off == 0x10 || off == 0x18 || off == 0x28 || off == 0x27A0 || off == 0x900 + 64 * v + 0x10 || off == 0x900 + 64 * v + 0x18 || off == 0x900 + 64 * v + 0x20))
  || (t == 0 && (off == 0x20 || off == 0x2680 || off == 0x2500 + 8 * v || (bank off (0x2A00 + 64 * v) 64 1).isSome))
/-- A write to control space by the curator of die d; there are four dies' (R114). -/
def State.csrWriteBy (s : State) (d t off : Nat) (val : W64) : State :=
  if (s.die d).inReset then s
  else match (s.die d).cur.guest with
  | some v => s.csrGuest d v t off val
  | none => if t < 4 then s.csrHost t off val else s
/-- CSR_WRITE (R6, R114): a write to die tdie's control space by the curator of die. -/
def execCsrWrite (die tdie : Nat) (off val : W64) (s : State) : Out := .next (s.csrWriteBy die tdie off.toNat val)

/-! Reads. A field marked RC is cleared by its read (R6). -/

/-- UNITCFG (R28). -/
def unitcfg (d : Nat) : Nat := (clen d).toNat * 2 ^ 32 + Config.stepL.toNat * 2 ^ 28 + Config.stepN.toNat % 10 * 2 ^ 24 + d * 2 ^ 22 + numClus d * 2 ^ 8 + 16
/-- DMLSTAT or RHWSTAT of an end, with the values of its GOOD field (R408, R414): the read clears CRCE and REPL. -/
def State.linkRead (s : State) (l : Nat) (good : Nat) : Nat × State :=
  let e := s.link l
  (e.crce.toNat * 2 ^ 24 + e.repl.toNat * 2 ^ 8 + e.good.toNat % good * 2 ^ 4 + e.state, s.modLink l fun e => { e with crce := 0, repl := 0 })
/-- A queue's registers. -/
def State.eqGet (s : State) (d q o : Nat) : Nat × State :=
  let e := Cells.get {} (s.die d).queues q
  match o with
  | 0x00 => (e.base.toNat, s)
  | 0x08 => (e.sz * 2 ^ 16 + b2n e.en, s)
  | 0x10 => (e.head.toNat, s)
  | 0x18 => (e.tail.toNat, s)
  | 0x20 => (e.stall.toNat, s.modDie d fun x => { x with queues := Cells.modify {} x.queues q fun e => { e with stall := 0 } })
  | _ => (0, s)
/-- A device's recovery-point registers (R425). -/
def RPoint.get (r : RPoint) (o : Nat) : Nat :=
  match o with
  | 0x00 => r.cur.toNat | 0x08 => r.sealedN.toNat | 0x10 => r.dig.toNat | 0x18 => r.base.toNat | 0x20 => r.task.toNat
  | 0x28 => r.status * 16 + b2n r.busy * 4
  | _ => 0
/-- A stack's two status registers (R393, R424): JRNSTAT and ULSTAT. -/
def State.jrnGet (s : State) (i : Nat) : Nat × State :=
  ((s.stk i).jrnWait.toNat * 2 ^ 32 + (s.stk i).lines.length % 2 ^ 32, s.modStk i fun k => { k with jrnWait := 0 })
/-- ULSTAT.i. -/
def State.ulGet (s : State) (i : Nat) : Nat × State :=
  ((s.stk i).ulWait.toNat * 2 ^ 32 + (s.stk i).undo.length % 2 ^ 32, s.modStk i fun k => { k with ulWait := 0 })
/-- A read of a package register, on DIE.0. -/
def State.csrGet0 (s : State) (off : Nat) : Nat × State :=
  match off with
  | 0x0020 => (s.swtick, s)
  | 0x2400 => (b2n s.clock * 16 + s.csize.toNat, s)
  | 0x2680 => (s.preq.toNat, s)
  | 0x2880 => (s.stepAbt.toNat, s)
  | 0x2940 => (s.rhwnode.toNat, s)
  | 0x2E80 => (s.qctl.toNat - bits s.qctl.toNat 5 4 * 16, s)
  | 0x2E88 => (s.qaddr.toNat, s)
  | 0x2E90 => (s.qsize.toNat, s)
  | 0x3200 => (s.power.plimNext * 2 ^ 32 + s.power.freqNext * 2 ^ 16, s)
  | 0x3208 => (s.power.pw * 2 ^ 32 + s.power.temp * 2 ^ 24 + s.power.cause.toNat * 2 ^ 16 + s.power.f, s)
  | 0x3210 => (s.power.energy.toNat, s)
  | 0x3218 => (s.power.thrc.toNat, { s with power := { s.power with thrc := 0 } })
  | _ =>
    match bank off 0x800 8 16, bank off 0x1000 16 256, bank off 0x2000 8 16, bank off 0x2280 8 16, bank off 0x2500 8 16 with
    | some (v, 0), _, _, _, _ => ((s.vdev v).cfgW.toNat, s)
    | _, some (k, 0), _, _, _ => (((s.vdev (k / 16)).list (k % 16)).lbase.toNat, s)
    | _, some (k, 8), _, _, _ => (((s.vdev (k / 16)).list (k % 16)).lctl (k % 16), s)
    | _, _, some (v, 0), _, _ => ((s.vdev v).ptroot.toNat, s)
    | _, _, _, some (v, 0), _ => ((s.vdev v).galvd.toNat, s)
    | _, _, _, _, some (v, 0) => ((s.vdev v).hvec.toNat, s)
    | _, _, _, _, _ =>
      match bank off 0x2580 16 16, bank off 0x26A0 16 16, bank off 0x2800 8 16, bank off 0x2A00 64 16, bank off 0x2E00 8 16 with
      | some (v, 0), _, _, _, _ => ((s.vdev v).saveBase.toNat, s)
      | some (v, 8), _, _, _, _ => ((s.vdev v).saveSize.toNat, s)
      | _, some (v, 0), _, _, _ => ((s.vdev v).snapBase.toNat, s)
      | _, some (v, 8), _, _, _ => ((s.vdev v).snapSize.toNat, s)
      | _, _, some (i, 0), _, _ => if i < 8 then ((s.stk i).ulSize.toNat * 65536 + (s.stk i).ulOff.toNat, s) else s.ulGet (i - 8)
      | _, _, _, some (v, o), _ => ((s.rp v).get o, s)
      | _, _, _, _, some (i, 0) => if i < 8 then ((s.stk i).jrnSize.toNat * 65536 + (s.stk i).jrnOff.toNat, s) else s.jrnGet (i - 8)
      | _, _, _, _, _ => (0, s)
/-- HSMAP.k as last written, applied or waiting (R243). -/
def Die.hsmapReg (x : Die) (k : Nat) : Nat :=
  (List.range 8).foldl (fun n j =>
    let p := Cells.get (16, 16) x.hsmapPend (8 * k + j)
    let m := if p = (16, 16) then Cells.get (0, 4) x.hsmap (8 * k + j) else p
    n + (m.1 * 16 + m.2) * 2 ^ (8 * j)) 0
/-- A read of a register of die t. -/
def State.csrGet (s : State) (t off : Nat) : Nat × State :=
  let x := s.die t
  match off with
  | 0x0010 => (unitcfg t, s)
  | 0x0018 => (capCode, s)
  | 0x0028 => (s.ns.toNat, s)
  | 0x0030 => (x.cur.gpc.toNat, s)
  | 0x0038 => (x.cur.gstart.toNat, s)
  | 0x0040 => (x.cur.hpc.toNat, s)
  | 0x0048 => (x.cur.gexit.toNat, s)
  | 0x0500 => (x.clpart.toNat, s)
  | 0x2080 => (x.tinva.toNat, s)
  | 0x2088 => (x.tinvc.toNat, s)
  | 0x2200 => (2 * b2n x.galOpen + b2n x.galWopen, s)
  | 0x2688 => (x.swTotal.toNat * 256 + x.swConsec, s.modDie t fun x => { x with swTotal := 0 })
  | 0x2690 => (x.flesc.toNat, s)
  | 0x27A0 => (x.tevlnch.toNat, s)
  | 0x2900 => s.linkRead (2 * t) 16
  | 0x2908 => s.linkRead (2 * t + 1) 16
  | 0x2920 => s.linkRead (8 + 2 * t) 4
  | 0x2928 => s.linkRead (9 + 2 * t) 4
  | _ =>
    match bank off 0x400 8 20, bank off 0x900 64 17, bank off 0x2100 8 20, bank off 0x3000 8 64 with
    | some (p, 0), _, _, _ => ((s.hsmask t p).toNat, s)
    | _, some (q, o), _, _ => s.eqGet t q o
    | _, _, some (k, 0), _ => (x.hsmapReg k, s)
    | _, _, _, some (k, 0) => ((List.range 16).foldl (fun n i => n + (Cells.get 0xF x.rhwrt (16 * k + i)).toNat * 2 ^ (4 * i)) 0, s)
    | _, _, _, _ => if t = 0 then s.csrGet0 off else (0, s)
/-- A class counter of the launch of graph entry k: SATC, UNFC or EVC of class c at 12 × (c − 1) (R89, log 81). -/
def State.cntGet (s : State) (k off : Nat) : Nat := if off % 4 = 0 ∧ off < 756 then fieldAt (cntBytes (s.task k).launch.cnt) off 4 else 0
/-- Where a control-space offset of die d's curator lies: below 2^16 in its own die's, at 2^16 × (t + 1) in die t's (R114, log 91). -/
def csrWhere (d off : Nat) : Nat × Nat := if off < 2 ^ 16 then (d, off) else (off / 2 ^ 16 - 1, off % 2 ^ 16)
/-- A read of control space by the curator of die d: outside a guest's reach it returns 0 (R114). Host-mode firmware reads the class counters of graph entry k at 2^32 × (k + 1) (R89, log 81). -/
def State.csrReadBy (s : State) (d off : Nat) : Nat × State :=
  let x := csrWhere d off
  if (s.die d).inReset then (0, s)
  else match (s.die d).cur.guest with
  | some v => if x.1 < 4 ∧ guestReads d v x.1 x.2 then s.csrGet x.1 x.2 else (0, s)
  | none => if x.1 < 4 then s.csrGet x.1 x.2 else (if 2 ^ 32 ≤ off then s.cntGet (off / 2 ^ 32 - 1) (off % 2 ^ 32) else 0, s)

/-! CSRR and CSRW (R355). -/

/-- An operand of curator firmware; its k operands read 0. -/
def State.curOp (s : State) (x : Spec) : W64 := if x.file == .s then s.rdS x.idx.toNat else 0
/-- The offset operand. -/
def State.csrOff (s : State) (f : SForm) : Nat :=
  if f.bi then f.imm.toNat
  else match s.cur.agent with | .curator _ => (s.curOp f.b).toNat | _ => (s.sB f).toNat
/-- Trap register i of a warp (R349). -/
def Warp.trapReg (w : Warp) (i : Nat) : W64 :=
  match i with | 0 => w.tcause | 1 => w.tpc | 2 => w.tinfo | 3 => w.tinfo2 | 4 => w.tmask | _ => w.tstat
/-- TSTAT written: SKIP as given, HFLT cleared by a 1. -/
def tstatWrite (old val : W64) : W64 := (val &&& 1) ||| (old &&& 2 &&& ~~~val)
/-- CSRR (R355, R349, R114). -/
def execCsrr (f : SForm) (s : State) : Out :=
  match s.cur.agent with
  | .curator d => let r := s.csrReadBy d (s.csrOff f); r.2.finish (sDst f.dst (BitVec.ofNat 64 r.1))
  | _ => s.once f.grd fun s =>
    let n := s.csrOff f
    if !s.cur.handler ∨ 5 < n then s.pathTrap f 0x50 n else s.finish (sDst f.dst (s.cw.trapReg n))
/-- CSRW (R355, R349, R114): TSTAT alone of the trap registers may be written. -/
def execCsrw (f : SForm) (s : State) : Out :=
  match s.cur.agent with
  | .curator d =>
    let val := s.curOp f.a
    let x := csrWhere d (s.csrOff f)
    .next (s.advance.csrWriteBy d x.1 x.2 val)
  | _ => s.once f.grd fun s =>
    let n := s.csrOff f
    if !s.cur.handler ∨ 5 < n then s.pathTrap f 0x50 n
    else s.warpDone fun w => if n = 5 then { w with tstat := tstatWrite w.tstat (s.sA f) } else w

end Sys2Proof.Machine
end

