-- ==== Sys2Proof/Machine/Integer.lean ====
section
/-! DEFINITION. Integer, address, predicate and special-register instructions (spec/08 R192 to R203). -/

namespace Sys2Proof.Machine

open Sys2Proof

/-- Operand b as w unsigned bits. -/
def State.natB (s : State) (f : AForm) (t : Nat) : Nat := (s.intB f t % 2 ^ f.ty.width).toNat
/-- Operand c as w unsigned bits. -/
def State.natC (s : State) (f : AForm) (t : Nat) : Nat := (s.intC f t % 2 ^ f.ty.width).toNat

/-- IADD (R195). -/
def execIadd (f : AForm) (s : State) : Out := s.intForm f fun s t => s.intA f t + s.intB f t
/-- ISUB (R195). -/
def execIsub (f : AForm) (s : State) : Out := s.intForm f fun s t => s.intA f t - s.intB f t
/-- IMUL (R195). -/
def execImul (f : AForm) (s : State) : Out := s.intForm f fun s t => s.intA f t * s.intB f t
/-- IMULH (R195): the floor of the product over 2^w. -/
def execImulh (f : AForm) (s : State) : Out := s.intForm f fun s t => s.intA f t * s.intB f t / 2 ^ f.ty.width
/-- IMAD (R195). -/
def execImad (f : AForm) (s : State) : Out := s.intForm f fun s t => s.intA f t * s.intB f t + s.intC f t
/-- IMIN (R195). -/
def execImin (f : AForm) (s : State) : Out := s.intForm f fun s t => min (s.intA f t) (s.intB f t)
/-- IMAX (R195). -/
def execImax (f : AForm) (s : State) : Out := s.intForm f fun s t => max (s.intA f t) (s.intB f t)
/-- IABS (R195). -/
def execIabs (f : AForm) (s : State) : Out := s.intForm f fun s t => (s.intA f t).natAbs
/-- INEG (R195). -/
def execIneg (f : AForm) (s : State) : Out := s.intForm f fun s t => - s.intA f t
/-- AND (R195). -/
def execIand (f : AForm) (s : State) : Out := s.intForm f fun s t => ((s.natA f t &&& s.natB f t : Nat) : Int)
/-- OR (R195). -/
def execIor (f : AForm) (s : State) : Out := s.intForm f fun s t => ((s.natA f t ||| s.natB f t : Nat) : Int)
/-- XOR (R195). -/
def execIxor (f : AForm) (s : State) : Out := s.intForm f fun s t => ((s.natA f t ^^^ s.natB f t : Nat) : Int)
/-- NOT (R195). -/
def execInot (f : AForm) (s : State) : Out := s.intForm f fun s t => 2 ^ f.ty.width - 1 - (s.natA f t : Int)
/-- SHL (R195): 0 from a count of w up. -/
def execShl (f : AForm) (s : State) : Out :=
  s.intForm f fun s t => if s.shiftB f t < f.ty.width then (s.natA f t : Int) * 2 ^ s.shiftB f t else 0
/-- SHR (R195). -/
def execShr (f : AForm) (s : State) : Out :=
  s.intForm f fun s t => if s.shiftB f t < f.ty.width then ((s.natA f t / 2 ^ s.shiftB f t : Nat) : Int) else 0

/-- w bits read signed, whatever the type (R195). -/
def signedOf (w x : Nat) : Int := if 2 ^ (w - 1) ≤ x then (x : Int) - 2 ^ w else x

/-- SAR (R195). -/
def execSar (f : AForm) (s : State) : Out :=
  s.intForm f fun s t =>
    let a := signedOf f.ty.width (s.natA f t)
    if s.shiftB f t < f.ty.width then a / 2 ^ s.shiftB f t else if a < 0 then -1 else 0

/-- x rotated left by n within w bits. -/
def rotl (w x n : Nat) : Nat := x * 2 ^ (n % w) % 2 ^ w + x * 2 ^ (n % w) / 2 ^ w

/-- ROTL (R195). -/
def execRotl (f : AForm) (s : State) : Out := s.intForm f fun s t => (rotl f.ty.width (s.natA f t) (s.shiftB f t) : Int)

/-- A field descriptor: pos and len, the latter at most w (R198). -/
def fieldOf (w : Nat) (x : W64) : Nat × Nat := (x.toNat % 256, min (x.toNat / 256 % 256) w)

/-- The bits of a field from pos, bits at or above w reading as `top` (R198). -/
def bfxBits (w a pos : Nat) (top : Bool) : Nat → Nat
  | 0 => 0
  | n + 1 => bfxBits w a pos top n + (if pos + n < w then b2n (natBit a (pos + n)) else b2n top) * 2 ^ n

/-- BFX's result (R198). -/
def bfx (ty : IType) (a : Nat) (fd : Nat × Nat) : Int :=
  let w := ty.width
  let x := bfxBits w a fd.1 (ty.signed && natBit a (w - 1)) fd.2
  if fd.2 = 0 then 0 else if ty.signed && natBit x (fd.2 - 1) then (x : Int) - 2 ^ fd.2 else x

/-- BFX (R198): the descriptor is operand b. -/
def execBfx (f : AForm) (s : State) : Out := s.intForm f fun s t => bfx f.ty (s.natA f t) (fieldOf f.ty.width (s.rdReg t f.b f.ty.wide))

/-- BFI's result: b with a field replaced by a's low bits, below w (R198). -/
def bfi (w a b pos : Nat) : Nat → Nat
  | 0 => b
  | n + 1 => let r := bfi w a b pos n; if pos + n < w then setBits r (pos + n) (pos + n) (b2n (natBit a n)) else r

/-- BFI (R198): the base is operand b, the descriptor operand c. -/
def execBfi (f : AForm) (s : State) : Out :=
  s.intForm f fun s t =>
    let fd := fieldOf f.ty.width (s.rdReg t f.c f.ty.wide)
    (bfi f.ty.width (s.natA f t) (s.natB f t) fd.1 fd.2 : Int)

/-- Number of 1 bits below bit w. -/
def popc (x : Nat) : Nat → Nat
  | 0 => 0
  | n + 1 => popc x n + b2n (natBit x n)
/-- The w bits in reverse order. -/
def brev (w x : Nat) : Nat → Nat
  | 0 => 0
  | n + 1 => brev w x n + b2n (natBit x n) * 2 ^ (w - 1 - n)

/-- POPC (R195). -/
def execPopc (f : AForm) (s : State) : Out := s.intForm f fun s t => (popc (s.natA f t) f.ty.width : Int)
/-- CLZ (R195): w for 0. -/
def execClz (f : AForm) (s : State) : Out :=
  s.intForm f fun s t => if s.natA f t = 0 then (f.ty.width : Int) else (f.ty.width : Int) - 1 - Nat.log2 (s.natA f t)
/-- BREV (R195). -/
def execBrev (f : AForm) (s : State) : Out := s.intForm f fun s t => (brev f.ty.width (s.natA f t) f.ty.width : Int)

/-- IDIV's result (R197). -/
def idiv (ty : IType) (a b : Int) : Int := if b = 0 then (if ty.signed then -1 else 2 ^ ty.width - 1) else Int.tdiv a b
/-- IREM's result (R197). -/
def irem (a b : Int) : Int := if b = 0 then a else Int.tmod a b

/-- IDIV and IREM: with .dz a zero divisor in an active thread traps before any write (R197). -/
def State.divForm (s : State) (f : AForm) (res : Int → Int → Int) : Out :=
  let go (s : State) (ts : List Nat) : Option Out :=
    let z := ts.filter fun t => s.intB f t == 0
    if f.x20 && !z.isEmpty then some (s.trapT 0x13 0 (if f.mu then s.pathThreads else z)) else none
  let run (s : State) : Out := s.intForm f fun s t => res (s.intA f t) (s.intB f t)
  if f.mu then s.inWarp fun s => (go s (if s.guardU f.grd then [s.lowThread] else [])).getD (run s)
  else (go s (s.active f.grd)).getD (run s)

/-- IDIV (R197). -/
def execIdiv (f : AForm) (s : State) : Out := s.divForm f (idiv f.ty)
/-- IREM (R197). -/
def execIrem (f : AForm) (s : State) : Out := s.divForm f irem

/-- IADC (R196): carry in and out of predicate c. -/
def execIadc (f : AForm) (s : State) : Out :=
  s.each f.mu f.grd fun s t =>
    let x := s.intA f t + s.intB f t + (b2n (s.rdPred t f.c) : Int)
    wrInt f t x ++ wrPred f.c t (decide (2 ^ f.ty.width ≤ x))
/-- IADC.sb (R196). -/
def execIadcSb (f : AForm) (s : State) : Out :=
  s.each f.mu f.grd fun s t =>
    let x := s.intA f t - s.intB f t - (b2n (s.rdPred t f.c) : Int)
    wrInt f t x ++ wrPred f.c t (decide (x < 0))

/-- ICMP's relation by FN (R199). -/
def icmp (fn : Nat) (a b : Int) : Bool :=
  match fn with
  | 0 => a == b | 1 => a != b | 2 => decide (a < b) | 3 => decide (a ≤ b) | 4 => decide (a > b) | _ => decide (a ≥ b)

/-- ICMP (R199). -/
def execIcmp (f : AForm) (s : State) : Out := s.each f.mu f.grd fun s t => wrPred f.dst t (icmp f.fn.toNat (s.intA f t) (s.intB f t))
/-- SEL (R199). -/
def execSel (f : AForm) (s : State) : Out := s.intForm f fun s t => if s.rdPred t f.c then s.intA f t else s.rdInt t f.b f.ty
/-- LEA (R199): A is 64 bits, and the result is never extended. -/
def execLea (f : AForm) (s : State) : Out :=
  s.each f.mu f.grd fun s t => wrReg f.dst t true (s.rdReg t f.a true + BitVec.ofInt 64 (s.rdInt t f.b f.ty * 2 ^ f.imm.toNat))
/-- MOV (R199). -/
def execMov (f : AForm) (s : State) : Out := s.intForm f fun s t => s.intA f t
/-- MOVI (R199, R193). -/
def execMovi (f : AForm) (s : State) : Out := s.intForm f fun _ _ => immInt f.ty f.imm
/-- MOVK (R199): byte SUB of the destination. -/
def execMovk (lane : BitVec 3) (f : AForm) (s : State) : Out :=
  s.each f.mu f.grd fun s t =>
    wrReg f.dst t f.ty.wide (BitVec.ofNat 64 (setBits (s.rdReg t f.dst f.ty.wide).toNat (8 * lane.toNat + 7) (8 * lane.toNat) f.imm.toNat))
/-- PLOG (R199). -/
def execPlog (f : AForm) (s : State) : Out :=
  s.each f.mu f.grd fun s t =>
    wrPred f.dst t (f.imm.getLsbD (4 * b2n (s.rdPred t f.a) + 2 * b2n (s.rdPred t f.b) + b2n (s.rdPred t f.c)))
/-- The predicates PMOV.pk packs (R199). -/
def State.packPreds (s : State) (mu : Bool) (t : Nat) : Nat :=
  if mu then (List.range 4).foldl (fun n i => n + b2n (s.rdQ i) * 2 ^ i) 0
  else (List.range 8).foldl (fun n i => n + b2n (s.rdP t i) * 2 ^ i) 0
/-- PMOV.pk (R199). -/
def execPmovPk (f : AForm) (s : State) : Out := s.intForm f fun s t => (s.packPreds f.mu t : Int)
/-- PMOV.up (R199). -/
def execPmovUp (f : AForm) (s : State) : Out :=
  s.each f.mu f.grd fun s t =>
    let a := (s.rdReg t f.a false).toNat
    if f.mu then (List.range 4).map fun i => .q i (natBit a i) else (List.range 7).map fun i => .p t i (natBit a i)
/-- UNI (R199): the lowest active thread's value; nothing when no thread is active. -/
def execUni (f : AForm) (s : State) : Out :=
  match s.active f.grd with
  | [] => s.finish []
  | t :: _ => s.finish [.s f.dst.idx.toNat (intBits f.ty (s.intA f t))]
/-- UNI.eq (R199). -/
def execUniEq (f : AForm) (s : State) : Out :=
  s.inWarp fun s =>
    match s.active f.grd with
    | [] => s.finish []
    | t :: ts => s.finish [.q (f.dst.idx.toNat - 8) (ts.all fun u => s.natA f u == s.natA f t)]

/-! Special registers (R200 to R202). -/

/-- A recovery-point register of the issuer's virtual device, as an away thread read it at ejection (R164, R200). -/
def State.rpReg (s : State) (n : Nat) : W64 :=
  if s.onRill then Cells.get 0 s.rr.rp n
  else
    let r := s.rp s.cVdev
    match n with | 24 => r.cur | 25 => r.sealedN | 26 => r.dig | 27 => r.base | _ => r.task

/-- A special register's value in thread t (R164, R200). -/
def State.special (s : State) (n t : Nat) : W64 :=
  let tm := s.team s.cTeam
  let w := s.rw
  let rill := s.onRill
  match n with
  | 0 => BitVec.ofNat 64 (32 * s.cWarp + t)
  | 1 => BitVec.ofNat 64 s.cWarp
  | 2 => BitVec.ofNat 64 tm.num
  | 3 => BitVec.ofNat 64 tm.gang
  | 4 => BitVec.ofNat 64 tm.core
  | 5 => s.handleOf tm.task
  | 8 => (w.thread t).meet
  | 9 => (if rill then s.rr.ejt else w.ejt).setWidth 64
  | 10 => (if rill then s.rr.rjt else w.rjt).setWidth 64
  | 11 => (if rill then s.rr.part else w.part).setWidth 64
  | 12 => if rill then 0 else BitVec.ofNat 64 s.cur.age
  | 13 => (if rill then s.rr.vstat else (w.thread t).vstat).setWidth 64
  | 14 => if rill then BitVec.ofNat 64 (2 ^ t) else s.cp.mask.setWidth 64
  | n => if n < 20 then (if rill then Cells.get 0 s.rr.rg (n - 16) else Cells.get 0 w.rg (n - 16)) else s.rpReg n

/-- Special registers whose destination is 64 bits wide (R200). -/
def specialWide (n : Nat) : Bool := n == 5 || n == 8 || decide (24 ≤ n)

/-- GETS (R201): .s of TID names the lowest thread of the path. -/
def execGets (f : AForm) (s : State) : Out :=
  let n := f.a.idx.toNat
  s.each f.mu f.grd fun s t => wrReg f.dst t (specialWide n) (s.special n t)

/-- SETS of a per-thread register (R202): MEET takes NOMEET or a PC, and VSTAT clears by 1 bits. -/
def State.setsThread (s : State) (f : AForm) : Out :=
  let act := s.active f.grd
  if f.dst.idx.toNat = 8 then
    let v := fun t => s.rdReg t f.a true
    let bad := act.filter fun t => v t != noMeet && !pcOk (v t)
    if bad.isEmpty then .next (s.setMeet act v).advance else s.trapT 8 s.cur.ipc.toNat bad
  else
    let v := fun t => (s.rdReg t f.a false).setWidth 32
    match s.cur.agent with
    | .warp t w _ => .next (s.modWarp t w fun wp => act.foldl (fun wp i => wp.modThread i fun th => { th with vstat := vstatW1C th.vstat (v i) }) wp).advance
    | .rill c => .next (s.modRill c fun r => { r with vstat := if act.isEmpty then r.vstat else vstatW1C r.vstat (v r.thread) }).advance
    | _ => .next s

/-- SETS of a per-warp register (R202, R178): a value outside its limits raises ILLOP. -/
def State.setsWarp (s : State) (n : Nat) (x : Nat) : Out :=
  match n with
  | 9 => if 8 < x % 16 then s.illop else s.warpDone fun w => { w with ejt := BitVec.ofNat 4 x }
  | 10 => if !rjtOk (x % 2 ^ 21) then s.illop else s.warpDone fun w => { w with rjt := BitVec.ofNat 21 x }
  | 11 => if 4 < x % 8 then s.illop else s.warpDone fun w => { w with part := BitVec.ofNat 3 x }
  | n => if 2 ^ 16 ≤ x then s.illop else s.warpDone fun w => { w with rg := Cells.set 0 w.rg (n - 16) (BitVec.ofNat 64 x) }

/-- SETS (R202). -/
def execSets (f : AForm) (s : State) : Out :=
  if f.mu then s.inWarp fun s => if s.guardU f.grd then s.setsWarp f.dst.idx.toNat (s.rdReg s.lowThread f.a true).toNat else s.finish []
  else s.setsThread f

end Sys2Proof.Machine
end

