-- ==== Sys2Proof/Machine/Real.lean ====
section
/-! DEFINITION. Real arithmetic instructions (spec/09_real_arithmetic_instructions.md R209 to R226). -/

namespace Sys2Proof.Machine

open Sys2Proof

/-- FADD (R210). -/
def execFadd (f : AForm) (s : State) : Out := s.realForm f fun s t => rAdd (s.clsA f t) (s.clsB f t)
/-- FSUB (R210). -/
def execFsub (f : AForm) (s : State) : Out := s.realForm f fun s t => rSub (s.clsA f t) (s.clsB f t)
/-- FMUL (R210). -/
def execFmul (f : AForm) (s : State) : Out := s.realForm f fun s t => rMul (s.clsA f t) (s.clsB f t)
/-- FMA (R210). -/
def execFma (f : AForm) (s : State) : Out := s.realForm f fun s t => rFma (s.clsA f t) (s.clsB f t) (s.clsC f t)
/-- FDIV (R210). -/
def execFdiv (f : AForm) (s : State) : Out := s.realForm f fun s t => rDiv (s.clsA f t) (s.clsB f t)
/-- FSQT (R210). -/
def execFsqt (f : AForm) (s : State) : Out := s.realForm f fun s t => rSqt (s.clsA f t)
/-- FSCL's exponent: operand b read as i32, or IMM read signed (R210). -/
def State.sclB (s : State) (f : AForm) (t : Nat) : Int := if f.bi then f.imm.toInt else s.rdInt t f.b .i32
/-- FSCL (R210). -/
def execFscl (f : AForm) (s : State) : Out := s.realForm f fun s t => rScl (s.clsA f t) (s.sclB f t)
/-- FMIN (R211). -/
def execFmin (f : AForm) (s : State) : Out := s.realForm f fun s t => rMinMax false (s.clsA f t) (s.clsB f t)
/-- FMAX (R211). -/
def execFmax (f : AForm) (s : State) : Out := s.realForm f fun s t => rMinMax true (s.clsA f t) (s.clsB f t)
/-- AMAX (R211). -/
def execAmax (f : AForm) (s : State) : Out := s.realForm f fun s t => rAmax (s.clsA f t) (s.clsB f t)

/-- FCMP's relation by FN (R212). -/
def fcmp (fn : Nat) (a b : RVal) : Bool :=
  if a.isNan || b.isNan then fn == 1 || fn == 6
  else
    let c := cmpVal a b
    match fn with
    | 0 => c == 0 | 1 => c != 0 | 2 => decide (c < 0) | 3 => decide (c ≤ 0) | 4 => decide (c > 0) | 5 => decide (c ≥ 0) | 6 => false | _ => true

/-- FCMP (R212): no flag is raised. -/
def execFcmp (f : AForm) (s : State) : Out := s.each f.mu f.grd fun s t => wrPred f.dst t (fcmp f.fn.toNat (s.clsA f t) (s.clsB f t))
/-- FSEL (R212): the selected value is delivered. -/
def execFsel (f : AForm) (s : State) : Out :=
  s.realForm f fun s t =>
    let x := if s.rdPred t f.c then s.clsA f t else s.clsB f t
    ((firstNan [x]).getD x, {})

/-- FCLS's mask against a format's smallest normal (R213). -/
def fclsMask (fmt : Nat) (x : RVal) : Nat :=
  match x with
  | .nan _ c q => c % 16 * 2 ^ 12 + (if q then 2 ^ 9 else 2 ^ 8)
  | .inf s => if s then 1 else 2 ^ 7
  | .fin s n d =>
    if n = 0 then (if s then 8 else 16)
    else
      let (a, b) := scale2 1 1 (1 - (ffmt (if fmt = 0x04 then 0x02 else fmt)).bias)
      let normal := decide (a * d ≤ n * b)
      if normal then (if s then 2 else 64) else if s then 4 else 32

/-- FCLS (R213): operand a is read in CLS. -/
def execFcls (f : AForm) (s : State) : Out :=
  s.each f.mu f.grd fun s t =>
    let c := f.cls.toNat
    wrReg f.dst t false (BitVec.ofNat 64 (fclsMask (s.cls c).fmt (s.rdCls t f.a c)))

/-- FRND's first step, exact with INEXACT when it moved (R214). -/
def frnd (fn : Nat) (a : RVal) : Res :=
  match a with
  | .fin s n d => let r := roundInt fn s n d; (.fin s r 1, { inexact := decide (r * d ≠ n) })
  | x => ((firstNan [x]).getD x, {})

/-- FRND (R214). -/
def execFrnd (f : AForm) (s : State) : Out := s.realForm f fun s t => frnd f.fn.toNat (s.clsA f t)

/-- A function form: the operand's encoding and format fix the approximation (R215 to R217). -/
def State.fnForm (s : State) (f : AForm) (fn : FnForm) : Out :=
  s.realForm f fun s t =>
    let ca := s.cls (s.clsFor f.cls.toNat 0)
    let key := (s.rdReg t f.a false).toNat % 2 ^ fmtBits ca.fmt * 256 + ca.fmt
    rFn fn (s.cls f.cls.toNat).fmt key (s.clsA f t)

/-- FRCP (R215, R216). -/
def execFrcp (f : AForm) (s : State) : Out := s.fnForm f .rcp
/-- FRSQ (R215, R216). -/
def execFrsq (f : AForm) (s : State) : Out := s.fnForm f .rsq
/-- FEXP (R215, R216). -/
def execFexp (f : AForm) (s : State) : Out := s.fnForm f .exp
/-- FLOG (R215, R216). -/
def execFlog (f : AForm) (s : State) : Out := s.fnForm f .log
/-- FSIN (R215, R216). -/
def execFsin (f : AForm) (s : State) : Out := s.fnForm f .sin
/-- FCOS (R215, R216). -/
def execFcos (f : AForm) (s : State) : Out := s.fnForm f .cos
/-- FTNH (R215, R216). -/
def execFtnh (f : AForm) (s : State) : Out := s.fnForm f .tnh

/-- CVIF (R218). -/
def execCvif (f : AForm) (s : State) : Out := s.realForm f fun s t => (ofRat (s.intA f t) 1, {})

/-- Largest value of an integer type. -/
def IType.maxVal (ty : IType) : Int := if ty.signed then 2 ^ (ty.width - 1) - 1 else 2 ^ ty.width - 1
/-- Smallest value of an integer type. -/
def IType.minVal (ty : IType) : Int := if ty.signed then -2 ^ (ty.width - 1) else 0

/-- CVFI's result and flags (R219). -/
def cvfi (ty : IType) (fn : Nat) (a : RVal) : Int × Flg :=
  match a with
  | .nan _ _ _ => (0, { invalid := true })
  | .inf s => (if s then IType.minVal ty else IType.maxVal ty, { sat := true })
  | .fin s n d =>
    let r := roundInt fn s n d
    let x : Int := if s then -(r : Int) else r
    if IType.maxVal ty < x then (IType.maxVal ty, { sat := true })
    else if x < IType.minVal ty then (IType.minVal ty, { sat := true })
    else (x, { inexact := decide (r * d ≠ n) })

/-- CVFI (R219). -/
def execCvfi (f : AForm) (s : State) : Out :=
  s.classForm f fun s t => let r := cvfi f.ty f.fn.toNat (s.clsA f t); { thread := t, flg := r.2, ws := wrInt f t r.1 }

/-- CVCC.cc (R220): a read in CA. -/
def execCvccCc (f : AForm) (s : State) : Out := s.realForm f fun s t => let a := s.clsA f t; ((firstNan [a]).getD a, {})
/-- CVCC.in (R220): one element of the format IMM names. -/
def execCvccIn (f : AForm) (s : State) : Out :=
  s.realForm f fun s t => (decodeF f.imm.toNat ((s.rdReg t f.a false).toNat % 2 ^ fmtBits f.imm.toNat), {})
/-- CVCC.out (R220): no range policy, flush or count. -/
def execCvccOut (f : AForm) (s : State) : Out :=
  s.classForm f fun s t =>
    let r := convert false f.imm.toNat (s.rdCls t f.a f.cls.toNat)
    { thread := t, flg := r.2, ws := wrReg f.dst t false (BitVec.ofNat 64 r.1) }

/-- CADD (R221): the pair is read in CLS. -/
def execCadd (f : AForm) (s : State) : Out := s.realForm f fun s t => rAdd (s.rdCls t f.a f.cls.toNat) (s.clsB f t)
/-- CFOLD (R222): the pair is read in CA or CLS. -/
def execCfold (f : AForm) (s : State) : Out := s.realForm f fun s t => let a := s.clsA f t; ((firstNan [a]).getD a, {})

/-- An exact step result with the flags it carries. -/
def addFlg (r : Res) (f : Flg) : Res := (r.1, r.2.or f)

/-- r + Σ of products, a STEP after each but the last (R223). In each step a_i and b_i stand before the sum so far among NaN sources (R54; DEDUCED, log 110). -/
def fdot (fmt : Nat) : List (RVal × RVal) → Res → Res
  | [], r => r
  | [(a, b)], r => addFlg (rFma a b r.1) r.2
  | (a, b) :: l, r => fdot fmt l (stepRound fmt (addFlg (rFma a b r.1) r.2))

/-- FDOT4 (R223). -/
def execFdot4 (f : AForm) (s : State) : Out :=
  s.realForm f fun s t =>
    let fm := (s.cls f.cls.toNat).fmt
    let at_ (i : Nat) (sp : Spec) (c : Nat) : RVal := classRead (s.cls c) (s.rdV t (sp.idx.toNat + i)).toNat
    fdot fm ((List.range 4).map fun i => (at_ i f.a (s.clsFor f.cls.toNat 0), at_ i f.b (s.clsFor f.cls.toNat 1))) (s.clsC f t, {})

/-- HRAND's hash (R224). -/
def hrand (a b : W64) : W32 :=
  let x := a + b * 0x9E3779B97F4A7C15
  let x := (x ^^^ (x >>> 30)) * 0xE7A35C1984D26F0B
  let x := (x ^^^ (x >>> 27)) * 0x8C3FD2175AB9E463
  let x := x ^^^ (x >>> 31)
  (x >>> 32).setWidth 32 ^^^ x.setWidth 32

/-- H of thread t. -/
def State.hrandH (s : State) (f : AForm) (t : Nat) : W32 := hrand (s.rdReg t f.a true) (s.rdReg t f.b true)

/-- HRAND.n (R224). -/
def execHrandN (f : AForm) (s : State) : Out := s.each f.mu f.grd fun s t => wrReg f.dst t false ((s.hrandH f t).setWidth 64)
/-- HRAND.p (R224). -/
def execHrandP (f : AForm) (s : State) : Out := s.each f.mu f.grd fun s t => wrPred f.dst t (decide (f.imm.toNat ≤ (s.hrandH f t).toNat / 2 ^ 24))
/-- HRAND.u (R224). -/
def execHrandU (f : AForm) (s : State) : Out := s.realForm f fun s t => (.fin false ((s.hrandH f t).toNat / 256) (2 ^ 24), {})

/-- Entry k of the codebook in s(b) to s(b + 3) (R225). -/
def State.codebook (s : State) (b k : Nat) : RVal := decodeF 0x02 ((s.rdS (b + k / 4)).toNat / 2 ^ (16 * (k % 4)) % 65536)

/-- LUTB (R225): sixteen products, counted once; the activation is operand a and the codebook operand b (R54). -/
def execLutb (f : AForm) (s : State) : Out :=
  s.inWarp fun s =>
    if s.guardU f.grd then
      let c := s.cls f.cls.toNat
      let x := s.rdCls s.lowThread f.a f.cls.toNat
      let ds := (List.range 16).map fun k => roundClass c (rMul x (s.codebook f.b.idx.toNat k))
      let o : ThreadOut :=
        { flg := ds.foldl (fun g d => g.or d.flg) {}, satc := ds.foldl (fun n d => n + d.satc) 0, unfc := ds.foldl (fun n d => n + d.unfc) 0,
          trap := ds.any (·.trap),
          ws := (List.range 8).map fun j => .s (f.dst.idx.toNat + j) (BitVec.ofNat 64 ((ds.getD (2 * j) {}).out + (ds.getD (2 * j + 1) {}).out * 2 ^ 32)) }
      s.classDone f.cls.toNat true [o]
    else s.finish []

/-- r + Σ of table entries, a STEP after each but the last (R226); an entry is operand b and stands before the sum, operand c, among NaN sources (R54; DEDUCED, log 110). -/
def lutSum (fmt : Nat) : List RVal → Res → Res
  | [], r => r
  | [a], r => addFlg (rAdd a r.1) r.2
  | a :: l, r => lutSum fmt l (stepRound fmt (addFlg (rAdd a r.1) r.2))

/-- LUTM (R226): the table entries are read in CB or CLS. -/
def execLutm (f : AForm) (s : State) : Out :=
  s.inWarp fun s =>
    s.realForm f fun s t =>
      let cb := s.cls (s.clsFor f.cls.toNat 1)
      let code := fun j => (s.rdV t f.a.idx.toNat).toNat / 2 ^ (4 * j) % 16
      let entry := fun k => classRead cb ((s.rdS (f.b.idx.toNat + k / 2)).toNat / 2 ^ (32 * (k % 2)) % 2 ^ 32)
      lutSum (s.cls f.cls.toNat).fmt ((List.range f.imm.toNat).map fun j => entry (code j)) (s.clsC f t, {})

end Sys2Proof.Machine
end

