-- ==== Sys2Proof/Machine/Dispatch.lean ====
section
/-! DEFINITION. Dispatch: one arm per constructor of Instr, each a direct call of its meaning. -/

namespace Sys2Proof.Machine

open Sys2Proof

/-- The effect of one instruction of the issuing agent, or of one step of the part. -/
def exec (i : Instr) (s : State) : Host.Outcome State Fault Refusal :=
  match i with
  | .nop f => Sys2Proof.Machine.execNop f s
  | .bra f => Sys2Proof.Machine.execBra f s
  | .brc f => Sys2Proof.Machine.execBrc f s
  | .brx f => Sys2Proof.Machine.execBrx f s
  | .call f => Sys2Proof.Machine.execCall f s
  | .callx f => Sys2Proof.Machine.execCallx f s
  | .ret f => Sys2Proof.Machine.execRet f s
  | .exit f => Sys2Proof.Machine.execExit f s
  | .meet f => Sys2Proof.Machine.execMeet f s
  | .join f => Sys2Proof.Machine.execJoin f s
  | .yield f => Sys2Proof.Machine.execYield f s
  | .ejcfg f => Sys2Proof.Machine.execEjcfg f s
  | .partn f => Sys2Proof.Machine.execPartn f s
  | .idemOn f => Sys2Proof.Machine.execIdemOn f s
  | .idemOff f => Sys2Proof.Machine.execIdemOff f s
  | .iadd f => Sys2Proof.Machine.execIadd f s
  | .isub f => Sys2Proof.Machine.execIsub f s
  | .iadc f => Sys2Proof.Machine.execIadc f s
  | .iadcSb f => Sys2Proof.Machine.execIadcSb f s
  | .imul f => Sys2Proof.Machine.execImul f s
  | .imulh f => Sys2Proof.Machine.execImulh f s
  | .imad f => Sys2Proof.Machine.execImad f s
  | .idiv f => Sys2Proof.Machine.execIdiv f s
  | .irem f => Sys2Proof.Machine.execIrem f s
  | .imin f => Sys2Proof.Machine.execImin f s
  | .imax f => Sys2Proof.Machine.execImax f s
  | .iabs f => Sys2Proof.Machine.execIabs f s
  | .ineg f => Sys2Proof.Machine.execIneg f s
  | .iand f => Sys2Proof.Machine.execIand f s
  | .ior f => Sys2Proof.Machine.execIor f s
  | .ixor f => Sys2Proof.Machine.execIxor f s
  | .inot f => Sys2Proof.Machine.execInot f s
  | .shl f => Sys2Proof.Machine.execShl f s
  | .shr f => Sys2Proof.Machine.execShr f s
  | .sar f => Sys2Proof.Machine.execSar f s
  | .rotl f => Sys2Proof.Machine.execRotl f s
  | .bfx f => Sys2Proof.Machine.execBfx f s
  | .bfi f => Sys2Proof.Machine.execBfi f s
  | .popc f => Sys2Proof.Machine.execPopc f s
  | .clz f => Sys2Proof.Machine.execClz f s
  | .brev f => Sys2Proof.Machine.execBrev f s
  | .icmp f => Sys2Proof.Machine.execIcmp f s
  | .sel f => Sys2Proof.Machine.execSel f s
  | .lea f => Sys2Proof.Machine.execLea f s
  | .mov f => Sys2Proof.Machine.execMov f s
  | .movi f => Sys2Proof.Machine.execMovi f s
  | .movk lane f => Sys2Proof.Machine.execMovk lane f s
  | .gets f => Sys2Proof.Machine.execGets f s
  | .sets f => Sys2Proof.Machine.execSets f s
  | .plog f => Sys2Proof.Machine.execPlog f s
  | .pmovPk f => Sys2Proof.Machine.execPmovPk f s
  | .pmovUp f => Sys2Proof.Machine.execPmovUp f s
  | .uni f => Sys2Proof.Machine.execUni f s
  | .uniEq f => Sys2Proof.Machine.execUniEq f s
  | .fadd f => Sys2Proof.Machine.execFadd f s
  | .fsub f => Sys2Proof.Machine.execFsub f s
  | .fmul f => Sys2Proof.Machine.execFmul f s
  | .fma f => Sys2Proof.Machine.execFma f s
  | .fmin f => Sys2Proof.Machine.execFmin f s
  | .fmax f => Sys2Proof.Machine.execFmax f s
  | .fcmp f => Sys2Proof.Machine.execFcmp f s
  | .fsel f => Sys2Proof.Machine.execFsel f s
  | .fcls f => Sys2Proof.Machine.execFcls f s
  | .fscl f => Sys2Proof.Machine.execFscl f s
  | .frnd f => Sys2Proof.Machine.execFrnd f s
  | .frcp f => Sys2Proof.Machine.execFrcp f s
  | .frsq f => Sys2Proof.Machine.execFrsq f s
  | .fsqt f => Sys2Proof.Machine.execFsqt f s
  | .fdiv f => Sys2Proof.Machine.execFdiv f s
  | .fexp f => Sys2Proof.Machine.execFexp f s
  | .flog f => Sys2Proof.Machine.execFlog f s
  | .fsin f => Sys2Proof.Machine.execFsin f s
  | .fcos f => Sys2Proof.Machine.execFcos f s
  | .ftnh f => Sys2Proof.Machine.execFtnh f s
  | .cvif f => Sys2Proof.Machine.execCvif f s
  | .cvfi f => Sys2Proof.Machine.execCvfi f s
  | .cvccCc f => Sys2Proof.Machine.execCvccCc f s
  | .cvccIn f => Sys2Proof.Machine.execCvccIn f s
  | .cvccOut f => Sys2Proof.Machine.execCvccOut f s
  | .cadd f => Sys2Proof.Machine.execCadd f s
  | .cfold f => Sys2Proof.Machine.execCfold f s
  | .fdot4 f => Sys2Proof.Machine.execFdot4 f s
  | .amax f => Sys2Proof.Machine.execAmax f s
  | .hrandN f => Sys2Proof.Machine.execHrandN f s
  | .hrandP f => Sys2Proof.Machine.execHrandP f s
  | .hrandU f => Sys2Proof.Machine.execHrandU f s
  | .lutb f => Sys2Proof.Machine.execLutb f s
  | .lutm f => Sys2Proof.Machine.execLutm f s
  | .shfl op f => Sys2Proof.Machine.execShfl op f s
  | .vote op f => Sys2Proof.Machine.execVote op f s
  | .redw op f => Sys2Proof.Machine.execRedw op f s
  | .scanw op f => Sys2Proof.Machine.execScanw op f s
  | .ld f => Sys2Proof.Machine.execLd f s
  | .st f => Sys2Proof.Machine.execSt f s
  | .lds f => Sys2Proof.Machine.execLds f s
  | .sts f => Sys2Proof.Machine.execSts f s
  | .ldg f => Sys2Proof.Machine.execLdg f s
  | .gwin f => Sys2Proof.Machine.execGwin f s
  | .prfFill f => Sys2Proof.Machine.execPrfFill f s
  | .prfXlat f => Sys2Proof.Machine.execPrfXlat f s
  | .cctlEvict f => Sys2Proof.Machine.execCctlEvict f s
  | .cctlZero f => Sys2Proof.Machine.execCctlZero f s
  | .cpy f => Sys2Proof.Machine.execCpy f s
  | .cpym f => Sys2Proof.Machine.execCpym f s
  | .cpygFrom f => Sys2Proof.Machine.execCpygFrom f s
  | .cpygTo f => Sys2Proof.Machine.execCpygTo f s
  | .cpygLoad f => Sys2Proof.Machine.execCpygLoad f s
  | .cpyxPut f => Sys2Proof.Machine.execCpyxPut f s
  | .cpyxGet f => Sys2Proof.Machine.execCpyxGet f s
  | .tlw f => Sys2Proof.Machine.execTlw f s
  | .tlqDone f => Sys2Proof.Machine.execTlqDone f s
  | .tlqIss f => Sys2Proof.Machine.execTlqIss f s
  | .tlmk f => Sys2Proof.Machine.execTlmk f s
  | .malcWait f => Sys2Proof.Machine.execMalcWait f s
  | .malcTry f => Sys2Proof.Machine.execMalcTry f s
  | .mfre f => Sys2Proof.Machine.execMfre f s
  | .mzro f => Sys2Proof.Machine.execMzro f s
  | .meas f => Sys2Proof.Machine.execMeas f s
  | .mcvt f => Sys2Proof.Machine.execMcvt f s
  | .mldb f => Sys2Proof.Machine.execMldb f s
  | .mma f => Sys2Proof.Machine.execMma f s
  | .mmat f => Sys2Proof.Machine.execMmat f s
  | .mdrn f => Sys2Proof.Machine.execMdrn f s
  | .msta word f => Sys2Proof.Machine.execMsta word f s
  | .mbatOpen f => Sys2Proof.Machine.execMbatOpen f s
  | .mbatClose f => Sys2Proof.Machine.execMbatClose f s
  | .msvhCopy f => Sys2Proof.Machine.execMsvhCopy f s
  | .msvhEv f => Sys2Proof.Machine.execMsvhEv f s
  | .mrsh f => Sys2Proof.Machine.execMrsh f s
  | .fence f => Sys2Proof.Machine.execFence f s
  | .atom op f => Sys2Proof.Machine.execAtom op f s
  | .acas f => Sys2Proof.Machine.execAcas f s
  | .red op f => Sys2Proof.Machine.execRed op f s
  | .fred op f => Sys2Proof.Machine.execFred op f s
  | .rvini bytes f => Sys2Proof.Machine.execRvini bytes f s
  | .arv f => Sys2Proof.Machine.execArv f s
  | .arvb f => Sys2Proof.Machine.execArvb f s
  | .rvwt f => Sys2Proof.Machine.execRvwt f s
  | .rvtsT f => Sys2Proof.Machine.execRvtsT f s
  | .rvtsPh f => Sys2Proof.Machine.execRvtsPh f s
  | .qiniInit f => Sys2Proof.Machine.execQiniInit f s
  | .qiniGrant f => Sys2Proof.Machine.execQiniGrant f s
  | .qpsh f => Sys2Proof.Machine.execQpsh f s
  | .qpop f => Sys2Proof.Machine.execQpop f s
  | .qtryPsh f => Sys2Proof.Machine.execQtryPsh f s
  | .qtryPop f => Sys2Proof.Machine.execQtryPop f s
  | .syncm f => Sys2Proof.Machine.execSyncm f s
  | .gsyncWait f => Sys2Proof.Machine.execGsyncWait f s
  | .gsyncNb f => Sys2Proof.Machine.execGsyncNb f s
  | .tlsig f => Sys2Proof.Machine.execTlsig f s
  | .launch f => Sys2Proof.Machine.execLaunch f s
  | .trap f => Sys2Proof.Machine.execTrap f s
  | .eret f => Sys2Proof.Machine.execEret f s
  | .csrr f => Sys2Proof.Machine.execCsrr f s
  | .csrw f => Sys2Proof.Machine.execCsrw f s
  | .killw f => Sys2Proof.Machine.execKillw f s
  | .pause f => Sys2Proof.Machine.execPause f s
  | .mirxOff f => Sys2Proof.Machine.execMirxOff f s
  | .mirxOn f => Sys2Proof.Machine.execMirxOn f s
  | .mirxTest f => Sys2Proof.Machine.execMirxTest f s
  | .waitev f => Sys2Proof.Machine.execWaitev f s
  | .rpopn f => Sys2Proof.Machine.execRpopn f s
  | .rpseal f => Sys2Proof.Machine.execRpseal f s
  | .rpqrySt f => Sys2Proof.Machine.execRpqrySt f s
  | .rpqryWt f => Sys2Proof.Machine.execRpqryWt f s
  | .pfxCl ca cb cc => Sys2Proof.Machine.execPfxCl ca cb cc s
  | .pfxRg a => Sys2Proof.Machine.execPfxRg a s
  | .nld f => Sys2Proof.Machine.execNld f s
  | .nst f => Sys2Proof.Machine.execNst f s
  | .nadd f => Sys2Proof.Machine.execNadd f s
  | .naddAddr f => Sys2Proof.Machine.execNaddAddr f s
  | .nmul f => Sys2Proof.Machine.execNmul f s
  | .nfma f => Sys2Proof.Machine.execNfma f s
  | .ndiv f => Sys2Proof.Machine.execNdiv f s
  | .nsqt f => Sys2Proof.Machine.execNsqt f s
  | .nrsq f => Sys2Proof.Machine.execNrsq f s
  | .nmax f => Sys2Proof.Machine.execNmax f s
  | .nmin f => Sys2Proof.Machine.execNmin f s
  | .nscl f => Sys2Proof.Machine.execNscl f s
  | .ncvt f => Sys2Proof.Machine.execNcvt f s
  | .nloop f => Sys2Proof.Machine.execNloop f s
  | .nbrz f => Sys2Proof.Machine.execNbrz f s
  | .nsig f => Sys2Proof.Machine.execNsig f s
  | .nwait f => Sys2Proof.Machine.execNwait f s
  | .ndone f => Sys2Proof.Machine.execNdone f s
  | .csrWrite die tdie off val => Sys2Proof.Machine.execCsrWrite die tdie off val s
  | .ltailWrite vdev list val => Sys2Proof.Machine.execLtailWrite vdev list val s
  | .taskFetch vdev list => Sys2Proof.Machine.execTaskFetch vdev list s
  | .tgdecWrite die val => Sys2Proof.Machine.execTgdecWrite die val s
  | .dispatchWrite die val => Sys2Proof.Machine.execDispatchWrite die val s
  | .hwDispatch die vdev => Sys2Proof.Machine.execHwDispatch die vdev s
  | .gangPlace task => Sys2Proof.Machine.execGangPlace task s
  | .gangRetire task gang => Sys2Proof.Machine.execGangRetire task gang s
  | .launchRetire task => Sys2Proof.Machine.execLaunchRetire task s
  | .taskComplete task => Sys2Proof.Machine.execTaskComplete task s
  | .eventPost die queue => Sys2Proof.Machine.execEventPost die queue s
  | .gstartWrite die val => Sys2Proof.Machine.execGstartWrite die val s
  | .gexitWrite die val => Sys2Proof.Machine.execGexitWrite die val s
  | .vdcfgWrite die vdev val => Sys2Proof.Machine.execVdcfgWrite die vdev val s
  | .switchTick => Sys2Proof.Machine.execSwitchTick s
  | .partitionChoose part => Sys2Proof.Machine.execPartitionChoose part s
  | .switchCommit part => Sys2Proof.Machine.execSwitchCommit part s
  | .switchDeadlineMiss part dies => Sys2Proof.Machine.execSwitchDeadlineMiss part dies s
  | .preqWrite die val => Sys2Proof.Machine.execPreqWrite die val s
  | .drainTimeout team => Sys2Proof.Machine.execDrainTimeout team s
  | .tevpostWrite die val => Sys2Proof.Machine.execTevpostWrite die val s
  | .tinvcGo die val => Sys2Proof.Machine.execTinvcGo die val s
  | .tinvcDone die => Sys2Proof.Machine.execTinvcDone die s
  | .hsmapWrite die reg val => Sys2Proof.Machine.execHsmapWrite die reg val s
  | .hsmapApply die chunk => Sys2Proof.Machine.execHsmapApply die chunk s
  | .cisternWrite die val => Sys2Proof.Machine.execCisternWrite die val s
  | .galctlWopenWrite die val => Sys2Proof.Machine.execGalctlWopenWrite die val s
  | .galleryOpen die => Sys2Proof.Machine.execGalleryOpen die s
  | .galleryClose die => Sys2Proof.Machine.execGalleryClose die s
  | .galleryRefresh die group => Sys2Proof.Machine.execGalleryRefresh die group s
  | .pageWalk vdev region off write => Sys2Proof.Machine.execPageWalk vdev region off write s
  | .translationFault die => Sys2Proof.Machine.execTranslationFault die s
  | .fresumeReplay die slot => Sys2Proof.Machine.execFresumeReplay die slot s
  | .fresumeTrap die slot => Sys2Proof.Machine.execFresumeTrap die slot s
  | .fresumeRollback die slot => Sys2Proof.Machine.execFresumeRollback die slot s
  | .spillEvict team warp => Sys2Proof.Machine.execSpillEvict team warp s
  | .meetRelease team warp addr => Sys2Proof.Machine.execMeetRelease team warp addr s
  | .rillRecall ctx => Sys2Proof.Machine.execRillRecall ctx s
  | .rillArrive ctx => Sys2Proof.Machine.execRillArrive ctx s
  | .rejoinTimeout team warp addr => Sys2Proof.Machine.execRejoinTimeout team warp addr s
  | .trapDispatch team warp entry => Sys2Proof.Machine.execTrapDispatch team warp entry s
  | .lineRefetch team warp entry => Sys2Proof.Machine.execLineRefetch team warp entry s
  | .machineCheck task kind site => Sys2Proof.Machine.execMachineCheck task kind site s
  | .launchRollback task => Sys2Proof.Machine.execLaunchRollback task s
  | .snapshot task page => Sys2Proof.Machine.execSnapshot task page s
  | .copyChunkDone team num ctx => Sys2Proof.Machine.execCopyChunkDone team num ctx s
  | .matrixGrant cluster unit => Sys2Proof.Machine.execMatrixGrant cluster unit s
  | .matrixOpComplete cluster unit => Sys2Proof.Machine.execMatrixOpComplete cluster unit s
  | .batchComplete team tile => Sys2Proof.Machine.execBatchComplete team tile s
  | .nsigComplete cons => Sys2Proof.Machine.execNsigComplete cons s
  | .updateStart cons => Sys2Proof.Machine.execUpdateStart cons s
  | .undoLogWrite cons => Sys2Proof.Machine.execUndoLogWrite cons s
  | .updateRollback task => Sys2Proof.Machine.execUpdateRollback task s
  | .stepAbort => Sys2Proof.Machine.execStepAbort s
  | .journalWrite sector => Sys2Proof.Machine.execJournalWrite sector s
  | .sealPoint vdev => Sys2Proof.Machine.execSealPoint vdev s
  | .dieReset die => Sys2Proof.Machine.execDieReset die s
  | .recover vdev => Sys2Proof.Machine.execRecover vdev s
  | .format vdev => Sys2Proof.Machine.execFormat vdev s
  | .quiesce vdev => Sys2Proof.Machine.execQuiesce vdev s
  | .resumeFrozen vdev => Sys2Proof.Machine.execResumeFrozen vdev s
  | .restoreImage vdev => Sys2Proof.Machine.execRestoreImage vdev s
  | .flitSend link flit => Sys2Proof.Machine.execFlitSend link flit s
  | .flitReceive link good => Sys2Proof.Machine.execFlitReceive link good s
  | .replayTimeout link => Sys2Proof.Machine.execReplayTimeout link s
  | .edgeRetrain edge => Sys2Proof.Machine.execEdgeRetrain edge s
  | .retrainComplete edge good => Sys2Proof.Machine.execRetrainComplete edge good s
  | .hdmDecoderWrite dec base size => Sys2Proof.Machine.execHdmDecoderWrite dec base size s
  | .cxlMemWrite pa data => Sys2Proof.Machine.execCxlMemWrite pa data s
  | .cxlMemRead pa len => Sys2Proof.Machine.execCxlMemRead pa len s
  | .cxlCompletion id => Sys2Proof.Machine.execCxlCompletion id s
  | .cxlLinkError ids => Sys2Proof.Machine.execCxlLinkError ids s
  | .rhawinRetrain port good => Sys2Proof.Machine.execRhawinRetrain port good s
  | .rhawinInbound port peer num pa data => Sys2Proof.Machine.execRhawinInbound port peer num pa data s
  | .bind die vdev obj rec report attest => Sys2Proof.Machine.execBind die vdev obj rec report attest s
  | .powerOn => Sys2Proof.Machine.execPowerOn s
  | .powerEval power temp => Sys2Proof.Machine.execPowerEval power temp s
  | .yieldExpire team warp entry => Sys2Proof.Machine.execYieldExpire team warp entry s
  | .pauseExpire team warp entry => Sys2Proof.Machine.execPauseExpire team warp entry s
  | .packagePowerLoss => Sys2Proof.Machine.execPackagePowerLoss s
  | .guestRequestSaveDone task => Sys2Proof.Machine.execGuestRequestSaveDone task s
  | .quiesceImageWritten vdev => Sys2Proof.Machine.execQuiesceImageWritten vdev s
  | .accessPerformedAtHome index => Sys2Proof.Machine.execAccessPerformedAtHome index s
  | .hostSnoop line => Sys2Proof.Machine.execHostSnoop line s

end Sys2Proof.Machine
end

