-- ==== Sys2Proof/Machine/Issue.lean ====
section
/-! DEFINITION. Issue of one unit: a warp's path (spec/06 R118 to R141; spec/07 R149 to R165), a rill thread (R162, R163), a conservator (spec/20 R387, R391) and a curator's firmware (spec/05 R114). -/

namespace Sys2Proof.Machine

open Sys2Proof

/-! One unit (R125, R134 to R136). -/

/-- The issuer stands at a unit. -/
def State.atUnit (s : State) (a : Agent) (pc : W64) (handler : Bool) (age : Nat) : State :=
  { s with cur := { agent := a, upc := pc, ipc := pc, npc := pcNext pc 1, handler := handler, age := age } }
/-- A line that may not be issued: malformed, or of another kind than the issuing code's (R121, R122). -/
def lineUnfit (line : List Byte) (handler : Bool) : Bool := lineMalformed line || lineKind (lineWord line) != b2n handler
/-- An encoding trap at slot k of the unit's line (R141). -/
def State.slotTrap (s : State) (cause k : Nat) (ts : List Nat) : State := s.trapWith cause (BitVec.ofNat 64 (pcLine s.cur.upc + k)) 0 (maskOf ts)
/-- Open windows of a thread of the issuer. -/
def State.lookOf (s : State) (t : Nat) : List LookWin :=
  match s.cur.agent with
  | .rill c => (s.rill c).look
  | .warp k w _ => Cells.get [] (s.warp k w).look t
  | _ => []
/-- Windows of a thread after a unit: an ejected thread has none (R135). -/
def State.setLook (s : State) (t : Nat) (l : List LookWin) : State :=
  match s.cur.agent with
  | .rill c => if (s.rill c).used then s.modRill c fun r => { r with look := l } else s
  | .warp k w _ => s.modWarp k w fun x => { x with look := Cells.set [] x.look t (match (x.thread t).st with | .away | .exited => [] | _ => l) }
  | _ => s
/-- The instruction of slot k executed. -/
def State.runSlot (s : State) (k : Nat) (i : Instr) : Out := exec i { s with cur := { s.cur with ipc := BitVec.ofNat 64 (pcLine s.cur.upc + k) } }
/-- The registers both slots of a pair read (R125). -/
def State.withShadow (s : State) : State :=
  match s.cur.agent with
  | .rill c => { s with cur := { s.cur with shadow := some s.cw, rshadow := some (s.rill c) } }
  | _ => { s with cur := { s.cur with shadow := some s.cw } }
/-- The lower slot executes first, unless it is a transfer, or the other alone accesses memory or the engine. -/
def lowerFirst (i j : Instr) : Bool :=
  let unit (k : IssueKind) : Bool := k == .mem || k == .mtx
  issueKind i != .ctl && (issueKind j == .ctl || unit (issueKind i) || !unit (issueKind j))
/-- A pair (R125): where a slot stops, neither has its effect. -/
def State.runPair (s : State) (k : Nat) (i j : Instr) : Out :=
  let s := s.withShadow
  let (ka, a, kb, b) := if lowerFirst i j then (k, i, k + 1, j) else (k + 1, j, k, i)
  match s.runSlot ka a with
  | .next s1 =>
    if s1.cur.stop then .next s1
    else
      (match s1.runSlot kb b with
       | .next s2 =>
         if s2.cur.stop then (match s.runSlot kb b with | .next s3 => .next (if s3.cur.stop then s3 else { s with cur := { s.cur with stop := true } }) | o => o)
         else .next s2
       | o => o)
  | o => o
/-- A sound unit executed, prefixes first (R136). -/
def State.runUnit (s : State) (k : Nat) (i : Instr) (second : Option Instr) (cl : Option (Nat × Nat × Nat)) (rg : Option Spec) : Out :=
  let s := match cl with | some (a, b, c) => s.then_ (exec (.pfxCl (BitVec.ofNat 6 a) (BitVec.ofNat 6 b) (BitVec.ofNat 6 c))) | none => s
  let s := match rg with | some r => s.then_ (exec (.pfxRg r)) | none => s
  match second with
  | none => s.runSlot k i
  | some j => s.runPair k i j
/-- Windows open and count after a unit that took effect. -/
def State.lookStep (s : State) (old : List (Nat × List LookWin)) (i : Instr) (second : Option Instr) : State :=
  old.foldl (fun s x => s.setLook x.1 (match i with | .eret _ => [] | _ => lookAfter x.2 i second)) s
/-- A unit of a line that passed LINEPAR: the checks in R141's order, then the effect. -/
def State.issueLine (s : State) (line : List Byte) : Out :=
  let ts := s.pathThreads
  if lineUnfit line s.cur.handler then .next (s.slotTrap 1 (s.cur.upc.toNat % 8) ts)
  else
    let s := { s with cur := { s.cur with npc := unitNext line s.cur.upc } }
    match readUnit line (s.cur.upc.toNat % 8) with
    | .bad c k => .next (s.slotTrap c k ts)
    | .ok k i second cl rg =>
      let old := ts.map fun t => (t, s.lookOf t)
      let bad := old.filterMap fun x => (lookBad x.2 i second rg).map fun n => (x.1, n)
      match bad with
      | (_, n) :: _ => .next (s.slotTrap 7 (k + n) (bad.map Prod.fst))
      | [] =>
        match s.runUnit k i second cl rg with
        | .next t => .next (if t.cur.stop then t else t.lookStep old i second)
        | o => o

/-! A path of a warp. -/

/-- The oldest pending trap of a path's threads, with the threads that hold it (R165). -/
def Warp.pendTrap (w : Warp) (e : Nat) : Option Trap :=
  let ts := maskList (w.entry e).mask
  match ts.findSome? fun t => (w.thread t).pend with
  | none => none
  | some p => some { p with mask := maskOf (ts.filter fun t => match (w.thread t).pend with | some q => q.cause == p.cause | none => false) }
/-- The issue of a path: parking (R157), a pending trap (R165), the line's fetch (R118, R253) and parity (R120, R351), then the unit. -/
def State.issuePath (s : State) (k w e : Nat) : Out :=
  let x := s.warp k w
  let p := x.entry e
  let s := s.modWarp k w fun x => x.parkPath e
  let q := (s.warp k w).entry e
  if !q.valid || q.pc != p.pc || q.mask &&& p.mask == 0 then .next s
  else
    let s := (s.atUnit (.warp k w e) p.pc (x.isHandlerPath e) p.age).modWarp k w fun x => x.modEntry e fun p => { p with age := 0 }
    match (s.warp k w).pendTrap e with
    | some t =>
      let s := s.modWarp k w fun x => x.modThreads (maskList t.mask) fun th => { th with pend := none }
      .next (s.takeTrap k w e s.cur.handler t)
    | none =>
      match s.cLine p.pc with
      | .error f => s.fetchFault f p.pc
      | .ok (line, pte) =>
        if !lineParityOk line then .next (s.modWarp k w fun x => x.modEntry e fun q => { q with refetched := true, age := p.age })
        else (s.cMark pte false).issueLine line

/-! A rill thread (R162 to R166). -/

/-- The issue of a rill context: arrival and recall first, then the unit. A second parity mismatch is a machine check (R351). -/
def State.issueRill (s : State) (c : Nat) : Out :=
  let r := s.rill c
  if s.arrives c then execRillArrive c s
  else if s.rillRecalls c then execRillRecall c s
  else
    let s := s.atUnit (.rill c) r.pc false 0
    match s.cLine r.pc with
    | .error f => s.fetchFault f r.pc
    | .ok (line, pte) =>
      if !lineParityOk line then
        .next (if r.refetched then s.teamCheck r.team 3 else s.modRill c fun r => { r with refetched := true })
      else ((s.cMark pte false).modRill c fun r => { r with refetched := false }).issueLine line

/-! Conservators and curators. -/

/-- The issue of a conservator: CONS.PC outside the code, CONS.ILL for what does not decode (R387, R391). -/
def State.issueCons (s : State) (c : Nat) : Out :=
  let s := { s with cur := { agent := .cons c } }
  let x := s.cons c
  match x.task with
  | none => .next s
  | some k =>
    if (s.task k).upd.code.length ≤ x.pc then .next (s.consFault 0x316)
    else match decodeCons (Cells.get 0 x.store x.pc).toNat with
      | .ok i => exec i s
      | .error _ => .next (s.consFault 0x314)
/-- An instruction of a curator's firmware; a die that is held in reset runs none (R444). -/
def State.issueFirmware (s : State) (d : Nat) (i : Instr) : Out := if (s.die d).inReset then .next s else exec i (s.atUnit (.curator d) (s.die d).cur.pc false 0)

/-- Guest code of a curator: its line is fetched, and its unit runs, through the guest's page table (R114). A line that cannot be read or a unit that is not sound leaves the curator where it stands (log 91). -/
def State.issueGuest (s : State) (d : Nat) : Out :=
  match (if (s.die d).inReset then none else (s.die d).cur.guest) with
  | none => .next s
  | some v =>
    let pc := (s.die d).cur.pc
    match s.translate v (pcLine pc) false true with
    | .error _ => .next s
    | .ok (pa, pte) =>
      let line := readBytes s.mem pa 64
      if !s.partReaches d pa || s.poisoned pa || s.poisoned (pa + 32) || !lineParityOk line || lineUnfit line false then .next s
      else match readUnit line (pc.toNat % 8) with
        | .bad _ _ => .next s
        | .ok k i second cl rg =>
          let s := (s.markFrom d pte false).atUnit (.curator d) pc false 0
          ({ s with cur := { s.cur with npc := unitNext line pc } }).runUnit k i second cl rg

/-! Readiness (R149). -/

/-- The warp's first write that is not performed can be (R374). -/
def State.pendGo (s : State) (k w : Nat) : Bool :=
  match s.pend.find? fun p => p.ask.isNone && p.team == k && p.warp == w with | some p => s.pendReady p | none => true
/-- A path's wait at a SYNCM is over: a thread completes, or a member has parked (R337, R171). -/
def Warp.syncOver (w : Warp) (e : Nat) : Bool :=
  let p := w.entry e
  (maskList p.mask).any fun t =>
    match (w.thread t).sync with
    | some (a, m, seen) => w.syncDone a t || (w.thread t).syncPk.isSome || (w.syncParked m seen).isSome
    | none => true
/-- What a path waits for has come. -/
def State.holdOver (s : State) (k w e : Nat) : Hold → Bool
  | .none => true
  | .yieldTill _ | .pauseTill _ | .trap _ => false
  | .tl n num => decide (num ≤ ((s.team k).tlAt n).done.toNat)
  | .copyRoom n => decide (((s.team k).tlAt n).open_ < 16)
  | .rvPhase n ph => let r := (s.team k).rvAt n; !r.init || r.satisfied ph
  | .queue m n push x =>
    let q := (s.team m).chAt n
    !(s.team m).placed || !q.init ||
    (match (q.waiting push).filter (s.ticketLive m n push) with | [] => true | y :: _ => x == y && (if push then q.pushReady && s.pendGo k w else q.popReady))
  | .syncm => (s.warp k w).syncOver e
  | .chunk d c => Cells.get (16, 16) (s.die d).hsmapPend c == (16, 16)
  | .refresh n => decide (n ≤ s.ns.toNat)
  | .group g ph => decide (ph < (Cells.get {} (s.task (s.team k).task).launch.groups g).phase)
  | .mxRoom => s.mxRoom k
  | .malc x n =>
    let m := coreClus (s.team k).core
    decide (n ≤ (s.freeTiles m).length) && (match s.malcLine m with | [] => true | y :: _ => x == y)
  | .tileIdle l => l.all fun n => !(s.team k).granted n
  | .tevt m => (s.team k).tevt &&& m != 0
  | .rpoint n => (s.rp (s.team k).vdev).waitOver n (s.handleOf (s.team k).task).toNat
  | .durable => s.durable (s.team k).vdev
  | .noHandler => !(s.team k).warps.any fun w => w.2.handler.isSome
  | .snap => s.pendGo k w
  | .evicted => !(s.team k).anyEvicted || !(s.warp k w).othersRestore e
  | .asked => !s.asking k w (maskList ((s.warp k w).entry e).mask)
/-- A team issues: on its core, not halted, its tiles restored, every team of its gang placed, and its launch whole where it must be (R112, R244, R371). -/
def State.teamIssues (s : State) (k : Nat) : Bool :=
  let t := s.team k
  t.st == .resident && !t.halted && t.tileTicket.isNone && t.tilesDue.isEmpty && !s.peersAway k && (s.task t.task).launch.whole && !(s.task t.task).stopped
/-- A line's chunk is changing its mapping: a fetch of it waits (R240). -/
def State.lineBusy (s : State) (v : Nat) (pc : W64) : Bool := match s.translate v (pcLine pc) false true with | .ok (pa, _) => s.chunkBusy pa | .error _ => false
/-- A path is ready (R149): one of a warp in handler code is when it is a handler path (R348). -/
def State.pathReady (s : State) (k w e : Nat) : Bool :=
  let x := s.warp k w
  let p := x.entry e
  p.valid && x.present && !x.ended && x.fault.isNone && !p.refetched && s.teamIssues k && !s.wantsBank k w
    && (x.handler.isNone || x.isHandlerPath e) && s.holdOver k w e p.hold && !s.lineBusy (s.team k).vdev p.pc
/-- A rill context is ready; it runs on while its warp is in handler code (R348). -/
def State.rillReady (s : State) (c : Nat) : Bool :=
  let r := s.rill c
  r.runs && s.teamIssues r.team && (if r.hold == .asked then !s.asking r.team r.warp [r.thread] else s.holdOver r.team r.warp 0 r.hold) && !s.lineBusy (s.team r.team).vdev r.pc
/-- A window of an update lies in a chunk that changes its mapping: its accesses wait (R240). -/
def State.winBusy (s : State) (w : Win) : Bool :=
  w.used && (List.range ((w.pa % 2 ^ 30 + w.len + 2 ^ 30 - 1) / 2 ^ 30)).any fun i => s.chunkBusy (w.pa / 2 ^ 30 * 2 ^ 30 + i * 2 ^ 30)
/-- A conservator is ready. -/
def State.consReady (s : State) (c : Nat) : Bool :=
  let x := s.cons c
  match x.task with
  | none => false
  | some k => x.pendUndo.isEmpty && !(s.die (c / 32)).inReset && (s.task k).upd.faulted.isNone && !(s.task k).upd.finished && !(s.task k).upd.win.any s.winBusy && !(s.task k).stopped && !(s.vdev (s.task k).vdev).frozen
/-- An agent is ready to issue. -/
def State.ready (s : State) : Agent → Bool
  | .warp k w e => s.pathReady k w e
  | .rill c => s.rillReady c
  | .cons c => s.consReady c
  | .curator d => (s.die d).cur.guest.isSome
  | _ => false
/-- The issue of an agent. -/
def State.issue (s : State) : Agent → Out
  | .warp k w e => s.issuePath k w e
  | .rill c => s.issueRill c
  | .cons c => s.issueCons c
  | .curator d => s.issueGuest d
  | _ => .next s

end Sys2Proof.Machine
end

