-- ==== Sys2Proof/Machine/Schedule.lean ====
section
/-! DEFINITION. What the part does next: the agenda, the part's own steps in a fixed order, and the choice among ready agents (spec/07 R149, R154, R155); what passes with a step (log 1, log 4). -/

namespace Sys2Proof.Machine

open Sys2Proof

/-! The part's own steps that are due. Each list names candidates; one is taken when it changes the state. -/

/-- Event rings, with room for a held event (R107). -/
def State.dueRings (s : State) : List Instr :=
  s.dies.flatMap fun d => d.2.queues.filterMap fun q => if !q.2.held.isEmpty && q.2.room then some (.eventPost d.1 q.1) else none
/-- Commands of RPCMD and QCTL (R425, R436, R439). -/
def State.dueCommands (s : State) : List Instr :=
  (s.rpoints.filterMap fun c => if !c.2.busy then none else if c.2.cmd = 1 then some (.recover c.1) else if c.2.cmd = 2 then some (.format c.1) else none)
  ++ (if !s.qctl.getLsbD 7 then [] else
      let v := s.qctl.toNat % 16
      match bits s.qctl.toNat 5 4 with
      | 1 => [if (s.vdev v).frozen && (s.placedOf v).isEmpty then .quiesceImageWritten v else .quiesce v]
      | 2 => [.resumeFrozen v]
      | _ => [.restoreImage v])
/-- Invalidations, mappings and galleries (R240, R242, R249). -/
def State.dueHomes (s : State) : List Instr :=
  s.dies.flatMap fun d =>
    (if d.2.tinvGo then [.tinvcDone d.1] else []) ++ ((Cells.keys d.2.hsmapPend).map fun c => .hsmapApply d.1 c)
    ++ (if s.galOpens d.1 then [.galleryOpen d.1] else []) ++ (if d.2.galOpen && !d.2.galWopen then [.galleryClose d.1] else [])
/-- Fault slots (R253). -/
def State.dueFaults (s : State) : List Instr := s.dies.filterMap fun d => if !d.2.faultQ.isEmpty && d.2.freeSlot.isSome then some (.translationFault d.1) else none
/-- The units of an engine. -/
def mxUnits : List MxUnit := [.array, .conversion, .tile]
/-- Clusters with batches or a busy engine. -/
def State.mxClusters (s : State) : List Nat :=
  (Cells.keys s.engines ++ (s.teams.filterMap fun c => if c.2.batch.isEmpty then none else some (coreClus c.2.core))).eraseDups
/-- Engines: operations, completions, grants (R286, R287, R298). -/
def State.dueEngines (s : State) : List Instr :=
  (s.engines.flatMap fun e => mxUnits.filterMap fun u => if (e.2.running u).isSome then some (.matrixOpComplete e.1 u) else none)
  ++ (s.teams.flatMap fun t => t.2.batch.filterMap fun b => if b.done then some (.batchComplete t.1 b.tile) else none)
  ++ (s.mxClusters.flatMap fun m => mxUnits.filterMap fun u => if s.unitFree m u && (s.grantChoice m u).isSome then some (.matrixGrant m u) else none)
/-- Copies and markers (R275, R279). -/
def State.dueCopies (s : State) : List Instr :=
  s.teams.flatMap fun t => if t.2.acts && !s.peersAway t.1 then t.2.copies.filterMap fun c => if c.stopped then none else some (.copyChunkDone t.1 c.num c.tl) else []
/-- Conservators and their logs (R385, R392, R395, R397, R398). -/
def State.dueCons (s : State) : List Instr :=
  (s.conss.flatMap fun c =>
    (if c.2.pendSig.isEmpty then [] else [.nsigComplete c.1])
    ++ (match c.2.pendUndo with | x :: _ => if (s.stk (sectorStack x)).ulRoom then [.undoLogWrite c.1] else [] | [] => []))
  ++ (s.tasks.flatMap fun t =>
    (if t.2.upd.faulted.isSome && t.2.st == .running && !t.2.stopped then [.updateRollback t.1] else [])
    ++ (if t.2.trec.kind == 2 && t.2.st == .dispatched && (s.cons t.2.upd.cons).task.isNone && (match s.consQueue t.2.upd.cons with | k :: _ => s.startRoom t.2.upd.cons k | [] => false)
        then [.updateStart t.2.upd.cons] else []))
  ++ (if s.stepAbt.getLsbD 32 then [.stepAbort] else [])
/-- Accesses to perform at their homes (R309). -/
def State.dueAccess (s : State) : List Instr := (List.range s.pend.length).map fun i => .accessPerformedAtHome i
/-- Virtual devices in which a release waits to be durable (R319, R423). -/
def State.durableWaits (s : State) : List Nat :=
  ((s.teams.filterMap fun t =>
      if t.2.copies.any (fun c => c.kind == .marker && c.scope == 5) || t.2.warps.any (fun w => w.2.holds.contains .durable) then some t.2.vdev else none)
    ++ s.rills.filterMap fun r => if r.2.hold == .durable then some (s.team r.2.team).vdev else none).eraseDups
/-- Journal lines that a release waits for, and seals (R423, R430). -/
def State.dueJournal (s : State) : List Instr :=
  (s.durableWaits.flatMap fun v => (s.unjournalled v).map fun x => .journalWrite x)
  ++ (s.rpoints.filterMap fun c => if s.sealReady c.1 then some (.sealPoint c.1) else none)
/-- Steps of a path entry. -/
def State.duePath (s : State) (k w e : Nat) (p : Path) : List Instr :=
  if !p.valid then []
  else
    (if p.refetched then [.lineRefetch k w e] else [])
    ++ (match p.hold with
        | .trap _ => [.trapDispatch k w e]
        | .yieldTill c => if c ≤ s.cyc then [.yieldExpire k w e] else []
        | .pauseTill c => if c ≤ s.cyc then [.pauseExpire k w e] else []
        | _ => [])
/-- Steps of a warp: spills, releases, timeouts, banks (R155, R158, R167, R348). -/
def State.dueWarp (s : State) (k w : Nat) (x : Warp) : List Instr :=
  let at_ := ((x.inSt .parked).map fun t => (x.thread t).pc).eraseDups
  (if x.evictDue then [.spillEvict k w] else [])
  ++ (at_.flatMap fun a => (if x.releasable a then [.meetRelease k w a] else []) ++ (if x.timerDue a s.cyc then [.rejoinTimeout k w a] else []))
  ++ (if s.wantsBank k w then [.trapDispatch k w 0] else [])
  ++ x.path.flatMap fun p => s.duePath k w p.1 p.2
/-- Steps of warps and rill threads (R163, R166). -/
def State.dueWarps (s : State) : List Instr :=
  (s.teams.flatMap fun t => if t.2.acts then t.2.warps.flatMap fun w => s.dueWarp t.1 w.1 w.2 else [])
  ++ s.rills.flatMap fun r => if !(s.team r.2.team).acts then [] else if s.arrives r.1 then [.rillArrive r.1] else if r.2.runs && s.rillRecalls r.1 then [.rillRecall r.1] else []
/-- Stopping launches, guest requests and drains (R363, R364, R373). -/
def State.dueSaves (s : State) : List Instr :=
  (s.tasks.filterMap fun t => if t.2.launch.stopping.isSome && s.launchQuiet t.1 then some (.launchRollback t.1) else none)
  ++ (s.tasks.filterMap fun t => if t.2.launch.preq then some (.guestRequestSaveDone t.1) else none)
  ++ s.teams.filterMap fun t => match t.2.draining with | some (n + 1) => if n + 1 ≤ s.cyc then some (.drainTimeout t.1) else none | _ => none
/-- Retirement and completion (R103, R416, R417). -/
def State.dueRetire (s : State) : List Instr :=
  (s.teams.filterMap fun t => if t.2.st == .ended then some (.gangRetire t.2.task t.2.gang) else none)
  ++ s.tasks.flatMap fun t => match t.2.st with
    | .running => if t.2.trec.kind == 2 then (if t.2.upd.finished then [.taskComplete t.1] else []) else [.launchRetire t.1]
    | .retired | .complete => [.taskComplete t.1]
    | _ => []
/-- Slices (R115, R366, R367). -/
def State.dueSlices (s : State) : List Instr :=
  ((List.range 8).flatMap fun p =>
    let x := s.part p
    if x.switching.isSome then [.switchCommit p] ++ (if !x.missed.isEmpty || decide (x.deadline ≤ s.ns.toNat) then [.switchDeadlineMiss p []] else [])
    else match x.holder with
      | some h => if s.runnable h || !(s.placedOf h).isEmpty then [] else [.partitionChoose p]
      | none => if (s.partRunnable p).isEmpty then [] else [.partitionChoose p])
  ++ (if s.nextTick ≤ s.ns.toNat then [.switchTick] else [])
/-- The evaluation of power and temperature, as measured where nothing imposes them (R451, log 118). -/
def State.duePower (s : State) : List Instr :=
  if s.nextEval ≤ s.ns.toNat then let m := Config.measured (s.nextEval / 10000); [.powerEval m.1 m.2] else []
/-- Dispatch, fetching and placement (R96, R108, R110). -/
def State.dueWork (s : State) : List Instr :=
  (s.opps.map fun c => .hwDispatch (c.1 / 16) (c.1 % 16))
  ++ (s.vdevs.flatMap fun v => if v.2.frozen then [] else v.2.lists.filterMap fun l => if l.2.en && !l.2.stalled && l.2.head != l.2.tail then some (.taskFetch v.1 l.1) else none)
  ++ s.tasks.filterMap fun t => if s.waitsPlace t.1 || (s.tilesServed t.1).isSome then some (.gangPlace t.1) else none
/-- Dammal links (R403, R404). -/
def State.dueLinks (s : State) : List Instr :=
  (s.links.flatMap fun l => (if s.replayDue l.1 then [.replayTimeout l.1] else []) ++ (if l.1 < 8 && !l.2.wire.isEmpty then [.flitReceive (otherEnd l.1) true] else []))
  ++ (List.range 4).filterMap fun e => let x := edgeEnds e; if 8 ≤ (s.link x.1).retries ∨ 8 ≤ (s.link x.2).retries then some (.edgeRetrain e) else none
/-- Completions of the oldest request at the CXL port (R411). -/
def State.dueCxl (s : State) : List Instr := match s.cxl.find? fun c => !c.answered with | some c => [.cxlCompletion c.id] | none => []
/-- A step of the part outside any agent's issue. -/
def State.runEvent (s : State) (i : Instr) : Out := exec i { s with cur := {} }
/-- A candidate that changes the state. -/
def State.effective (s : State) (i : Instr) : Bool := decide (outState (s.runEvent i) s ≠ { s with cur := {} })
/-- The part's next own step, in a fixed order of kinds (log 1). -/
def State.nextEvent (s : State) : Option Instr :=
  [s.dueRings, s.dueCommands, s.dueHomes, s.dueFaults, s.dueEngines, s.dueCopies, s.dueCons, s.dueAccess, s.dueJournal, s.dueWarps, s.dueSaves, s.dueRetire,
    s.dueSlices, s.duePower, s.dueWork, s.dueLinks, s.dueCxl].findSome? fun l => l.find? s.effective

/-! What passes with a step (log 4). -/

/-- The spill AGE rises in each of n cycles in which spilled threads exist (R155). -/
def Warp.spillAges (w : Warp) (n : Nat) : Warp := if (w.inSt .spilled).isEmpty then w else { w with spillAge := min 0xFFFF (w.spillAge + n) }
/-- Rejoin timers whose condition now holds start, and spill AGEs rise by n (R155, R167). -/
def Team.passes (t : Team) (cyc n : Nat) : Team :=
  if t.acts then { t with warps := t.warps.map fun w => (w.1, (w.2.startTimers cyc).spillAges n) } else t
/-- Cycles counted while producers hold events of a full queue (R107). -/
def EvQueue.stalls (q : EvQueue) (n : Nat) : EvQueue := if q.en && !q.room && !q.held.isEmpty then { q with stall := q.stall + BitVec.ofNat 64 n } else q
/-- A conservator waits for room in a stack's undo ring: for a write, or to start its next update (R385, R395). -/
def State.ulWaits (s : State) (i : Nat) : Bool :=
  (!(s.stk i).ulRoom && s.conss.any fun c => match c.2.pendUndo with | x :: _ => sectorStack x == i | [] => false)
  || (List.range 16).any fun j => let c := 16 * i + j; (s.cons c).task.isNone && (match s.consQueue c with | k :: _ => !s.startRoom c k | [] => false)
/-- A stack's wait counts after n cyc, of which m conservator cycles at 0.9 GHz (R12, R393, R424). -/
def Stack.counts (k : Stack) (ul : Bool) (n m : Nat) : Stack :=
  { k with jrnWait := if k.jrnFull.isEmpty then k.jrnWait else k.jrnWait + BitVec.ofNat 32 n, ulWait := if ul then k.ulWait + BitVec.ofNat 32 m else k.ulWait }
/-- n cyc and t ns pass: timers start, and waits are counted. -/
def State.elapse (s : State) (n t : Nat) : State :=
  let s := { s with teams := s.teams.map fun (x : Nat × Team) => (x.1, x.2.passes s.cyc n) }
  let m := (s.ns.toNat + t) * 9 / 10 - s.ns.toNat * 9 / 10
  { s with
    cyc := s.cyc + n, ns := s.ns + BitVec.ofNat 64 t,
    dies := s.dies.map (fun d => (d.1, { d.2 with queues := d.2.queues.map fun q => (q.1, q.2.stalls n) })),
    stks := s.stks.map fun k => (k.1, k.2.counts (s.ulWaits k.1) n m) }
/-- What a step leaves behind. -/
def State.settle (s : State) : State := ({ s with cur := {}, tick := s.tick + 1 }).elapse (Config.elapsedCyc s.tick) (Config.elapsedNs s.tick)

/-! The choice among ready agents (R149, R154). -/

/-- Warps of a core in warp-slot order: teams by key, then WID (log 34). -/
def State.coreWarps (s : State) (c : Nat) : List (Nat × Nat) := (s.onCore c).flatMap fun k => (List.range (s.team k).wpt).map fun w => (k, w)
/-- Warps that issue slot i of a core serves. -/
def State.slotWarps (s : State) (c i : Nat) : List (Nat × Nat) :=
  let l := s.coreWarps c
  ((List.range l.length).filter fun n => n % 2 == i).map fun n => l.getD n (0, 0)
/-- Ready paths of an issue slot, in the order of ties: {team, warp, entry, AGE}. -/
def State.slotPaths (s : State) (c i : Nat) : List (Nat × Nat × Nat × Nat) :=
  (s.slotWarps c i).flatMap fun x => (List.range 8).filterMap fun e => if s.pathReady x.1 x.2 e then some (x.1, x.2, e, ((s.warp x.1 x.2).entry e).age) else none
/-- The path with the largest AGE, the first on ties. -/
def eldest (l : List (Nat × Nat × Nat × Nat)) : Option (Nat × Nat × Nat × Nat) :=
  l.foldl (fun b x => match b with | none => some x | some y => if y.2.2.2 < x.2.2.2 then some x else some y) none
/-- CHOOSE (R154): the path that the slot issued in the cyc before goes on while it is ready; one that waits on a result is not kept as such (log 34). -/
def State.choosePath (s : State) (c i : Nat) : Option (Nat × Nat × Nat) :=
  let l := s.slotPaths c i
  let drop (x : Nat × Nat × Nat × Nat) : Nat × Nat × Nat := (x.1, x.2.1, x.2.2.1)
  let last := if s.cyc ≤ Cells.get 0 s.slotCyc (2 * c + i) then Cells.get none s.lastIssue (2 * c + i) else none
  if l.any fun x => decide (ageMax ≤ x.2.2.2) then (eldest l).map drop
  else match l.find? fun x => some (drop x) == last with
    | some x => some (drop x)
    | none => (eldest l).map drop
/-- Cores with teams. -/
def State.busyCores (s : State) : List Nat := ((s.teams.filterMap fun t => if t.2.placed then some t.2.core else none)).eraseDups
/-- Agents that may issue now, keyed for the round: issue slots at 2 × core + slot, rill contexts from 1,024, conservators from 8,192. -/
def State.issuers (s : State) : List (Nat × Agent) :=
  sortOn Prod.fst
    ((s.busyCores.flatMap fun c => [0, 1].filterMap fun i => (s.choosePath c i).map fun x => (2 * c + i, Agent.warp x.1 x.2.1 x.2.2))
      ++ (s.rills.filterMap fun r => if s.rillReady r.1 then some (1024 + r.1, .rill r.1) else none)
      ++ s.conss.filterMap fun c => if s.consReady c.1 then some (8192 + c.1, .cons c.1) else none)
/-- The next agent of the round. -/
def State.nextIssuer (s : State) : Option (Nat × Agent) :=
  match s.issuers.find? fun x => decide (s.turn ≤ x.1) with
  | some x => some x
  | none => s.issuers.head?
/-- The issue slot that serves a warp. -/
def State.slotOf (s : State) (k w : Nat) : Nat := (s.coreWarps (s.team k).core).findIdx (fun x => x == (k, w)) % 2
/-- A unit leaves its path ready for the slot's next cyc: each slot writes no register, or opens a window past the unit (R134, R149). -/
def unitRunsOn (line : List Byte) (slot : Nat) : Bool :=
  let free (i : Instr) (m : Nat) : Bool := (instrRegs i).wr.isEmpty || !(lookOpen i m).isEmpty
  match readUnit line slot with
  | .ok _ i none _ _ => free i 0
  | .ok _ i (some j) _ _ => free i 1 && free j 0
  | .bad _ _ => false
/-- The unit at a path's PC leaves it ready. -/
def State.runsOn (s : State) (k w e : Nat) : Bool :=
  let t := s.team k
  let pc := ((s.warp k w).entry e).pc
  match s.readLine t.vdev (coreDie t.core) (corePort t.core) pc with | .ok (l, _) => unitRunsOn l (pc.toNat % 8) | .error _ => false
/-- Every thread of a path parks where it stands: the path issues nothing (R157). -/
def State.parksAway (s : State) (k w e : Nat) : Bool :=
  let p := (s.warp k w).entry e
  let q := ((s.warp k w).parkPath e).entry e
  !q.valid || q.pc != p.pc || q.mask &&& p.mask == 0
/-- AGE of a slot's ready paths that were not chosen rises (R154); a choice that stays ready is kept for the slot's next cyc. -/
def State.aged (s : State) (k w e : Nat) : State :=
  let c := (s.team k).core
  let i := s.slotOf k w
  let rest := (s.slotPaths c i).filter fun x => (x.1, x.2.1, x.2.2.1) != (k, w, e)
  let s := rest.foldl (fun s x => s.modWarp x.1 x.2.1 fun y => y.modEntry x.2.2.1 fun p => { p with age := min 0xFFFF (p.age + 1) }) s
  { s with lastIssue := Cells.set none s.lastIssue (2 * c + i) (if s.runsOn k w e then some (k, w, e) else none) }
/-- An issuer's key. -/
def State.issuerKey (s : State) : Agent → Option Nat
  | .warp k w _ => some (2 * (s.team k).core + s.slotOf k w)
  | .rill c => some (1024 + c)
  | .cons c => some (8192 + c)
  | _ => none
/-- An issuer issues once in a cyc: where it has issued in this one, the next begins (R149). -/
def State.nextCyc (s : State) (a : Agent) : State :=
  match s.issuerKey a with
  | none => s
  | some x =>
    let s := if s.cyc < Cells.get 0 s.slotCyc x then s.elapse (Cells.get 0 s.slotCyc x - s.cyc) 0 else s
    { s with slotCyc := Cells.set 0 s.slotCyc x (s.cyc + 1) }
/-- An agent that is ready issues; a path that parks away takes no issue of its slot (R157). -/
def State.runIssue (s : State) (a : Agent) : Out :=
  if !s.ready a then .next s
  else match a with
    | .warp k w e => if s.parksAway k w e then s.issue a else ((s.nextCyc a).aged k w e).issue a
    | _ => (s.nextCyc a).issue a

/-! One step. -/

/-- What a step does. -/
inductive Action
  | idle
  | ev (i : Instr)
  | issue (a : Agent)
  | firmware (die : Nat) (i : Instr)
  deriving DecidableEq, Repr
/-- An imposed action. -/
def Sched.action : Sched → Action | .ev i => .ev i | .issue a => .issue a | .firmware d i => .firmware d i
/-- The next action: what is imposed, then the part's own steps, then an issue (log 1). -/
def State.nextAction (s : State) : Action :=
  match s.agenda with
  | x :: _ => x.action
  | [] =>
    match s.nextEvent with
    | some i => .ev i
    | none => match s.nextIssuer with | some x => .issue x.2 | none => .idle
/-- The agenda without its head, and the round's next turn. -/
def State.begun (s : State) : State :=
  match s.agenda with
  | _ :: r => { s with agenda := r }
  | [] => (match s.nextEvent, s.nextIssuer with | none, some x => { s with turn := x.1 + 1 } | _, _ => s)
/-- The effect of an action. -/
def State.act (s : State) : Action → Out
  | .idle => .next s
  | .ev i => s.runEvent i
  | .issue a => s.runIssue a
  | .firmware d i => s.issueFirmware d i
/-- No clock runs: after THERMTRIP, or without package power, only the steps that restore or remove power are taken (R435, R451). -/
def State.clocksStopped (s : State) : Bool :=
  (s.powerLost || s.power.trip) && !(match s.nextAction with | .ev .powerOn => true | .ev .packagePowerLoss => true | _ => false)

end Sys2Proof.Machine
end

