-- ==== Sys2Proof/Machine/Fetch.lean ====
section
/-! DEFINITION. One instruction placed where the next step fetches it (log 35): a launch of one team on CORE.0, or an update on the first conservator, imposed as the next issue. -/

namespace Sys2Proof.Machine

open Sys2Proof

/-- The 64 bytes of an ordinary line (R118 to R120) with the slots given and TGT. -/
def lineOf (slots : List Nat) (tgt : Nat) : List Byte :=
  let b := (slots.flatMap fun w => leBytes 12 w) ++ leBytes 3 (tgt * 2 ^ 15)
  let par := (List.range 8).foldl (fun n i => n + b2n (parityBit b i) * 2 ^ i) 0
  b ++ leBytes 1 par
/-- What stands in the slot after: a prefix's target, or NOP. -/
def companion (w : Nat) : Nat :=
  let v : Spec := ⟨.v, 0⟩
  let g : Guard := ⟨false, 7⟩
  let nop : AForm := { look := 0, grd := g, cls := 0, dst := v, a := v, b := v, c := v, imm := 0, mu := false, mo := false, bi := false, x20 := false, ty := .i32, fn := 0 }
  let i : Instr :=
    if w / 2 ^ 88 % 256 = 0xF0 then .fma nop
    else if w / 2 ^ 88 % 256 = 0xF1 then
      .ld { look := 0, grd := g, cls := 0, dst := v, a := v, b := v, c := v, imm := 0, scope := .wp, order := .rlx, mu := false, mo := false, bi := false, iw := false, nv := 0, df := 0x84, rs := 4, retain := 0 }
    else .nop nop
  (encode i).getD 0
/-- Page table and line of the placed instruction: each table holds one entry, the leaf a 64 KiB page, readable, writable and executable, at PA 0x60000. -/
def placedMem (m : Cells Byte) (line : List Byte) : Cells Byte :=
  let m := (List.range 4).foldl (fun m i => writeBytes m (0x10000 * (i + 1)) (leBytes 8 (1 + 0x10000 * (i + 2)))) m
  writeBytes (writeBytes m 0x50000 (leBytes 8 (0x60000 + 0x183))) 0x60000 line
/-- The virtual device that runs the placed instruction. -/
def placedVdev : Vdev :=
  { cfgW := 0x0001000000000000, cfg := 0x0001000000000000, ptroot := 0x10001, saveSize := 0x1000000, snapBase := 0x1000000, snapSize := 0x1000000 }
/-- Its launch, as admission would leave it: one gang of one team of one warp. -/
def placedTask : Task :=
  { st := .running, gen := 1, trec := { kind := 1 },
    launch := { admitted := true, adm := { ngang := 1, tpg := 1, wpt := 1, scrk := 16, ejt := 0, rjt := 64, kernel := { maxw := 1, maxt := 1, scrk := 16 } }, nextGang := 1 } }
/-- The placed launch's code is a line at VA 0: its team stands at slot 0. -/
def State.placeLine (s : State) (line : List Byte) : State :=
  let s := { s with agenda := [.issue (.warp s.nextTeam 0 0)], mem := placedMem s.mem line, vdevs := Cells.set {} s.vdevs 0 placedVdev,
                    parts := Cells.set {} s.parts 0 { holder := some 0 }, tasks := Cells.set {} s.tasks 0 placedTask }
  s.newTeam 0 0 0 0
/-- A main-set instruction placed. -/
def State.placeMain (s : State) (w : Nat) : State :=
  let pre := isPrefixWord w
  let nop := companion 0
  s.placeLine (lineOf [w, companion w, nop, nop, nop] (if pre then 1 else 31))
/-- A conservator instruction placed: the running update of conservator 0, at its first instruction. -/
def State.placeCons (s : State) (w : Nat) : State :=
  let upd : Upd := { code := [BitVec.ofNat 64 w], started := true }
  { s with
    agenda := [.issue (.cons 0)], vdevs := Cells.set {} s.vdevs 0 placedVdev,
    tasks := Cells.set {} s.tasks 0 { st := .running, gen := 1, trec := { kind := 2 }, upd := upd },
    conss := Cells.set {} s.conss 0 { store := Cells.set 0 [] 0 (BitVec.ofNat 64 w), task := some 0 } }
/-- An instruction placed by the width of its word; a width of no set places nothing. -/
def State.placeWord (s : State) (nbits w : Nat) : State :=
  if nbits = 64 then s.placeCons (w % 2 ^ 64) else if nbits = 96 then s.placeMain (w % 2 ^ 96) else s

end Sys2Proof.Machine
end

