-- ==== Sys2Proof/Machine/Step.lean ====
section
/-! DEFINITION. One step of the part, and an instruction placed where the next step fetches it. -/

namespace Sys2Proof.Machine

open Sys2Proof

/-- One step: the next action's effect, then what passes with it. -/
def step (s : State) : Host.Outcome State Fault Refusal :=
  if s.clocksStopped then .fault .clocksStopped
  else
    match s.begun.act s.nextAction with
    | .next t => .next t.settle
    | o => o

/-- s with the instruction of a word stored where the next step fetches and runs it. -/
def State.withFetchWord (s : State) (nbits w : Nat) : State := s.placeWord nbits w

end Sys2Proof.Machine
end

