-- ==== Sys2Proof/Safety.lean ====
section
/-! DEFINITION. What counts as a safe run, and the notions that claims are stated in: what is read of a register from outside, and what an instruction leaves as it was. -/

namespace Sys2Proof

open Sys2Proof.Machine

/-- n steps from s all answer a next state. -/
def SafeRun : Nat → State → Prop
  | 0, _ => True
  | n + 1, s => ∃ t, step s = .next t ∧ SafeRun n t

end Sys2Proof

namespace Sys2Proof.Claims

open Sys2Proof Sys2Proof.Machine

/-! Who issues, and which threads a form executes in. -/

/-- The issuer executes a form itself: a path of a warp does, and a rill thread does unless the form is a .s form (R162, R163). -/
def Issues (s : State) (mu : Bool) : Prop :=
  (∃ k w e, s.cur.agent = .warp k w e) ∨ (mu = false ∧ ∃ c, s.cur.agent = .rill c)

/-- The threads in which a form executes: the active ones, or the lowest once for the path under MU (R150, R153). -/
def runsIn (s : State) (mu : Bool) (g : Guard) : List Nat := if mu then (if s.guardU g then [s.lowThread] else []) else s.active g

/-! Registers seen from outside. -/

/-- A register of the issuer: a v register, a predicate, an s or q register, VSTAT of a thread. -/
inductive Reg | v (t : Nat) (i : BitVec 6) | p (t : Nat) (i : BitVec 3) | s (i : Nat) | q (i : Nat) | vst (t : Nat)
  deriving DecidableEq, Repr

/-- What a register of the issuer's warp, or of the rill thread, holds. -/
def regVal (s : State) : Reg → W64 :=
  match s.cur.agent with
  | .warp k w _ => fun r => match r with
    | .v t i => (Cells.get 0 (s.warp k w).v (64 * t + i.toNat)).setWidth 64
    | .p t i => BitVec.ofNat 64 (b2n (Cells.get false (s.warp k w).p (8 * t + i.toNat)))
    | .s i => Cells.get 0 (s.warp k w).s i
    | .q i => BitVec.ofNat 64 (b2n (Cells.get false (s.warp k w).q i))
    | .vst t => ((s.warp k w).thread t).vstat.setWidth 64
  | .rill c => fun r => match r with
    | .v t i => if t = (s.rill c).thread then (Cells.get 0 (s.rill c).v i.toNat).setWidth 64 else 0
    | .p t i => if t = (s.rill c).thread then BitVec.ofNat 64 (b2n (Cells.get false (s.rill c).p i.toNat)) else 0
    | .s i => Cells.get 0 (s.rill c).s i
    | .q i => BitVec.ofNat 64 (b2n (Cells.get false (s.rill c).q i))
    | .vst t => if t = (s.rill c).thread then (s.rill c).vstat.setWidth 64 else 0
  | _ => fun _ => 0

/-- The registers a destination names in thread t. -/
def dstRegs (d : Spec) (t : Nat) (wide : Bool) : List Reg :=
  match d.file with
  | .v => if wide then [.v t d.idx, .v t (d.idx + 1)] else [.v t d.idx]
  | .s => [.s d.idx.toNat]
  | _ => []
/-- The register a predicate destination names in thread t. -/
def predReg (d : Spec) (t : Nat) : Reg := if d.idx.toNat < 8 then .p t (d.idx.setWidth 3) else .q (d.idx.toNat - 8)

/-- A destination register holds x in thread t: its low word in v, all 64 bits in d and s. -/
def holds (s : State) (d : Spec) (t : Nat) (wide : Bool) (x : W64) : Prop :=
  match d.file with
  | .v => regVal s (.v t d.idx) = (x.setWidth 32).setWidth 64 ∧ (wide = true → regVal s (.v t (d.idx + 1)) = (x >>> 32).setWidth 64)
  | .s => regVal s (.s d.idx.toNat) = x
  | _ => False

/-! What an instruction leaves as it was. -/

/-- Nothing changed but the issuing warp. -/
structure OnlyWarp (s t : State) (k w : Nat) : Prop where
  rest : t = { s with teams := t.teams }
  teams : ∀ j, j ≠ k → t.team j = s.team j
  team : t.team k = { s.team k with warps := (t.team k).warps }
  warps : ∀ j, j ≠ w → t.warp k j = s.warp k j
  mem : ∀ a, readByte t.mem a = readByte s.mem a

/-- A path moved to the unit at pc; of its warp nothing changed but registers that f names and VSTAT of threads that f names. -/
structure OnlyRegs (s t : State) (k w e : Nat) (pc : W64) (f : Reg → Prop) : Prop where
  others : OnlyWarp s t k w
  warp : t.warp k w = { s.warp k w with v := (t.warp k w).v, p := (t.warp k w).p, s := (t.warp k w).s, q := (t.warp k w).q, th := (t.warp k w).th, path := (t.warp k w).path }
  entry : (t.warp k w).entry e = { (s.warp k w).entry e with pc := pc, done := 0, hold := .none }
  entries : ∀ j, j ≠ e → (t.warp k w).entry j = (s.warp k w).entry j
  threads : ∀ j, (t.warp k w).thread j = { (s.warp k w).thread j with vstat := ((t.warp k w).thread j).vstat }
  regs : ∀ r, ¬ f r → regVal t r = regVal s r

/-- The same of a rill thread: no other context, and no warp. -/
structure OnlyRill (s t : State) (c : Nat) (pc : W64) (f : Reg → Prop) : Prop where
  rest : t = { s with rills := t.rills }
  others : ∀ j, j ≠ c → t.rill j = s.rill j
  rill : t.rill c = { s.rill c with v := (t.rill c).v, p := (t.rill c).p, s := (t.rill c).s, q := (t.rill c).q, vstat := (t.rill c).vstat, pc := pc, hold := .none }
  regs : ∀ r, ¬ f r → regVal t r = regVal s r
  mem : ∀ a, readByte t.mem a = readByte s.mem a

/-- The issuer moved to the unit at pc, and only registers that f names changed: memory, every other register, flag and unit is as before. -/
def MoveFrame (s t : State) (pc : W64) (f : Reg → Prop) : Prop :=
  match s.cur.agent with
  | .warp k w e => OnlyRegs s t k w e pc f
  | .rill c => OnlyRill s t c pc f
  | _ => False

/-- The issuer moved to the next unit, and only registers that f names changed. -/
def RegFrame (s t : State) (f : Reg → Prop) : Prop := MoveFrame s t s.cur.npc f

end Sys2Proof.Claims
end

