-- ==== Sys2Proof/Certificates/Slice0/Obligations.lean ====
section
/-! DEFINITION. The statements for the provers, each a Prop, and the tables of the spec they are stated with. -/

section

open Sys2Proof Sys2Proof.Machine Sys2Proof.Claims

namespace Sys2Proof.Claims

/-! Integer forms. -/

/-- The class A fields of an integer form that writes an integer result. -/
def intFields : Instr → Option AForm
  | .iadd f | .isub f | .imul f | .imulh f | .imad f | .imin f | .imax f | .iabs f | .ineg f | .iand f | .ior f | .ixor f | .inot f
  | .shl f | .shr f | .sar f | .rotl f | .popc f | .clz f | .brev f | .mov f | .movi f => some f
  | _ => none
/-- IMM as w bits: sign-extended for a signed type, zero-extended for an unsigned one (R193). -/
def immBits (w : Nat) (sg : Bool) (imm : BitVec 8) : BitVec w := if sg then imm.signExtend w else imm.setWidth w
/-- Operand a, b or c of an integer form as w bits (R192, R193). -/
def opBits (s : State) (t : Nat) (f : AForm) (sp : Spec) : BitVec f.ty.width := (s.rdReg t sp f.ty.wide).setWidth f.ty.width
/-- Operand b. -/
def opB (s : State) (t : Nat) (f : AForm) : BitVec f.ty.width := if f.bi then immBits f.ty.width f.ty.signed f.imm else opBits s t f f.b
/-- Shift count: bits 7 to 0 of operand b, unsigned (R195). -/
def opSh (s : State) (t : Nat) (f : AForm) : Nat := if f.bi then f.imm.toNat else ((s.rdReg t f.b f.ty.wide).setWidth 8).toNat
/-- The high half of a product of w-bit numbers. -/
def mulHigh (w : Nat) (sg : Bool) (a b : BitVec w) : BitVec w :=
  if sg then ((a.signExtend (2 * w) * b.signExtend (2 * w)) >>> w).setWidth w else ((a.setWidth (2 * w) * b.setWidth (2 * w)) >>> w).setWidth w
/-- The table of R195, with MOV and MOVI of R199, on w-bit words. -/
def r195 (w : Nat) (sg : Bool) (imm : BitVec 8) (a b c : BitVec w) (n : Nat) : Instr → BitVec w
  | .iadd _ => a + b
  | .isub _ => a - b
  | .imul _ => a * b
  | .imulh _ => mulHigh w sg a b
  | .imad _ => a * b + c
  | .imin _ => if (if sg then a.sle b else a.ule b) then a else b
  | .imax _ => if (if sg then a.sle b else a.ule b) then b else a
  | .iabs _ => if sg && a.msb then -a else a
  | .ineg _ => -a
  | .iand _ => a &&& b
  | .ior _ => a ||| b
  | .ixor _ => a ^^^ b
  | .inot _ => ~~~a
  | .shl _ => if n < w then a <<< n else 0
  | .shr _ => if n < w then a >>> n else 0
  | .sar _ => if n < w then a.sshiftRight n else if a.msb then BitVec.allOnes w else 0
  | .rotl _ => a.rotateLeft (n % w)
  | .popc _ => BitVec.ofNat w ((List.range w).countP fun i => a.getLsbD i)
  | .clz _ => BitVec.ofNat w (((List.range w).takeWhile fun i => !a.getLsbD (w - 1 - i)).length)
  | .brev _ => a.reverse
  | .movi _ => immBits w sg imm
  | _ => a
/-- A w-bit result extended by its type to 64 bits (R192). -/
def extendBy (ty : IType) (x : BitVec ty.width) : W64 := if ty.signed then x.signExtend 64 else x.setWidth 64

end Sys2Proof.Claims

/-- R195, R199 (MOV, MOVI) with R192 and R193: each integer form completes; the destination of every thread it executes in holds the table's result, reduced to w bits and extended by the type; and nothing else changes. -/
def Obligations.IntegerFormsGiveTheirResults : Prop :=
  ∀ i f s, intFields i = some f → i.wf = true → Issues s f.mu →
    ∃ t, exec i s = .next t
      ∧ (∀ u ∈ runsIn s f.mu f.grd,
          holds t f.dst u f.ty.wide
            (extendBy f.ty (r195 f.ty.width f.ty.signed f.imm (opBits s u f f.a) (opB s u f)
              (opBits s u f f.c) (opSh s u f) i)))
      ∧ RegFrame s t fun r => ∃ u ∈ runsIn s f.mu f.grd, r ∈ dstRegs f.dst u f.ty.wide

/-- R197: without .dz, or with no zero divisor, IDIV and IREM complete: division truncates toward zero and the remainder has the dividend's sign; a zero divisor gives all ones and the dividend; the most negative number over −1 gives itself and 0; nothing else changes. With .dz, a zero divisor in a thread in which the form executes raises DIVZ, cause 0x13, in exactly those threads (in the whole path under MU), and no register is written. -/
def Obligations.DivisionAndItsTrap : Prop :=
  (∀ i f s, (i = .idiv f ∨ i = .irem f) → i.wf = true → Issues s f.mu →
       (f.x20 = false ∨ ∀ u ∈ runsIn s f.mu f.grd, opB s u f ≠ 0) →
       ∃ t, exec i s = .next t
         ∧ (∀ u ∈ runsIn s f.mu f.grd,
             let a := opBits s u f f.a
             let b := opB s u f
             let quo := if b = 0 then BitVec.allOnes f.ty.width else if f.ty.signed then a.sdiv b else a.udiv b
             let rem := if b = 0 then a else if f.ty.signed then a.srem b else a.umod b
             holds t f.dst u f.ty.wide (extendBy f.ty (if i = .idiv f then quo else rem)))
         ∧ RegFrame s t fun r => ∃ u ∈ runsIn s f.mu f.grd, r ∈ dstRegs f.dst u f.ty.wide)
  ∧ (∀ i f s, (i = .idiv f ∨ i = .irem f) → Issues s f.mu → f.x20 = true →
       (runsIn s f.mu f.grd).any (fun u => opB s u f == 0) = true →
       exec i s = .next (s.trapWith 0x13 0 0
         (if f.mu then maskOf s.pathThreads
           else maskOf ((s.active f.grd).filter fun u => opB s u f == 0))))

namespace Sys2Proof.Claims

/-- pos and len of a field descriptor (R198). -/
def fieldPos (s : State) (u : Nat) (f : AForm) (d : Spec) : Nat := ((s.rdReg u d f.ty.wide).setWidth 8).toNat
/-- len, at most w. -/
def fieldLen (s : State) (u : Nat) (f : AForm) (d : Spec) : Nat := min ((s.rdReg u d f.ty.wide >>> 8).setWidth 8).toNat f.ty.width
/-- Bit j of a BFX result (R198): a field bit below len, above it the field's sign or 0; a position at or above w reads as A's sign or 0. -/
def bfxBit (w : Nat) (sg : Bool) (a : BitVec w) (pos len j : Nat) : Bool :=
  let field (i : Nat) : Bool := if pos + i < w then a.getLsbD (pos + i) else sg && a.msb
  if len = 0 then false else if j < len then field j else sg && field (len - 1)
/-- Bit j of a BFI result (R198). -/
def bfiBit (w : Nat) (a b : BitVec w) (pos len j : Nat) : Bool := if pos ≤ j ∧ j < pos + len then a.getLsbD (j - pos) else b.getLsbD j

end Sys2Proof.Claims

namespace Sys2Proof.Claims

/-- What ICMP compares, by FN (R199). -/
def cmpBits (w : Nat) (sg : Bool) (fn : Nat) (a b : BitVec w) : Bool :=
  let lt := if sg then a.slt b else a.ult b
  match fn with | 0 => a == b | 1 => a != b | 2 => lt | 3 => lt || a == b | 4 => !lt && a != b | _ => !lt

end Sys2Proof.Claims

/-- R198: BFX and BFI complete: every bit of the destination's w-bit result is the one R198 names, the result is extended by its type, and nothing else changes. R196: IADC adds with the carry predicate and IADC.sb subtracts with it; the destination holds the result modulo 2^w, and the predicate the carry or borrow out; nothing else changes. R199: ICMP and PLOG complete: the predicate they name holds the comparison by FN, or bit 4a + 2b + c of IMM; nothing else changes. -/
def Obligations.BitFieldCarryAndPredicateForms : Prop :=
  (∀ i f s, (i = .bfx f ∨ i = .bfi f) → i.wf = true → Issues s f.mu →
       ∃ t, exec i s = .next t
         ∧ (∀ u ∈ runsIn s f.mu f.grd, ∃ x : BitVec f.ty.width,
             holds t f.dst u f.ty.wide (extendBy f.ty x)
             ∧ ∀ j, j < f.ty.width → x.getLsbD j =
                 if i = .bfx f then
                   bfxBit f.ty.width f.ty.signed (opBits s u f f.a) (fieldPos s u f f.b) (fieldLen s u f f.b) j
                 else
                   bfiBit f.ty.width (opBits s u f f.a) (opBits s u f f.b) (fieldPos s u f f.c)
                     (fieldLen s u f f.c) j)
         ∧ RegFrame s t fun r => ∃ u ∈ runsIn s f.mu f.grd, r ∈ dstRegs f.dst u f.ty.wide)
  ∧ (∀ i f s, (i = .iadc f ∨ i = .iadcSb f) → i.wf = true → Issues s f.mu →
       ∃ t, exec i s = .next t
         ∧ (∀ u ∈ runsIn s f.mu f.grd,
             let a := (opBits s u f f.a).toNat
             let b := (opBits s u f f.b).toNat
             let c := (s.rdPred u f.c).toNat
             holds t f.dst u f.ty.wide
               (BitVec.ofNat 64 ((if i = .iadc f then a + b + c else a + 2 ^ f.ty.width * 2 - b - c) % 2 ^ f.ty.width))
             ∧ regVal t (predReg f.c u) =
                 BitVec.ofNat 64 (if i = .iadc f then (if 2 ^ f.ty.width ≤ a + b + c then 1 else 0) else (if a < b + c then 1 else 0)))
         ∧ RegFrame s t fun r =>
             ∃ u ∈ runsIn s f.mu f.grd, r ∈ dstRegs f.dst u f.ty.wide ∨ r = predReg f.c u)
  ∧ (∀ i f s, (i = .icmp f ∨ i = .plog f) → i.wf = true → Issues s f.mu →
       ∃ t, exec i s = .next t
         ∧ (∀ u ∈ runsIn s f.mu f.grd,
             regVal t (predReg f.dst u) = BitVec.ofNat 64 (Bool.toNat
               (if i = .icmp f then
                 cmpBits f.ty.width f.ty.signed f.fn.toNat (opBits s u f f.a) (opB s u f)
               else f.imm.getLsbD (4 * (s.rdPred u f.a).toNat + 2 * (s.rdPred u f.b).toNat + (s.rdPred u f.c).toNat))))
         ∧ RegFrame s t fun r => ∃ u ∈ runsIn s f.mu f.grd, r = predReg f.dst u)

/-- R199: SEL, LEA, MOVK, PMOV.pk and PMOV.up complete. SEL gives A or B by predicate c; LEA gives A + B × 2^IMM modulo 2^64; MOVK replaces one byte of the destination; PMOV packs the predicates into a word or unpacks a word into them; nothing else changes. R199: UNI gives its s destination operand A of the lowest active thread, UNI.eq its q destination whether all active threads hold the same bits; with no active thread neither writes; UNI runs on the rill, where it writes the thread's snapshot. -/
def Obligations.SelectAddressByteAndUniformForms : Prop :=
  (∀ s : State,
     (∀ f, (Instr.sel f).wf = true → Issues s f.mu →
       ∃ t, exec (.sel f) s = .next t
         ∧ (∀ u ∈ runsIn s f.mu f.grd, holds t f.dst u f.ty.wide
             (extendBy f.ty (if s.rdPred u f.c then opBits s u f f.a else opBits s u f f.b)))
         ∧ RegFrame s t fun r => ∃ u ∈ runsIn s f.mu f.grd, r ∈ dstRegs f.dst u f.ty.wide)
     ∧ (∀ f, (Instr.lea f).wf = true → Issues s f.mu →
       ∃ t, exec (.lea f) s = .next t
         ∧ (∀ u ∈ runsIn s f.mu f.grd, holds t f.dst u true
             (s.rdReg u f.a true + (extendBy f.ty (opBits s u f f.b)) <<< f.imm.toNat))
         ∧ RegFrame s t fun r => ∃ u ∈ runsIn s f.mu f.grd, r ∈ dstRegs f.dst u true)
     ∧ (∀ lane f, (Instr.movk lane f).wf = true → Issues s f.mu →
       ∃ t, exec (.movk lane f) s = .next t
         ∧ (∀ u ∈ runsIn s f.mu f.grd, holds t f.dst u f.ty.wide
             ((s.rdReg u f.dst f.ty.wide &&& ~~~((0xFF : Sys2Proof.W64) <<< (8 * lane.toNat))) ||| (f.imm.setWidth 64 <<< (8 * lane.toNat))))
         ∧ RegFrame s t fun r => ∃ u ∈ runsIn s f.mu f.grd, r ∈ dstRegs f.dst u f.ty.wide)
     ∧ (∀ f, (Instr.pmovPk f).wf = true → Issues s f.mu →
       ∃ t, exec (.pmovPk f) s = .next t
         ∧ (∀ u ∈ runsIn s f.mu f.grd, ∃ x : Sys2Proof.W64, holds t f.dst u false x
             ∧ ∀ j, j < 64 → x.getLsbD j = if f.mu then (decide (j < 4) && s.rdQ j) else (decide (j < 8) && s.rdP u j))
         ∧ RegFrame s t fun r => ∃ u ∈ runsIn s f.mu f.grd, r ∈ dstRegs f.dst u false)
     ∧ (∀ f, (Instr.pmovUp f).wf = true → Issues s f.mu →
       ∃ t, exec (.pmovUp f) s = .next t
         ∧ (∀ u ∈ runsIn s f.mu f.grd, ∀ j, (f.mu = true → j < 4 →
               regVal t (.q j) = BitVec.ofNat 64 ((s.rdReg u f.a false).getLsbD j).toNat)
             ∧ (f.mu = false → j < 7 → regVal t (.p u (BitVec.ofNat 3 j)) = BitVec.ofNat 64 ((s.rdReg u f.a false).getLsbD j).toNat))
         ∧ RegFrame s t fun r => ∃ u ∈ runsIn s f.mu f.grd, ∃ j,
             if f.mu then j < 4 ∧ r = .q j else j < 7 ∧ r = .p u (BitVec.ofNat 3 j)))
  ∧ (∀ s : State,
     (∀ f, (Instr.uni f).wf = true → Issues s false →
       ∃ t, exec (.uni f) s = .next t
         ∧ (∀ u, (s.active f.grd).head? = some u → regVal t (.s f.dst.idx.toNat) = extendBy f.ty (opBits s u f f.a))
         ∧ RegFrame s t fun r => s.active f.grd ≠ [] ∧ r = .s f.dst.idx.toNat)
     ∧ (∀ f, (Instr.uniEq f).wf = true → Issues s true →
       ∃ t, exec (.uniEq f) s = .next t
         ∧ (s.active f.grd ≠ [] → regVal t (.q (f.dst.idx.toNat - 8)) =
             BitVec.ofNat 64 (decide (∀ u ∈ s.active f.grd, ∀ v ∈ s.active f.grd, opBits s u f f.a = opBits s v f f.a)).toNat)
         ∧ RegFrame s t fun r => s.active f.grd ≠ [] ∧ r = .q (f.dst.idx.toNat - 8)))

namespace Sys2Proof.Claims

/-- What GETS of register n gives in thread u of a warp's path, x being the registers it reads (R200, R201, R178). -/
def specialOf (s : State) (x : Warp) (k w e n u : Nat) : W64 :=
  let tm := s.team k
  match n with
  | 0 => BitVec.ofNat 64 (32 * w + u)
  | 1 => BitVec.ofNat 64 w
  | 2 => BitVec.ofNat 64 tm.num
  | 3 => BitVec.ofNat 64 tm.gang
  | 4 => BitVec.ofNat 64 tm.core
  | 5 => s.handleOf tm.task
  | 8 => (x.thread u).meet
  | 9 => x.ejt.setWidth 64
  | 10 => x.rjt.setWidth 64
  | 11 => x.part.setWidth 64
  | 12 => BitVec.ofNat 64 s.cur.age
  | 13 => (x.thread u).vstat.setWidth 64
  | 14 => ((s.warp k w).entry e).mask.setWidth 64
  | 16 => Cells.get 0 x.rg 0
  | 17 => Cells.get 0 x.rg 1
  | 18 => Cells.get 0 x.rg 2
  | 19 => Cells.get 0 x.rg 3
  | 24 => (s.rp tm.vdev).cur
  | 25 => (s.rp tm.vdev).sealedN
  | 26 => (s.rp tm.vdev).dig
  | 27 => (s.rp tm.vdev).base
  | _ => (s.rp tm.vdev).task
/-- The same in the rill thread of context c (R164, R200): its warp's, team's and launch's numbers, MEET of its thread, AGE 0, a mask of itself, and its own copies of the others. -/
def rillSpecialOf (s : State) (c n u : Nat) : W64 :=
  let r := s.rr
  let y := s.rill c
  match n with
  | 8 => (s.rw.thread u).meet
  | 9 => r.ejt.setWidth 64
  | 10 => r.rjt.setWidth 64
  | 11 => r.part.setWidth 64
  | 12 => 0
  | 13 => r.vstat.setWidth 64
  | 14 => BitVec.ofNat 64 (2 ^ u)
  | 16 => Cells.get 0 r.rg 0
  | 17 => Cells.get 0 r.rg 1
  | 18 => Cells.get 0 r.rg 2
  | 19 => Cells.get 0 r.rg 3
  | n => if n < 6 then specialOf s {} y.team y.warp 0 n u else Cells.get 0 r.rp n
/-- The registers of R200 that are 64 bits wide in a destination. -/
def wideSpecial (n : Nat) : Bool := [5, 8, 24, 25, 26, 27, 28].contains n

end Sys2Proof.Claims

namespace Sys2Proof.Claims

/-- A value that SETS accepts for a register (R202, R178, R123). -/
def setsValue (n : Nat) (x : W64) : Bool :=
  match n with
  | 8 => x == 0xFFFFFFFFFFFFFFFF || (x &&& 0x38 == 0 && decide ((x &&& 7).toNat ≤ 4))
  | 9 => decide ((x &&& 0xF).toNat ≤ 8)
  | 10 => decide (64 ≤ (x &&& 0x1FFFFF).toNat ∧ (x &&& 0x1FFFFF).toNat ≤ 0x100000)
  | 11 => decide ((x &&& 7).toNat ≤ 4)
  | 13 => true
  | _ => decide (x.toNat < 2 ^ 16)

end Sys2Proof.Claims

/-- R164, R200, R201, R125: GETS on a warp's path or in a rill thread completes and copies the register that R200 gives the number, for every number a well-formed GETS names, as it stood before the pair; nothing else changes. R202: SETS of a value the register takes completes on a warp's path, and SETS of MEET or VSTAT in a rill thread. MEET takes the value in each active thread; VSTAT loses the flags whose bit is 1 in each active thread; EJT, RJT and PART take their field, RG.n its region, once for the warp. A GETS then reads it. Memory, every v, p, s and q register and every other unit is as before. R202, R178, R347: SETS of a value the register does not take traps: BADSLOT (0x08) for MEET, in the threads that hold such a value, ILLOP (0x04) for a register of the warp; a rill thread's trap is taken after its recall. -/
def Obligations.SpecialRegistersAreReadAndWritten : Prop :=
  ((∀ f s k w e, (Instr.gets f).wf = true → s.cur.agent = .warp k w e →
       ∃ t, exec (.gets f) s = .next t
         ∧ (∀ u ∈ runsIn s f.mu f.grd,
             holds t f.dst u (wideSpecial f.a.idx.toNat) (specialOf s s.rw k w e f.a.idx.toNat u))
         ∧ RegFrame s t fun r =>
             ∃ u ∈ runsIn s f.mu f.grd, r ∈ dstRegs f.dst u (wideSpecial f.a.idx.toNat))
     ∧ (∀ f s c, (Instr.gets f).wf = true → s.cur.agent = .rill c → f.mu = false →
       ∃ t, exec (.gets f) s = .next t
         ∧ (∀ u ∈ runsIn s false f.grd, holds t f.dst u (wideSpecial f.a.idx.toNat) (rillSpecialOf s c f.a.idx.toNat u))
         ∧ RegFrame s t fun r => ∃ u ∈ runsIn s false f.grd, r ∈ dstRegs f.dst u (wideSpecial f.a.idx.toNat)))
  ∧ ((∀ f s k w e, (Instr.sets f).wf = true → s.cur.agent = .warp k w e →
       (∀ u ∈ runsIn s f.mu f.grd, setsValue f.dst.idx.toNat (s.rdReg u f.a true) = true) →
       ∃ t, exec (.sets f) s = .next t
         ∧ (∀ u ∈ runsIn s f.mu f.grd,
             specialOf t (t.warp k w) k w e f.dst.idx.toNat u =
               (let x := s.rdReg u f.a true
                match f.dst.idx.toNat with
                | 9 => x &&& 0xF
                | 10 => x &&& 0x1FFFFF
                | 11 => x &&& 7
                | 13 => (((s.warp k w).thread u).vstat &&& ~~~((s.rdReg u f.a false).setWidth 32 &&& 0x37F)).setWidth 64
                | _ => x))
         ∧ (t.warp k w).entry e = { (s.warp k w).entry e with pc := s.cur.npc, done := 0, hold := .none }
         ∧ OnlyWarp s t k w
         ∧ (t.warp k w).v = (s.warp k w).v ∧ (t.warp k w).p = (s.warp k w).p ∧ (t.warp k w).s = (s.warp k w).s ∧ (t.warp k w).q = (s.warp k w).q)
     ∧ (∀ f s c, (Instr.sets f).wf = true → s.cur.agent = .rill c → f.mu = false →
       (∀ u ∈ runsIn s false f.grd, setsValue f.dst.idx.toNat (s.rdReg u f.a true) = true) →
       let y := s.rill c
       ∃ t, exec (.sets f) s = .next t
         ∧ (∀ u ∈ runsIn s false f.grd, if f.dst.idx.toNat = 8 then ((t.warp y.team y.warp).thread u).meet = s.rdReg u f.a true
             else (t.rill c).vstat = y.vstat &&& ~~~((s.rdReg u f.a false).setWidth 32 &&& 0x37F))
         ∧ t.rill c = { y with pc := s.cur.npc, hold := .none, vstat := (t.rill c).vstat } ∧ (f.dst.idx.toNat = 8 → (t.rill c).vstat = y.vstat)
         ∧ (∀ j, j ≠ c → t.rill j = s.rill j) ∧ (∀ j i, (j ≠ y.team ∨ i ≠ y.warp ∨ f.dst.idx.toNat ≠ 8) → t.warp j i = s.warp j i) ∧ t.mem = s.mem))
  ∧ (∀ f s, (Instr.sets f).wf = true → Issues s f.mu →
       (runsIn s f.mu f.grd).any (fun u => !setsValue f.dst.idx.toNat (s.rdReg u f.a true)) = true →
       exec (.sets f) s = .next (
         if f.mu then s.trapWith 4 s.cur.ipc 0 (maskOf s.pathThreads)
         else s.trapWith 8 s.cur.ipc 0 (maskOf ((s.active f.grd).filter fun u => !setsValue f.dst.idx.toNat (s.rdReg u f.a true)))))

namespace Sys2Proof.Claims

/-! Class forms. -/

/-- The fields of a form that delivers one class value. -/
def realFields : Instr → Option AForm
  | .fadd f | .fsub f | .fmul f | .fma f | .fdiv f | .fsqt f | .fscl f | .fmin f | .fmax f | .amax f | .fsel f | .frnd f
  | .frcp f | .frsq f | .fexp f | .flog f | .fsin f | .fcos f | .ftnh f | .cvif f | .cvccCc f | .cvccIn f | .cadd f | .cfold f
  | .fdot4 f | .hrandU f | .lutm f => some f
  | _ => none
/-- A NaN passed on by R54, any other value as it is. -/
def passOn (x : RVal) : Res := ((firstNan [x]).getD x, {})
/-- H of HRAND on numbers (R224). -/
def r224 (a b : Nat) : Nat :=
  let x := (a + b * 0x9E3779B97F4A7C15) % 2 ^ 64
  let y := ((x ^^^ x / 2 ^ 30) * 0xE7A35C1984D26F0B) % 2 ^ 64
  let z := ((y ^^^ y / 2 ^ 27) * 0x8C3FD2175AB9E463) % 2 ^ 64
  let w := z ^^^ z / 2 ^ 31
  w / 2 ^ 32 ^^^ w % 2 ^ 32
/-- A function form's value: FMT(CLS), the operand's encoding and its format fix it (R215, R217). -/
def fnRes (s : State) (u : Nat) (f : AForm) (fn : FnForm) : Res :=
  let ca := (s.cls (s.clsFor f.cls.toNat 0)).fmt
  rFn fn (s.cls f.cls.toNat).fmt ((s.rdReg u f.a false).toNat % 2 ^ fmtBits ca * 256 + ca) (s.clsA f u)
/-- Term i of a register quad. -/
def quadAt (s : State) (u : Nat) (sp : Spec) (c i : Nat) : RVal := classRead (s.cls c) (s.rdV u (sp.idx.toNat + i)).toNat
/-- r + a × b with the flags r carries. -/
def fmaOn (a b : RVal) (r : Res) : Res := addFlg (rFma a b r.1) r.2
/-- The value each form computes in thread u before ROUND_CLASS (R210 to R212, R214 to R216, R218, R220 to R224, R226). -/
def realRes (s : State) (u : Nat) (f : AForm) : Instr → Res
  | .fadd _ => rAdd (s.clsA f u) (s.clsB f u)
  | .fsub _ => rSub (s.clsA f u) (s.clsB f u)
  | .fmul _ => rMul (s.clsA f u) (s.clsB f u)
  | .fma _ => rFma (s.clsA f u) (s.clsB f u) (s.clsC f u)
  | .fdiv _ => rDiv (s.clsA f u) (s.clsB f u)
  | .fsqt _ => rSqt (s.clsA f u)
  | .fscl _ => rScl (s.clsA f u) (if f.bi then f.imm.toInt else ((s.rdReg u f.b false).setWidth 32).toInt)
  | .fmin _ => rMinMax false (s.clsA f u) (s.clsB f u)
  | .fmax _ => rMinMax true (s.clsA f u) (s.clsB f u)
  | .amax _ => rAmax (s.clsA f u) (s.clsB f u)
  | .fsel _ => passOn (if s.rdPred u f.c then s.clsA f u else s.clsB f u)
  | .frnd _ => frnd f.fn.toNat (s.clsA f u)
  | .frcp _ => fnRes s u f .rcp
  | .frsq _ => fnRes s u f .rsq
  | .fexp _ => fnRes s u f .exp
  | .flog _ => fnRes s u f .log
  | .fsin _ => fnRes s u f .sin
  | .fcos _ => fnRes s u f .cos
  | .ftnh _ => fnRes s u f .tnh
  | .cvif _ => (ofRat (if f.ty.signed then (opBits s u f f.a).toInt else (opBits s u f f.a).toNat) 1, {})
  | .cvccIn _ => (decodeF f.imm.toNat ((s.rdReg u f.a false).toNat % 2 ^ fmtBits f.imm.toNat), {})
  | .cadd _ => rAdd (s.rdCls u f.a f.cls.toNat) (s.clsB f u)
  | .fdot4 _ =>
    let a := quadAt s u f.a (s.clsFor f.cls.toNat 0)
    let b := quadAt s u f.b (s.clsFor f.cls.toNat 1)
    let st := stepRound (s.cls f.cls.toNat).fmt
    fmaOn (a 3) (b 3) (st (fmaOn (a 2) (b 2) (st (fmaOn (a 1) (b 1) (st (fmaOn (a 0) (b 0) (s.clsC f u, {})))))))
  | .hrandU _ => (.fin false (r224 (s.rdReg u f.a true).toNat (s.rdReg u f.b true).toNat / 256) (2 ^ 24), {})
  | .lutm _ =>
    let entry (j : Nat) : RVal :=
      let k := (s.rdV u f.a.idx.toNat).toNat / 2 ^ (4 * j) % 16
      classRead (s.cls (s.clsFor f.cls.toNat 1)) ((s.rdS (f.b.idx.toNat + k / 2)).toNat / 2 ^ (32 * (k % 2)) % 2 ^ 32)
    let n := f.imm.toNat
    let r := (List.range (n - 1)).foldl (fun r j => stepRound (s.cls f.cls.toNat).fmt (addFlg (rAdd (entry j) r.1) r.2)) (s.clsC f u, {})
    addFlg (rAdd (entry (n - 1)) r.1) r.2
  | _ => passOn (s.clsA f u)
/-- What a form delivers in thread u: ROUND_CLASS of its value in CLS (R88, R205). -/
def delivery (s : State) (u : Nat) (f : AForm) (i : Instr) : Deliv := roundClass (s.cls f.cls.toNat) (realRes s u f i)
/-- The threads whose VSTAT takes the flags: those a per-thread form runs in, every thread of the path under MU (R208). -/
def flagged (s : State) (mu : Bool) (g : Guard) : List Nat := if mu then (if s.guardU g then s.pathThreads else []) else s.active g
/-- The thread whose computation gives the flags of thread u. -/
def flagFrom (s : State) (mu : Bool) (u : Nat) : Nat := if mu then s.lowThread else u
/-- VSTAT of thread u with flags ORed in. -/
def orFlags (s t : State) (u : Nat) (m : W32) : Prop := regVal t (.vst u) = regVal s (.vst u) ||| m.setWidth 64
/-- The state after the instruction's class counts (R89). -/
def counted (s : State) (c : Nat) (ds : List Deliv) : State :=
  s.count s.cTask c (ds.foldl (fun n d => n + d.satc) 0) (ds.foldl (fun n d => n + d.unfc) 0) (ds.any (·.flg.breach))

end Sys2Proof.Claims

/-- R205, R208, R210 to R226: with no breach under policy trap, each of these forms completes: the destination of each thread holds ROUND_CLASS of the form's value, VSTAT takes that thread's flags, the class counts once for the instruction, and nothing else changes. R88, R208, R347: a breach under policy trap raises RANGE, cause 0x18, with the class in TINFO and the threads that breached in TMASK (the whole path under MU); no register, flag or counter is written, and a rill thread's trap is taken after its recall. -/
def Obligations.RealFormsDeliverOrTrap : Prop :=
  (∀ i f s, realFields i = some f → i.wf = true → Issues s f.mu → (s.onRill = true → ∀ g, i ≠ .lutm g) →
       (∀ u ∈ runsIn s f.mu f.grd, (delivery s u f i).trap = false) →
       ∃ t, exec i s = .next t
         ∧ (∀ u ∈ runsIn s f.mu f.grd, holds t f.dst u false (BitVec.ofNat 64 (delivery s u f i).out))
         ∧ (∀ u ∈ flagged s f.mu f.grd, orFlags s t u (delivery s (flagFrom s f.mu u) f i).flg.bits)
         ∧ RegFrame (counted s f.cls.toNat ((runsIn s f.mu f.grd).map fun u => delivery s u f i)) t
             fun r => (∃ u ∈ runsIn s f.mu f.grd, r ∈ dstRegs f.dst u false) ∨ ∃ u ∈ flagged s f.mu f.grd, r = .vst u)
  ∧ (∀ i f s, realFields i = some f → i.wf = true → Issues s f.mu → (s.onRill = true → ∀ g, i ≠ .lutm g) →
       (runsIn s f.mu f.grd).any (fun u => (delivery s u f i).trap) = true →
       exec i s = .next (s.trapWith 0x18 (BitVec.ofNat 64 f.cls.toNat) 0
         (if f.mu then maskOf s.pathThreads else maskOf ((s.active f.grd).filter fun u => (delivery s u f i).trap))))

namespace Sys2Proof.Claims

/-- The rational number a finite value is. -/
def rat : RVal → ℚ
  | .fin s n d => (if s then -1 else 1) * (n / d)
  | _ => 0
/-- A finite value with a denominator. -/
def IsFin (x : RVal) : Prop := ∃ s n d, x = .fin s n d ∧ d ≠ 0
/-- n is x rounded by FRND's FN: 0 nearest even, 1 toward zero, 2 down, 3 up, 4 nearest away from zero (R214). -/
def IsRounded (fn : Nat) (x : ℚ) (n : Int) : Prop :=
  match fn with
  | 0 => |x - n| ≤ 1 / 2 ∧ (|x - n| = 1 / 2 → n % 2 = 0)
  | 1 => n = if 0 ≤ x then ⌊x⌋ else ⌈x⌉
  | 2 => n = ⌊x⌋
  | 3 => n = ⌈x⌉
  | _ => |x - n| ≤ 1 / 2 ∧ (|x - n| = 1 / 2 → |x| < |(n : ℚ)|)
/-- The FCLS mask (R213) of a class whose smallest normal is 2^e. -/
def r213 (e : Int) : RVal → Nat
  | .nan _ c q => c % 16 * 4096 + if q then 512 else 256
  | .inf s => if s then 1 else 128
  | .fin s n d =>
    if n = 0 then (if s then 8 else 16)
    else if (2 : ℚ) ^ e ≤ n / d then (if s then 2 else 64) else if s then 4 else 32

end Sys2Proof.Claims

/-- R210, R211: on finite operands the value before rounding is the sum, difference, product, fused sum, quotient, scaling, minimum, maximum or maximum magnitude in the rational numbers, with no flag; a zero sum is −0 only when both addends are −0. R54, R210, R211, R216: a NaN source is taken in operand order with its sign; ∞ − ∞ generates cause 3, 0 × ∞ cause 4, 0/0, ∞/∞ and the root of a negative cause 5, each with INVALID; a finite nonzero value over zero is an infinity with DZ; and the functions give the special values of R216. -/
def Obligations.ExactAndSpecialValues : Prop :=
  (∀ a b c, IsFin a → IsFin b → IsFin c →
       (IsFin (rAdd a b).1 ∧ rat (rAdd a b).1 = rat a + rat b ∧ (rAdd a b).2 = {})
       ∧ (IsFin (rSub a b).1 ∧ rat (rSub a b).1 = rat a - rat b ∧ (rSub a b).2 = {})
       ∧ (IsFin (rMul a b).1 ∧ rat (rMul a b).1 = rat a * rat b ∧ (rMul a b).1.sign = (a.sign != b.sign) ∧ (rMul a b).2 = {})
       ∧ (IsFin (rFma a b c).1 ∧ rat (rFma a b c).1 = rat a * rat b + rat c ∧ (rFma a b c).2 = {})
       ∧ (rat b ≠ 0 → IsFin (rDiv a b).1 ∧ rat (rDiv a b).1 = rat a / rat b ∧ (rDiv a b).1.sign = (a.sign != b.sign) ∧ (rDiv a b).2 = {})
       ∧ (∀ e, IsFin (rScl a e).1 ∧ rat (rScl a e).1 = rat a * (2 : ℚ) ^ e ∧ (rScl a e).1.sign = a.sign ∧ (rScl a e).2 = {})
       ∧ rat (rMinMax false a b).1 = min (rat a) (rat b) ∧ rat (rMinMax true a b).1 = max (rat a) (rat b)
       ∧ rat (rAmax a b).1 = max |rat a| |rat b| ∧ (rAmax a b).1.sign = false
       ∧ (rat (rAdd a b).1 = 0 → (rAdd a b).1.sign = (a.sign && b.sign && decide (rat a = 0) && decide (rat b = 0))))
  ∧ ((∀ s c q b, (rAdd (.nan s c q) b).1 = .nan s (if q ∧ 1 ≤ c ∧ c ≤ 5 then c else 1) true)
     ∧ (∀ s c q a, IsFin a → (rSub a (.nan s c q)).1 = .nan s (if q ∧ 1 ≤ c ∧ c ≤ 5 then c else 1) true)
     ∧ (∀ s, rAdd (.inf s) (.inf !s) = (.nan false 3 true, { invalid := true }) ∧ rSub (.inf s) (.inf s) = (.nan false 3 true, { invalid := true }))
     ∧ (∀ s a, IsFin a → rat a = 0 → rMul (.inf s) a = (.nan false 4 true, { invalid := true }) ∧ rMul a (.inf s) = (.nan false 4 true, { invalid := true })
         ∧ rDiv a a = (.nan false 5 true, { invalid := true }))
     ∧ (∀ s s', rDiv (.inf s) (.inf s') = (.nan false 5 true, { invalid := true }))
     ∧ (∀ a b, IsFin a → IsFin b → rat a ≠ 0 → rat b = 0 → rDiv a b = (.inf (a.sign != b.sign), { dz := true }))
     ∧ (∀ a, IsFin a → rat a < 0 → rSqt a = (.nan false 5 true, { invalid := true }) ∧ fnSpecial .rsq a = some (.nan false 5 true, { invalid := true })
         ∧ fnSpecial .log a = some (.nan false 5 true, { invalid := true }))
     ∧ (∀ a s c q, IsFin a → rMinMax false a (.nan s c q) = (a, {}) ∧ rMinMax true (.nan s c q) a = (a, {}) ∧ (rAmax a (.nan s c q)).1.isNan = true)
     ∧ (∀ s a, IsFin a → rat a = 0 → a.sign = s → fnSpecial .rcp a = some (.inf s, { dz := true }) ∧ fnSpecial .rsq a = some (.inf s, { dz := true })
         ∧ fnSpecial .log a = some (.inf true, { dz := true }) ∧ fnSpecial .exp a = some (.fin false 1 1, {}) ∧ fnSpecial .cos a = some (.fin false 1 1, {})
         ∧ fnSpecial .sin a = some (.fin s 0 1, {}) ∧ fnSpecial .tnh a = some (.fin s 0 1, {}))
     ∧ (∀ s, fnSpecial .rcp (.inf s) = some (.fin s 0 1, {}) ∧ fnSpecial .tnh (.inf s) = some (.fin s 1 1, {}) ∧ fnSpecial .sin (.inf s) = some (.nan false 5 true, { invalid := true })
         ∧ fnSpecial .cos (.inf s) = some (.nan false 5 true, { invalid := true }))
     ∧ (∀ a, IsFin a → 65536 < |rat a| → fnSpecial .sin a = some (.nan false 5 true, { invalid := true }) ∧ fnSpecial .cos a = some (.nan false 5 true, { invalid := true })))

/-- R52, R55, R57: CONVERT of a nonzero finite value into a floating layout, without overflow, is the value rounded to nearest even: m × 2^u with 2^u the spacing of the format's numbers there, at most half of it away, m even in a tie; the encoding decodes to it with the value's sign, INEXACT says whether it moved, and UNF whether it became zero. -/
def Obligations.ConvertRoundsToNearestEven : Prop :=
  ∀ code s n d, code ∈ [1, 2, 3, 5, 6, 7, 8, 9] → n ≠ 0 → d ≠ 0 →
    let f := ffmt code
    let r := convertFF false code (.fin s n d)
    r.2.sat = false →
    ∃ (m : Nat) (u : Int), u = max (Int.log 2 ((n : ℚ) / d)) (1 - f.bias) - f.mw
      ∧ |(n : ℚ) / d - m * (2 : ℚ) ^ u| ≤ (2 : ℚ) ^ u / 2
      ∧ (|(n : ℚ) / d - m * (2 : ℚ) ^ u| = (2 : ℚ) ^ u / 2 → m % 2 = 0)
      ∧ rat (decodeFF code r.1) = (if s then -1 else 1) * (m * (2 : ℚ) ^ u) ∧ (decodeFF code r.1).sign = s ∧ r.1 < 2 ^ fmtBits code
      ∧ r.2 = { inexact := decide ((n : ℚ) / d ≠ m * (2 : ℚ) ^ u), unf := decide (m = 0) }

/-- R212, R213, R219, R220, R224: FCMP and HRAND.p write their predicate, FCLS and HRAND.n their word and raise no flag; CVFI and CVCC.out write their word and OR their flags into VSTAT; no class is counted and nothing else changes. -/
def Obligations.ClassTestsAndConversionsOutGiveTheirResults : Prop :=
  ∀ s : State,
  (∀ i f, (i = .fcmp f ∨ i = .hrandP f) → i.wf = true → Issues s f.mu →
    ∃ t, exec i s = .next t
      ∧ (∀ u ∈ runsIn s f.mu f.grd, regVal t (predReg f.dst u) = BitVec.ofNat 64 (Bool.toNat
          (if i = .fcmp f then fcmp f.fn.toNat (s.clsA f u) (s.clsB f u)
            else decide (f.imm.toNat ≤ r224 (s.rdReg u f.a true).toNat (s.rdReg u f.b true).toNat / 2 ^ 24))))
      ∧ RegFrame s t fun r => ∃ u ∈ runsIn s f.mu f.grd, r = predReg f.dst u)
  ∧ (∀ i f, (i = .fcls f ∨ i = .hrandN f) → i.wf = true → Issues s f.mu →
    ∃ t, exec i s = .next t
      ∧ (∀ u ∈ runsIn s f.mu f.grd, holds t f.dst u false (BitVec.ofNat 64
          (if i = .fcls f then
            let fm := (s.cls f.cls.toNat).fmt
            r213 (1 - (ffmt (if fm = 4 then 2 else fm)).bias) (s.rdCls u f.a f.cls.toNat)
          else r224 (s.rdReg u f.a true).toNat (s.rdReg u f.b true).toNat)))
      ∧ RegFrame s t fun r => ∃ u ∈ runsIn s f.mu f.grd, r ∈ dstRegs f.dst u false)
  ∧ (∀ f, (Instr.cvfi f).wf = true → Issues s f.mu →
    ∃ t, exec (.cvfi f) s = .next t
      ∧ (∀ u ∈ runsIn s f.mu f.grd, holds t f.dst u f.ty.wide (extendBy f.ty (BitVec.ofInt f.ty.width (cvfi f.ty f.fn.toNat (s.clsA f u)).1)))
      ∧ (∀ u ∈ flagged s f.mu f.grd, orFlags s t u (cvfi f.ty f.fn.toNat (s.clsA f (flagFrom s f.mu u))).2.bits)
      ∧ RegFrame s t fun r => (∃ u ∈ runsIn s f.mu f.grd, r ∈ dstRegs f.dst u f.ty.wide) ∨ ∃ u ∈ flagged s f.mu f.grd, r = .vst u)
  ∧ (∀ f, (Instr.cvccOut f).wf = true → Issues s f.mu →
    ∃ t, exec (.cvccOut f) s = .next t
      ∧ (∀ u ∈ runsIn s f.mu f.grd, holds t f.dst u false (BitVec.ofNat 64 (convert false f.imm.toNat (s.rdCls u f.a f.cls.toNat)).1))
      ∧ (∀ u ∈ flagged s f.mu f.grd, orFlags s t u (convert false f.imm.toNat (s.rdCls (flagFrom s f.mu u) f.a f.cls.toNat)).2.bits)
      ∧ RegFrame s t fun r => (∃ u ∈ runsIn s f.mu f.grd, r ∈ dstRegs f.dst u false) ∨ ∃ u ∈ flagged s f.mu f.grd, r = .vst u)

/-- R212, R214, R219: FCMP compares exact values, with −0 equal to +0, eq, lt, le, gt, ge and or false and ne and un true on a NaN; FRND and CVFI round a finite value as FN says, and CVFI clamps to the type with SAT, gives 0 with INVALID for a NaN and the type's bound for an infinity. -/
def Obligations.ComparingAndRoundingToIntegers : Prop :=
  (∀ a b, IsFin a → IsFin b → fcmp 0 a b = decide (rat a = rat b) ∧ fcmp 1 a b = decide (rat a ≠ rat b) ∧ fcmp 2 a b = decide (rat a < rat b)
    ∧ fcmp 3 a b = decide (rat a ≤ rat b) ∧ fcmp 4 a b = decide (rat b < rat a) ∧ fcmp 5 a b = decide (rat b ≤ rat a) ∧ fcmp 6 a b = false ∧ fcmp 7 a b = true)
  ∧ (∀ fn a b, fn < 8 → a.isNan = true ∨ b.isNan = true → fcmp fn a b = decide (fn = 1 ∨ fn = 6))
  ∧ (∀ fn a, fn < 5 → IsFin a → ∃ n : Int, IsRounded fn (rat a) n ∧ rat (frnd fn a).1 = n ∧ (frnd fn a).1.sign = a.sign
      ∧ (frnd fn a).2 = { inexact := decide (rat a ≠ n) }
      ∧ ∀ ty : IType, cvfi ty fn a =
          if IType.maxVal ty < n then (IType.maxVal ty, { sat := true }) else if n < IType.minVal ty then (IType.minVal ty, { sat := true })
          else (n, { inexact := decide (rat a ≠ n) }))
  ∧ (∀ (ty : IType) fn s c q, cvfi ty fn (.nan s c q) = (0, { invalid := true }))
  ∧ (∀ (ty : IType) fn s, cvfi ty fn (.inf s) = (if s then IType.minVal ty else IType.maxVal ty, { sat := true }))

/-- R225: LUTB on a warp's path completes when no product breaches under policy trap: word k of the eight destination registers holds ROUND_CLASS of the activation times codebook entry k, every thread of the path takes the flags of all sixteen, the class counts them together, and nothing else changes. When a product breaches under policy trap LUTB raises RANGE in the threads of the path, with no effect (R88). -/
def Obligations.LutbBuildsTheProductTable : Prop :=
  ∀ f s k w e, (Instr.lutb f).wf = true → s.cur.agent = .warp k w e → s.guardU f.grd = true →
    let b := s.cls f.cls.toNat
    let x := s.rdCls s.lowThread f.a f.cls.toNat
    let entry (j : Nat) : RVal := decodeFF 2 ((s.rdS (f.b.idx.toNat + j / 4)).toNat / 2 ^ (16 * (j % 4)) % 2 ^ 16)
    let d (j : Nat) : Deliv := roundClass b (rMul x (entry j))
    ((∃ j, j < 16 ∧ (d j).trap = true) → exec (.lutb f) s = .next (s.trapWith 0x18 (BitVec.ofNat 64 f.cls.toNat) 0 (maskOf s.pathThreads)))
    ∧ ((∀ j, j < 16 → (d j).trap = false) →
    ∃ t, exec (.lutb f) s = .next t
      ∧ (∀ j, j < 16 → ((regVal t (.s (f.dst.idx.toNat + j / 2)) >>> (32 * (j % 2))).setWidth 32).toNat = (d j).out)
      ∧ (∀ u ∈ s.pathThreads, orFlags s t u ((List.range 16).foldl (fun m j => m ||| (d j).flg.bits) 0))
      ∧ RegFrame (counted s f.cls.toNat ((List.range 16).map d)) t fun r => (∃ j, j < 8 ∧ r = .s (f.dst.idx.toNat + j)) ∨ ∃ u ∈ s.pathThreads, r = .vst u)

namespace Sys2Proof.Claims

/-- Tile size by PART (R174). -/
def tileOf (p : BitVec 3) : Nat := if p = 1 then 2 else if p = 2 then 4 else if p = 3 then 8 else if p = 4 then 16 else 32
/-- A bit as a register value. -/
def bit (b : Bool) : W64 := if b then 1 else 0
/-- SHFL's source thread for thread u, none outside its tile of z threads (R227). -/
def shflFrom (s : State) (op : ShflOp) (f : AForm) (z u : Nat) : Option Nat :=
  let b := if f.bi then f.imm.toNat else ((s.rdReg u f.b false).setWidth 32).toNat
  let l := u % z
  match op with
  | .idx => some (u - l + b % z)
  | .up => if b ≤ l then some (u - b) else none
  | .down => if l + b < z then some (u + b) else none
  | .xor => if l ^^^ b < z then some (u - l + (l ^^^ b)) else none
/-- One level of the tree: adjacent pairs combined in order, an unpaired last value as it is (R229). -/
def pairUp (op : ReduceOp) (fmt : Nat) : List Res → List Res
  | [] => []
  | [x] => [x]
  | x :: y :: l => combine op fmt x y :: pairUp op fmt l
/-- TREE before its ROUND_CLASS: levels until one value remains (R229). -/
def r229 (op : ReduceOp) (fmt : Nat) : Nat → List Res → Res
  | _, [] => (.fin false 0 1, {})
  | _, [x] => x
  | 0, x :: _ => x
  | n + 1, l => r229 op fmt n (pairUp op fmt l)
/-- Thread t of warp w of team k stands in some path at pc, or is spilled there (R155, R158). -/
def stands (s : State) (k w t : Nat) (pc : W64) : Prop :=
  (((s.warp k w).thread t).st = .spilled ∧ ((s.warp k w).thread t).pc = pc)
  ∨ (((s.warp k w).thread t).st = .pathed ∧ ∃ e, e < 8 ∧ ((s.warp k w).entry e).valid = true ∧ ((s.warp k w).entry e).pc = pc ∧ ((s.warp k w).entry e).mask.getLsbD t = true)
/-- Register forms that a rill thread does not execute: those of the whole warp, and .s forms (R163). -/
def inWarpOnly : Instr → Bool
  | .shfl _ _ | .vote _ _ | .redw _ _ | .scanw _ _ | .lutb _ | .lutm _ | .uniEq _ => true
  | .gets f | .sets f => f.mu
  | i => (match intFields i with | some f => f.mu | none => false) || (match realFields i with | some f => f.mu | none => false)

end Sys2Proof.Claims

/-- R170, R227, R228, R229: SHFL, VOTE, REDW and SCANW on a warp's path complete in every active thread, over the tiles of PART: SHFL writes the source thread's value (its own outside the tile) and sets AWAY for an away source; VOTE writes the tile's vote; REDW and SCANW write ROUND_CLASS of the fixed tree over the tile's active threads (those up to the thread itself), with its flags; nothing else changes. REDW counts a tile's one result once (log 14, the model's choice). A thread whose tree breaches under policy trap raises RANGE, with no effect (R88). In a rill thread these forms, LUTB, LUTM, UNI.eq and every .s form have no effect: the thread is recalled and stands in its warp at the unit's PC (R163). -/
def Obligations.CollectivesCombineTheTile : Prop :=
  (∀ f s k w e, s.cur.agent = .warp k w e →
    let act := s.active f.grd
    let z := tileOf s.rw.part
    let tile (u : Nat) : List Nat := act.filter fun v => v / z == u / z
    (∀ op, (Instr.shfl op f).wf = true →
      ∃ t, exec (.shfl op f) s = .next t
        ∧ (∀ u ∈ act, holds t f.dst u f.x20 (s.rdReg ((shflFrom s op f z u).getD u) f.a f.x20))
        ∧ (∀ u ∈ act, (∃ v, shflFrom s op f z u = some v ∧ ((s.warp k w).thread v).st = .away) → orFlags s t u 0x100)
        ∧ RegFrame s t fun r => ∃ u ∈ act, r ∈ dstRegs f.dst u f.x20
            ∨ (r = .vst u ∧ ∃ v, shflFrom s op f z u = some v ∧ ((s.warp k w).thread v).st = .away))
    ∧ (∀ op, (Instr.vote op f).wf = true →
      ∃ t, exec (.vote op f) s = .next t
        ∧ (∀ u ∈ act, match op with
            | .all => regVal t (predReg f.dst u) = bit (decide (∀ v ∈ tile u, s.rdP v f.a.idx.toNat = true))
            | .any => regVal t (predReg f.dst u) = bit (decide (∃ v ∈ tile u, s.rdP v f.a.idx.toNat = true))
            | .eq => regVal t (predReg f.dst u) = bit (decide (∀ v ∈ tile u, ∀ x ∈ tile u, s.rdReg v f.a f.x20 = s.rdReg x f.a f.x20))
            | .ballot => ∀ v, v < 64 → (regVal t (.v u f.dst.idx)).getLsbD v = decide (v ∈ tile u ∧ s.rdP v f.a.idx.toNat = true))
        ∧ RegFrame s t fun r => ∃ u ∈ act, if op = .ballot then r ∈ dstRegs f.dst u false else r = predReg f.dst u)
    ∧ (∀ i op scan, i = .redw op f ∧ scan = false ∨ i = .scanw op f ∧ scan = true → i.wf = true →
      let d (u : Nat) : Deliv := roundClass (s.cls f.cls.toNat)
        (r229 op (s.cls f.cls.toNat).fmt 32 (((tile u).filter fun v => !scan || decide (v ≤ u)).map fun v => (s.clsA f v, {})))
      ((∃ u ∈ act, (d u).trap = true) → exec i s = .next (s.trapWith 0x18 (BitVec.ofNat 64 f.cls.toNat) 0 (maskOf (act.filter fun u => (d u).trap))))
      ∧ ((∀ u ∈ act, (d u).trap = false) →
      ∃ t, exec i s = .next t
        ∧ (∀ u ∈ act, holds t f.dst u false (BitVec.ofNat 64 (d u).out) ∧ orFlags s t u (d u).flg.bits)
        ∧ RegFrame (counted s f.cls.toNat (act.map fun u => if scan || (tile u).head? == some u then d u else { d u with satc := 0, unfc := 0 })) t
            fun r => ∃ u ∈ act, r ∈ dstRegs f.dst u false ∨ r = .vst u)))
  ∧ (∀ i (s : State) c, s.cur.agent = .rill c → inWarpOnly i = true → (s.rill c).thread < 32 → Cells.wf {} s.rills = true →
      ∃ t, exec i s = .next t ∧ stands t (s.rill c).team (s.rill c).warp (s.rill c).thread s.cur.upc ∧ (t.rill c).used = false ∧ t.mem = s.mem)

namespace Sys2Proof.Claims

/-! Control transfers. -/

/-- Fields of an unconditional transfer. -/
def xferFields : Instr → Option BForm
  | .bra f | .brx f | .call f | .callx f | .ret f => some f
  | _ => none
/-- The line that holds the instruction, displaced by lines, and a slot of it (R133). -/
def lineAt (s : State) (disp : BitVec 8) (slot : BitVec 3) : W64 :=
  BitVec.ofNat 64 (s.cur.ipc.toNat / 64 * 64) + disp.signExtend 64 * 64 + slot.setWidth 64
/-- Where a transfer sends thread u (R180, R181). -/
def destOf (s : State) (u : Nat) (f : BForm) : W64 := if f.tr then s.rdReg u f.a true else lineAt s f.tdisp f.tslot
/-- The meeting address a form names (R133, R180). -/
def meetOf (s : State) (f : BForm) : W64 := if f.mr then s.rdReg s.lowThread f.b true else lineAt s f.mdisp f.mslot
/-- The form is a call, which writes a link. -/
def isCall : Instr → Bool
  | .call _ | .callx _ => true
  | _ => false
/-- The form is BRX, which names a meeting address. -/
def isBrx : Instr → Bool
  | .brx _ => true
  | _ => false
/-- A PC of a slot (R123). -/
def slotPc (x : W64) : Prop := x.toNat / 8 % 8 = 0 ∧ x.toNat % 8 ≤ 4
/-- The PC of the slot after the instruction's own. -/
def slotAfter (x : W64) : W64 := if x.toNat % 8 < 4 then x + 1 else BitVec.ofNat 64 (x.toNat / 64 * 64 + 64)
/-- Every active thread may go to x. -/
def mayGo (s : State) (x : W64) : Prop := s.checkTarget x = .ok
/-- A form's encoded target passes R123 and R124, which hold whatever the guard; a line that cannot be read stops only an active thread (R127). -/
def encodedOk (s : State) (f : BForm) : Prop :=
  mayGo s (lineAt s f.tdisp f.tslot) ∨ s.active f.grd = [] ∧ ∀ c, s.checkTarget (lineAt s f.tdisp f.tslot) ≠ .bad c
/-- Thread u stands at a PC: in a path of its warp there, or SPILLED there (R153, R155). -/
def StandsAt (s : State) (k w u : Nat) (pc : W64) : Prop :=
  (∃ j, j < 8 ∧ ((s.warp k w).entry j).valid = true ∧ ((s.warp k w).entry j).pc = pc ∧ ((s.warp k w).entry j).mask.getLsbD u = true)
  ∨ (((s.warp k w).thread u).st = .spilled ∧ ((s.warp k w).thread u).pc = pc)
/-- Threads of a path are split in two: those in `go` leave entry e for a new path at pc, the rest stay in it at the next slot; without a free entry they are spilled there (R155). -/
def SplitsOff (s t : State) (k w e : Nat) (go stay : List Nat) (pc : W64) : Prop :=
  (t.warp k w).entry e = { (s.warp k w).entry e with pc := s.cur.npc, mask := maskOf stay, hold := .none, done := 0 }
  ∧ (match (s.warp k w).freeEntry with
    | some n => (t.warp k w).entry n = { valid := true, pc := pc, mask := maskOf go } ∧ (∀ j, j ≠ e → j ≠ n → (t.warp k w).entry j = (s.warp k w).entry j)
        ∧ ∀ u ∈ go, ((t.warp k w).thread u).st = .pathed ∧ ((t.warp k w).thread u).pc = pc
    | none => (∀ j, j ≠ e → (t.warp k w).entry j = (s.warp k w).entry j)
        ∧ ∀ u ∈ go, ((t.warp k w).thread u).st = .spilled ∧ ((t.warp k w).thread u).pc = pc)

end Sys2Proof.Claims

/-- R181, R123, R124, R153, R155: BRA, BRX, CALL, CALLX and RET complete, whatever targets the threads name, when every active thread's target passes R123 and R124, an encoded target passes them whatever the guard, and BRX's meeting address passes R123: each active thread of a warp's path stands at its own target and each other thread of it at the next slot, in a path there or spilled; a rill thread goes to its target, or to the next slot when its guard is false. No byte of memory changes. -/
def Obligations.TransfersComplete : Prop :=
  ∀ i f s, xferFields i = some f → i.wf = true → (∀ u ∈ s.active f.grd, mayGo s (destOf s u f)) → (f.tr = false → encodedOk s f) →
    (isBrx i = true → slotPc (meetOf s f)) →
    (∀ k w e, s.cur.agent = .warp k w e → e < 8 → ((s.warp k w).entry e).valid = true →
      ∃ t, exec i s = .next t
        ∧ (∀ u ∈ s.pathThreads, StandsAt t k w u (if u ∈ s.active f.grd then destOf s u f else s.cur.npc))
        ∧ OnlyWarp s t k w)
    ∧ (∀ c, s.cur.agent = .rill c →
      ∃ t, exec i s = .next t
        ∧ (t.rill c).pc = (if s.active f.grd = [] then s.cur.npc else destOf s (s.rill c).thread f)
        ∧ ∀ a, readByte t.mem a = readByte s.mem a)

/-- R181: BRA, BRX, CALL, CALLX and RET of a whole path, or of a rill thread, complete when the target passes R123 and R124, an encoded one whatever the guard, and BRX's meeting address passes R123 (and a call's own PC names a slot): the path stands at the one target, or at the next slot when no thread is active; a call's active threads take the PC of the slot after it as their link; nothing else changes. R155, R181: when some threads of a warp's path are inactive and the active ones go to one other slot, the inactive threads keep the entry at the next slot and the active ones become a new path with AGE 0, or are spilled; BRX writes its meeting address into MEET of every thread of the path, and the others write no MEET; a call writes the active threads' links; every other warp, team and byte is as before. -/
def Obligations.TransfersMoveOrSplitAPath : Prop :=
  (∀ i f s d, xferFields i = some f → i.wf = true → Issues s false →
       (s.active f.grd = [] ∨ s.active f.grd = s.pathThreads) →
       (∀ u ∈ s.active f.grd, destOf s u f = d ∧ mayGo s d) → (f.tr = false → encodedOk s f) → (isBrx i = true → slotPc (meetOf s f)) →
       (isCall i = true → slotPc s.cur.ipc) →
       ∃ t, exec i s = .next t
         ∧ (isCall i = true → ∀ u ∈ s.active f.grd, holds t f.dst u true (slotAfter s.cur.ipc))
         ∧ MoveFrame s t (if s.active f.grd = [] then s.cur.npc else d) fun r => isCall i = true ∧ ∃ u ∈ s.active f.grd, r ∈ dstRegs f.dst u true)
  ∧ (∀ i f s k w e d, xferFields i = some f → i.wf = true → s.cur.agent = .warp k w e → ((s.warp k w).entry e).valid = true →
       let act := s.active f.grd
       let stay := s.pathThreads.filter fun u => !act.contains u
       act ≠ [] → stay ≠ [] → d ≠ s.cur.npc → (∀ u ∈ act, destOf s u f = d ∧ mayGo s d) → (isBrx i = true → slotPc (meetOf s f)) →
       (isCall i = true → slotPc s.cur.ipc) →
       ∃ t, exec i s = .next t
         ∧ SplitsOff s t k w e act stay d
         ∧ (∀ u, ((t.warp k w).thread u).meet = if isBrx i && s.pathThreads.contains u then meetOf s f else ((s.warp k w).thread u).meet)
         ∧ (isCall i = true → ∀ u ∈ act, holds t f.dst u true (slotAfter s.cur.ipc))
         ∧ (∀ r, (isCall i = true ∧ ∃ u ∈ act, r ∈ dstRegs f.dst u true) ∨ regVal t r = regVal s r)
         ∧ OnlyWarp s t k w)

namespace Sys2Proof.Claims

/-- TK of a BRC (R156). -/
def takenSet (s : State) (f : BForm) : List Nat := (s.active f.grd).filter fun u => s.rdPred u f.a
/-- NT of a BRC. -/
def notTaken (s : State) (f : BForm) : List Nat := s.pathThreads.filter fun u => !(takenSet s f).contains u
/-- MIN of a BRC. -/
def minority (s : State) (f : BForm) : List Nat := if (takenSet s f).length ≤ (notTaken s f).length then takenSet s f else notTaken s f
/-- The branch would eject its minority (R156): EJ, a threshold that admits it, and an ordinary line. -/
def wantsEject (s : State) (f : BForm) : Prop :=
  f.ej = true ∧ s.rw.ejt ≠ 0 ∧ (minority s f).length ≤ s.rw.ejt.toNat ∧ s.cur.handler = false
/-- The cluster has contexts enough (R156). -/
def hasContexts (s : State) (k : Nat) (f : BForm) : Prop :=
  (minority s f).length * (if s.cMirrored then 2 else 1) ≤ ((List.range 64).filter fun i => !(s.rill (64 * ((s.team k).core / 4) + i)).used).length
/-- Checks of a BRC pass (R182). -/
def brcOk (s : State) (f : BForm) : Prop := encodedOk s f ∧ slotPc (meetOf s f)

end Sys2Proof.Claims

/-- R156, R182: BRC of a warp's path completes without ejection. With all or none of its threads taken the path goes to the target or the next slot and MEET is unchanged; a split writes the meeting address into MEET of every thread of the path, keeps the not-taken threads in the entry and gives the taken ones a new path, and sets EJFULL in the minority when only contexts were wanting. On the rill the thread takes its side. R156, R160, R161: a splitting BRC.ej whose minority EJT admits, in an ordinary line, with contexts enough, ejects it: each minority thread is AWAY and runs at its side's PC in a rill context of its own cluster that holds its registers and the warp's s registers; the majority keeps the entry at its own side's PC, and MEET holds the meeting address in every thread of the path. -/
def Obligations.ConditionalBranchGoesSplitsOrEjects : Prop :=
  (∀ f s, (Instr.brc f).wf = true → brcOk s f →
       (Issues s false → (takenSet s f = [] ∨ notTaken s f = []) →
         ∃ t, exec (.brc f) s = .next t ∧ MoveFrame s t (if takenSet s f = [] then s.cur.npc else lineAt s f.tdisp f.tslot) fun _ => False)
       ∧ (∀ k w e, s.cur.agent = .warp k w e → ((s.warp k w).entry e).valid = true → takenSet s f ≠ [] → notTaken s f ≠ [] →
         ¬ (wantsEject s f ∧ hasContexts s k f) →
         ∃ t, exec (.brc f) s = .next t
           ∧ SplitsOff s t k w e (takenSet s f) (notTaken s f) (lineAt s f.tdisp f.tslot)
           ∧ (∀ u, ((t.warp k w).thread u).meet = if u ∈ s.pathThreads then meetOf s f else ((s.warp k w).thread u).meet)
           ∧ (wantsEject s f → ∀ u ∈ minority s f, orFlags s t u 0x200)
           ∧ (∀ r, regVal t r = regVal s r ∨ wantsEject s f ∧ ∃ u ∈ minority s f, r = .vst u)
           ∧ OnlyWarp s t k w))
  ∧ (∀ f s k w e, (Instr.brc f).wf = true → s.cur.agent = .warp k w e → brcOk s f → takenSet s f ≠ [] → notTaken s f ≠ [] →
       wantsEject s f → hasContexts s k f →
       let minTaken := decide ((takenSet s f).length ≤ (notTaken s f).length)
       let target := lineAt s f.tdisp f.tslot
       ∃ t, exec (.brc f) s = .next t
         ∧ (t.warp k w).entry e = { (s.warp k w).entry e with
             pc := if minTaken then s.cur.npc else target, mask := maskOf (if minTaken then notTaken s f else takenSet s f), hold := .none, done := 0 }
         ∧ (∀ u ∈ s.pathThreads, ((t.warp k w).thread u).meet = meetOf s f)
         ∧ (∀ u ∈ minority s f, ((t.warp k w).thread u).st = .away
             ∧ ∃ c, c / 64 = (s.team k).core / 4 ∧ (s.rill c).used = false
               ∧ (t.rill c).used = true ∧ (t.rill c).mirror = false ∧ (t.rill c).team = k ∧ (t.rill c).warp = w ∧ (t.rill c).thread = u
               ∧ (t.rill c).pc = (if minTaken then target else s.cur.npc)
               ∧ (∀ i : BitVec 6, Cells.get 0 (t.rill c).v i.toNat = Cells.get 0 (s.warp k w).v (64 * u + i.toNat))
               ∧ (∀ i : BitVec 3, Cells.get false (t.rill c).p i.toNat = Cells.get false (s.warp k w).p (8 * u + i.toNat))
               ∧ (t.rill c).s = (s.warp k w).s ∧ (t.rill c).vstat = ((s.warp k w).thread u).vstat)
         ∧ (∀ c, (s.rill c).used = true → t.rill c = s.rill c)
         ∧ ∀ a, readByte t.mem a = readByte s.mem a)

/-- R183, R184, R185, R159: MEET writes its address into MEET of the active threads and moves only to the next unit; JOIN parks each active thread, none being a straggler, at its own MEET, the value before the pair (where the pair itself changes MEET, the thread stands there and runs on); EXIT makes the active threads EXITED, and the warp ends with its last thread; threads whose guard is false go on at the next slot. -/
def Obligations.MeetJoinAndExit : Prop :=
  ∀ s k w e, s.cur.agent = .warp k w e → e < 8 → ((s.warp k w).entry e).valid = true →
    (∀ f, (Instr.meet f).wf = true → slotPc (meetOf s f) →
      ∃ t, exec (.meet f) s = .next t ∧ OnlyWarp s t k w
        ∧ t.warp k w = { s.warp k w with th := (t.warp k w).th, path := (t.warp k w).path }
        ∧ (t.warp k w).entry e = { (s.warp k w).entry e with pc := s.cur.npc, done := 0, hold := .none }
        ∧ ∀ u, (t.warp k w).thread u = { (s.warp k w).thread u with meet := if u ∈ s.active f.grd then meetOf s f else ((s.warp k w).thread u).meet })
    ∧ (∀ f, (Instr.join f).wf = true → (∀ u ∈ s.active f.grd, (s.rw.thread u).meet ≠ noMeet ∧ ((s.warp k w).thread u).strag = none) →
      ∃ t, exec (.join f) s = .next t ∧ OnlyWarp s t k w
        ∧ (∀ u ∈ s.active f.grd, if ((s.warp k w).thread u).meet = (s.rw.thread u).meet
            then ((t.warp k w).thread u).st = .parked ∧ ((t.warp k w).thread u).pc = (s.rw.thread u).meet
            else StandsAt t k w u (s.rw.thread u).meet)
        ∧ (s.active f.grd ≠ s.pathThreads →
            (t.warp k w).entry e = { (s.warp k w).entry e with
              pc := s.cur.npc, mask := ((s.warp k w).entry e).mask &&& ~~~maskOf (s.active f.grd), done := 0, hold := .none })
        ∧ ∀ r, regVal t r = regVal s r)
    ∧ (∀ f, (Instr.exit f).wf = true →
      ∃ t, exec (.exit f) s = .next t
        ∧ (∀ u ∈ s.active f.grd, ((t.warp k w).thread u).st = .exited)
        ∧ (s.active f.grd ≠ s.pathThreads →
            (t.warp k w).entry e = { (s.warp k w).entry e with
              pc := s.cur.npc, mask := ((s.warp k w).entry e).mask &&& ~~~maskOf (s.active f.grd), done := 0, hold := .none })
        ∧ ((∀ u, u < 32 → u ∈ s.active f.grd ∨ ((s.warp k w).thread u).st = .exited) → (t.warp k w).ended = true)
        ∧ (∀ r, regVal t r = regVal s r) ∧ ∀ a, readByte t.mem a = readByte s.mem a)

/-- R137, R138, R186 to R190: NOP only issues; YIELD, EJCFG, PARTN and IDEM act for the warp when some thread is active, and otherwise only issue: YIELD holds the path max(n, 1) cyc, EJCFG sets EJT and, with a legal register value, RJT, PARTN sets PART, IDEM.on records its own PC as the region entry of a converged warp that holds none, IDEM.off clears it; the prefixes give their target its source classes or its region. -/
def Obligations.PacingFormsAndPrefixesAct : Prop :=
  (∀ f s, Issues s false → ∃ t, exec (.nop f) s = .next t ∧ RegFrame s t fun _ => False)
  ∧ (∀ s ca cb cc, exec (.pfxCl ca cb cc) s = .next { s with cur := { s.cur with pcl := some (ca.toNat, cb.toNat, cc.toNat) } })
  ∧ (∀ s a, exec (.pfxRg a) s = .next { s with cur := { s.cur with prg := some (s.rdS a.idx.toNat) } })
  ∧ ∀ f s k w e, s.cur.agent = .warp k w e →
    let on : Bool := decide (s.active f.grd ≠ [])
    let moved (h : Hold) : Warp → Warp := fun x => x.modEntry e fun p => { p with pc := s.cur.npc, done := 0, hold := h }
    let rjt := s.rdReg s.lowThread f.a true
    exec (.yield f) s = .next (s.modWarp k w (moved (if on then .yieldTill (s.cyc + max f.imm.toNat 1) else .none)))
    ∧ ((on = true → f.x20 = true → 64 ≤ rjt.toNat ∧ rjt.toNat ≤ 2 ^ 20) →
        exec (.ejcfg f) s = .next (s.modWarp k w fun x => moved .none (if on then { x with ejt := f.imm.setWidth 4, rjt := if f.x20 then rjt.setWidth 21 else x.rjt } else x)))
    ∧ exec (.partn f) s = .next (s.modWarp k w fun x => moved .none (if on then { x with part := f.imm.setWidth 3 } else x))
    ∧ ((on = true → (s.warp k w).converged = true ∧ (s.warp k w).idem = none) →
        exec (.idemOn f) s = .next (s.modWarp k w fun x => moved .none
          (if on then { x with idem := some s.cur.ipc, idemAt := s.cyc, idemMask := ((s.warp k w).entry e).mask } else x)))
    ∧ exec (.idemOff f) s = .next (s.modWarp k w fun x => moved .none (if on then { x with idem := none } else x))

/-- R121, R123, R124, R178, R181 to R184, R188, R190, R347: what traps. A target is BADSLOT (0x08) when it names no slot, and BADTGT (0x09) when its line can be read and either has another KIND or does not mark the slot; the first active thread that fails decides, and an encoded target is checked with no thread active too; a meeting address that names no slot is BADSLOT; JOIN without a MEET is NOJOIN (0x10), IDEM.on in a warp that is not converged IDEMDV (0x11), or holds an entry IDEMNEST (0x12), EJCFG with an illegal timeout ILLOP (0x04). The model's choices: that IDEM.on takes IDEMDV before IDEMNEST where both hold (log 13), and that an encoded target is checked with no thread active (log 68). -/
def Obligations.ControlFormsTrap : Prop :=
  (∀ (s : State) pc, (s.checkTarget pc = .bad 8 ↔ ¬ slotPc pc)
    ∧ (slotPc pc → ∀ l pa, s.cLine pc = .ok (l, pa) →
        (s.checkTarget pc = if lineKind (lineWord l) = b2n s.cur.handler ∧ lineTgt (lineWord l) (pc.toNat % 8) = true then .ok else .bad 9)))
  ∧ ∀ s k w e, s.cur.agent = .warp k w e →
    (∀ i f pre u post c, xferFields i = some f → i.wf = true → s.active f.grd = pre ++ u :: post → (∀ v ∈ pre, mayGo s (destOf s v f)) → s.checkTarget (destOf s u f) = .bad c →
      exec i s = .next (s.trapWith c s.cur.ipc 0 (maskOf ((s.active f.grd).filter fun v => s.checkTarget (destOf s v f) == .bad c))))
    ∧ (∀ i f c, xferFields i = some f → i.wf = true → f.tr = false → s.active f.grd = [] → s.pathThreads ≠ [] → s.checkTarget (lineAt s f.tdisp f.tslot) = .bad c →
      exec i s = .next (s.trapWith c s.cur.ipc 0 0))
    ∧ (∀ f, (∀ v ∈ s.active f.grd, mayGo s (destOf s v f)) → ¬ slotPc (meetOf s f) → f.tr = true →
      exec (.brx f) s = .next (s.trapWith 8 s.cur.ipc 0 (maskOf (s.active f.grd))))
    ∧ (∀ f c, s.checkTarget (lineAt s f.tdisp f.tslot) = .bad c → exec (.brc f) s = .next (s.trapWith c s.cur.ipc 0 (maskOf (s.active f.grd))))
    ∧ (∀ f, encodedOk s f → ¬ slotPc (meetOf s f) → exec (.brc f) s = .next (s.trapWith 8 s.cur.ipc 0 (maskOf (s.active f.grd))))
    ∧ (∀ f, ¬ slotPc (meetOf s f) → exec (.meet f) s = .next (s.trapWith 8 s.cur.ipc 0 (maskOf (s.active f.grd))))
    ∧ (∀ f, (s.active f.grd).any (fun u => (s.rw.thread u).meet == noMeet) = true →
      exec (.join f) s = .next (s.trapWith 0x10 0 0 (maskOf ((s.active f.grd).filter fun u => (s.rw.thread u).meet == noMeet))))
    ∧ (∀ f, s.active f.grd ≠ [] →
      ((s.warp k w).converged = false → exec (.idemOn f) s = .next (s.trapWith 0x11 0 0 (maskOf (s.active f.grd))))
      ∧ ((s.warp k w).converged = true → (s.warp k w).idem ≠ none → exec (.idemOn f) s = .next (s.trapWith 0x12 0 0 (maskOf (s.active f.grd))))
      ∧ (f.x20 = true → ¬ (64 ≤ (s.rdReg s.lowThread f.a true).toNat ∧ (s.rdReg s.lowThread f.a true).toNat ≤ 2 ^ 20) →
        exec (.ejcfg f) s = .next (s.trapWith 4 s.cur.ipc 0 (maskOf s.pathThreads))))

namespace Sys2Proof.Claims

/-! Per-thread accesses. -/

/-- The space a form addresses. -/
def spaceOf : Instr → ASpace
  | .lds _ | .sts _ => .spad
  | .ldg _ | .gwin _ => .gal
  | _ => .translated
/-- The home of thread u's access. -/
def homeAt (s : State) (f : MForm) (k : AccKind) (u : Nat) : Home := match s.homeRaw f k u with | .ok h => h | .error _ => .gal 0
/-- No thread's access traps or faults, and none has breached in a part of the unit performed before a fault (R233, R244, R248, R249, R252, R253, R260, R262). -/
def clearAccess (s : State) (f : MForm) (k : AccKind) : Prop := (s.onRill = false → s.cp.rng = 0) ∧ s.accBad f k (s.accThreads f) = none ∧ ∀ u ∈ s.accThreads f, s.homeOf f k u = .ok (homeAt s f k u)
/-- State x with thread u's access at its home: one outside the package uses up the answer to its request, and what writes at a peer its number there (R406, R411, R414). -/
def reached (s x : State) (f : MForm) (k : AccKind) (u : Nat) : State := x.atHome k u (homeAt s f k u)
/-- The threads' accesses reach their homes, and their walks set A, and D for a write (R237). -/
def walked (s : State) (f : MForm) (k : AccKind) : State := (s.accThreads f).foldl (fun x u => (reached s x f k u).touch (homeAt s f k u) k.write) s
/-- No accessed byte is one of a page table entry that the accesses' own walks set bits of. -/
def apart (s : State) (f : MForm) (k : AccKind) : Prop :=
  ∀ u ∈ s.accThreads f, ∀ v ∈ s.accThreads f, ∀ va pa e va' pa' e', homeAt s f k u = .mem va pa e → homeAt s f k v = .mem va' pa' e' → e + 8 ≤ pa' ∨ pa' + k.size ≤ e
/-- A pending write that is before the warp's accesses overlaps what one of them reads, or a poisoned sector that a partial write meets (R254, R309, R311). -/
def hitsOwn (s : State) (f : MForm) (k : AccKind) : Prop :=
  ∃ u ∈ s.accThreads f, ∃ h, s.homeRaw f k u = .ok h ∧ s.pendHits h k.size = true ∧ (k.reads = true ∨ (s.homePoison k h).isSome = true)
/-- The state in which the accesses meet memory: such a write is performed first. -/
def OwnDone (s : State) (f : MForm) (k : AccKind) (s' : State) : Prop :=
  (¬ hitsOwn s f k ∧ s' = s) ∨ (hitsOwn s f k ∧ s' = s.drain s.ownPend ∧ s'.drained s'.ownPend = true)
/-- Nothing makes the accesses wait: no chunk's mapping is changing, no gallery read meets a group in refresh, and the requests of accesses outside the package have been answered (R240, R250, R411, R414). -/
def noWait (s : State) (f : MForm) (k : AccKind) : Prop :=
  ∀ u ∈ s.accThreads f,
    (∀ pa ∈ s.homePas (homeAt s f k u) k.size, s.chunkBusy pa = false)
    ∧ (∀ o, homeAt s f k u = .gal o → k.calendar = true → ¬ (500 * (o / 2 ^ 12 % 8) ≤ s.ns.toNat % 4000 ∧ s.ns.toNat % 4000 < 500 * (o / 2 ^ 12 % 8) + 256))
    ∧ ((homeAt s f k u).leaves = true → (s.cw.thread u).got = true)
/-- Threads whose VSTAT takes the flags of a load or store (R208, R263). -/
def accFlagged (s : State) (f : MForm) : List Nat := if f.mu then (if s.accThreads f = [] then [] else s.pathThreads) else s.accThreads f
/-- Element e of thread u as it lies in memory: z bytes at address + e × z, little-endian (R258, R262). -/
def rawElem (s : State) (f : MForm) (k : AccKind) (u e : Nat) : Nat :=
  let z := dfSize f.df.toNat
  leNat (((s.readHome (homeAt s f k u) (z * nvCount f.nv)).drop (e * z)).take z)
/-- What a load delivers for an element of a real format. -/
def elemDeliv (s : State) (f : MForm) (k : AccKind) (u e : Nat) : Deliv :=
  if 0x80 ≤ f.df.toNat then {} else roundClass (s.cls f.cls.toNat) (decodeF f.df.toNat (rawElem s f k u e), {})
/-- The state after the class counts of an access form: with what it owes from before a fault (R89, R253). -/
def countedAcc (s : State) (c : Nat) (ds : List Deliv) : State :=
  let o := if s.onRill then (0, 0, false) else s.cp.cnt
  (s.setCnt (0, 0, false)).count s.cTask c (ds.foldl (fun n d => n + d.satc) o.1) (ds.foldl (fun n d => n + d.unfc) o.2.1) (o.2.2 || ds.any (·.flg.breach))
/-- A load's elements of one thread. -/
def elems (f : MForm) : List Nat := List.range (nvCount f.nv)
/-- Flags of a list of deliveries. -/
def flagsOf (ds : List Deliv) : Flg := ds.foldl (fun g d => g.or d.flg) {}

end Sys2Proof.Claims

/-- R192, R205, R208, R257, R258, R262 to R265, R309: LD, LDS and LDG, whose accesses neither trap, fault nor wait and whose values do not breach under policy trap, complete: each element of each thread is the bytes at its address, extended by its integer type or delivered through ROUND_CLASS of its class; VSTAT takes the flags, the class counts once, the walks set A, and nothing else changes. An own pending write to those bytes is performed first. R266, R267, R268, R420: GWIN gives each thread the refresh state of its offset's bank group, PRF only issues, CCTL.evict journals the unjournalled sectors of the lines it names and drops a fault; nothing else changes. -/
def Obligations.LoadsWindowsAndPrefetchesComplete : Prop :=
  (∀ i f s, (i = .ld f ∨ i = .lds f ∨ i = .ldg f) → i.wf = true → Issues s f.mu →
       let k := memKind f (spaceOf i) false
       ∀ s', OwnDone s f k s' → clearAccess s' f k → noWait s' f k → apart s' f k →
       (∀ u ∈ s'.accThreads f, ∀ e ∈ elems f, (elemDeliv s' f k u e).trap = false) →
       ∃ t, exec i s = .next t
         ∧ (∀ u ∈ s'.accThreads f, ∀ e ∈ elems f,
             if 0x80 ≤ f.df.toNat then
               holds t (elemSpec f.dst f.df.toNat e) u (dfType f.df.toNat).wide (extendBy (dfType f.df.toNat) (BitVec.ofNat _ (rawElem s' f k u e)))
             else holds t (elemSpec f.dst f.df.toNat e) u false (BitVec.ofNat 64 (elemDeliv s' f k u e).out))
         ∧ (∀ u ∈ accFlagged s' f, orFlags s' t u (flagsOf ((elems f).map (elemDeliv s' f k (if f.mu then s'.lowThread else u)))).bits)
         ∧ RegFrame (countedAcc (walked s' f k) f.cls.toNat ((s'.accThreads f).flatMap fun u => (elems f).map (elemDeliv s' f k u))) t fun r =>
             (∃ u ∈ s'.accThreads f, ∃ e ∈ elems f, r ∈ dstRegs (elemSpec f.dst f.df.toNat e) u (dfSize f.df.toNat == 8)) ∨ ∃ u ∈ accFlagged s' f, r = .vst u)
  ∧ ((∀ f s, (Instr.gwin f).wf = true → Issues s f.mu → clearAccess s f { space := .gal, size := 1, align := 1 } →
       ∃ t, exec (.gwin f) s = .next t
         ∧ (∀ u ∈ s.accThreads f, holds t f.dst u false (BitVec.ofNat 64
             (let off := (s.mOff f u).toNat
              let g := off / 2 ^ 12 % 8
              let phi := (s.ns.toNat + 4000 * 8 - 500 * g) % 4000
              (if phi < 256 then 2 ^ 31 + (256 - phi) else 4000 - phi) + off / 2 ^ 29 % 4 * 2 ^ 24 + g * 2 ^ 16)))
         ∧ RegFrame (countedAcc s f.cls.toNat []) t fun r => ∃ u ∈ s.accThreads f, r ∈ dstRegs f.dst u false)
     ∧ (∀ i f s, (i = .prfFill f ∨ i = .prfXlat f) → Issues s false → ∃ t, exec i s = .next t ∧ RegFrame s t fun _ => False)
     ∧ (∀ f s, Issues s false →
         let sectors := ((s.accThreads f).filterMap fun u =>
           match s.homeOf f { size := 32, elt := 32, align := 1, reads := false } u with | .ok (.mem _ pa _) => some (pa / 256 * 8) | _ => none).flatMap fun b => (List.range 8).map (b + ·)
         ∃ t, exec (.cctlEvict f) s = .next t ∧ RegFrame (sectors.foldl State.journalSector s) t fun _ => False))

namespace Sys2Proof.Claims

/-- The state in which a form with an order performs its own access: with a releasing order at .tm, after the warp's earlier writes are before its team's later accesses; at a wider scope, after they are performed, and its virtual device's sectors are durable at .rc (R307, R311, R319). -/
def Released (s : State) (o : Order) (sc : Scope) (s' : State) : Prop :=
  if o = .rlx ∨ o = .acq ∨ sc = .wp then s' = s
  else if sc = .tm then s' = { s with pend := s.pend.map fun p => if s.ownPend p = true then { p with team_ := true } else p }
  else s' = s.drain s.ownPend ∧ s'.drained s'.ownPend = true ∧ (sc = .rc → s'.durable s'.cVdev = true)
/-- One stored element and its flags: the low bits of an integer register, or CONVERT of the class value (R262). -/
def storedElem (s : State) (f : MForm) (u e : Nat) : Nat × Flg :=
  let df := f.df.toNat
  let x := s.rdReg u (elemSpec f.c df e) (dfSize df == 8)
  if 0x80 ≤ df then (x.toNat % 2 ^ (8 * dfSize df), {}) else convert false df (classRead (s.cls f.cls.toNat) x.toNat)
/-- The bytes thread u stores. -/
def storedBytes (s : State) (f : MForm) (u : Nat) : List Byte := (elems f).flatMap fun e => leBytes (dfSize f.df.toNat) (storedElem s f u e).1
/-- The state after the threads' accesses of elements of z bytes: the walks set A and D; writes to scratchpad, private, host and peer memory are performed in ascending thread; those to device memory wait for their homes in `pend` (R260, R309; log 9). -/
def storedAt (s : State) (f : MForm) (k : AccKind) (z : Nat) (bs : Nat → List Byte) : State := (s.accThreads f).foldl (fun x u => (reached s x f k u).store (homeAt s f k u) z (bs u)) s
/-- A write that waits to be performed at its home. -/
def pendOf (s : State) (va pa : Nat) (bs : List Byte) : Pend :=
  { task := s.cTask, team := s.cTeam, num := (s.team s.cTeam).num, core := (s.team s.cTeam).core, warp := s.cWarp, vdev := s.cVdev,
    va := va, span := s.spanOf s.cVdev va, pa := pa, data := bs }

end Sys2Proof.Claims

/-- R208, R257 to R264, R268: ST, STS and CCTL.zero, whose accesses neither trap, fault nor wait, complete once their order allows: the register values' bytes of every thread are stored in ascending thread index, VSTAT takes the flags of the conversions, no class is counted, and nothing else changes; CCTL.zero stores eight sectors of zeros. -/
def Obligations.StoresWriteTheirBytes : Prop :=
  (∀ i f s s₁ s', (i = .st f ∨ i = .sts f) → i.wf = true → Issues s f.mu →
    let k := memKind f (spaceOf i) true
    Released s f.order (s.scopeOf f k) s₁ → OwnDone s₁ f k s' → clearAccess s' f k → noWait s' f k →
    ∃ t, exec i s = .next t
      ∧ (∀ u ∈ accFlagged s' f, orFlags s' t u ((elems f).foldl (fun (g : Flg) e => g.or (storedElem s' f (if f.mu then s.lowThread else u) e).2) {}).bits)
      ∧ RegFrame (countedAcc (storedAt s' f k (dfSize f.df.toNat) (storedBytes s' f)) f.cls.toNat []) t fun r => ∃ u ∈ accFlagged s' f, r = .vst u)
  ∧ (∀ f s s', (Instr.cctlZero f).wf = true → Issues s false →
    let k : AccKind := { size := 256, elt := 32, align := 256, write := true, reads := false }
    Released s f.order (s.scopeOf f k) s' → clearAccess s' f k → noWait s' f k →
    ∃ t, exec (.cctlZero f) s = .next t ∧ RegFrame (countedAcc (storedAt s' f k 32 fun _ => List.replicate 256 0) f.cls.toNat []) t fun _ => False)

namespace Sys2Proof.Claims

/-- PA of a byte of the issuing warp's private space: the byte I mod 65,536 of page I / 65,536 of its private page list, I being its index (R252). -/
def privAt (s : State) (o l : Nat) : Nat := let i := o / 4 * 128 + 4 * l + o % 4; s.cw.pages.getD (i / 65536) 0 + i % 65536

end Sys2Proof.Claims

namespace Sys2Proof.Claims

/-- What an atomic leaves for an old value (R323), on numbers of w bits. -/
def r323 (op : AtomOp) (w : Nat) (sg : Bool) (old c : BitVec w) : BitVec w :=
  let le (x y : BitVec w) : Bool := if sg then x.sle y else x.ule y
  match op with
  | .add => old + c
  | .min => if le old c then old else c
  | .max => if le c old then old else c
  | .and => old &&& c
  | .or => old ||| c
  | .xor => old ^^^ c
  | .exch => c
  | .incw => if c.ule old then 0 else old + 1
  | .decw => if old = 0 ∨ c.ult old = true then c else old - 1
/-- The value at thread u's home, of the form's integer type. -/
def oldAt (x s : State) (f : MForm) (k : AccKind) (u : Nat) : BitVec (dfType f.df.toNat).width := BitVec.ofNat _ (leNat (x.readHome (homeAt s f k u) (dfSize f.df.toNat)))
/-- A register operand of an atomic. -/
def opdOf (s : State) (f : MForm) (sp : Spec) (u : Nat) : BitVec (dfType f.df.toNat).width := (s.rdReg u sp (dfType f.df.toNat).wide).setWidth _
/-- One thread's ATOM or ACAS at its home in state x; s is the state the form reads its registers in. -/
def rmwStep (s : State) (i : Instr) (f : MForm) (k : AccKind) (x : State) (u : Nat) : State :=
  let z := dfSize f.df.toNat
  let x := reached s x f k u
  match i with
  | .atom op _ => x.rmwAt (homeAt s f k u) (leBytes z (r323 op _ (dfType f.df.toNat).signed (oldAt x s f k u) (opdOf s f f.c u)).toNat)
  | _ => if oldAt x s f k u = opdOf s f f.dst u then x.rmwAt (homeAt s f k u) (leBytes z (opdOf s f f.c u).toNat) else x.rmwKeep (homeAt s f k u) z

end Sys2Proof.Claims

/-- R323, R324, R327, R374, R411: ATOM and ACAS, whose accesses neither trap, fault nor wait, and whose pages are ready for a first write, complete after the warp's earlier writes: the active threads' operations are performed whole, one after another in ascending index; each thread receives the value its own operation found, extended by its type; ACAS stores only where that equals its compare value; nothing else changes. -/
def Obligations.AtomicsExchangeInThreadOrder : Prop :=
  ∀ i f s, ((∃ op, i = .atom op f) ∨ i = .acas f) → i.wf = true → Issues s f.mu →
    let s' := s.drain s.ownPend
    let k := rmwKind f (dfSize f.df.toNat)
    s'.drained s'.ownPend = true →
    (f.order ≠ .rlx → f.order ≠ .acq → f.scope = .rc → s'.durable s'.cVdev = true) →
    clearAccess s' f k → noWait s' f k → (s'.rmwReady ((s'.accThreads f).map fun u => (u, homeAt s' f k u))).isNone = true →
    let after (us : List Nat) : State := us.foldl (rmwStep s' i f k) s'
    ∃ t, exec i s = .next t
      ∧ (∀ pre u post, s'.accThreads f = pre ++ u :: post →
          holds t f.dst u (dfType f.df.toNat).wide (extendBy (dfType f.df.toNat) (oldAt (after pre) s' f k u)))
      ∧ RegFrame (countedAcc (after (s'.accThreads f)) f.cls.toNat []) t fun r => ∃ u ∈ s'.accThreads f, r ∈ dstRegs f.dst u (dfType f.df.toNat).wide

/-- R244, R252, R260, R309: where the stored bytes go. A store to scratchpad or private memory writes exactly its bytes, the highest thread's last; every other byte reads as before. A store to device memory changes no byte but the A and D bits that a walk sets in its page table entry; its elements wait in order, each an access of its own, to be performed at their home (log 9, the model's choice). One to host or peer memory, whose answer its unit has awaited, writes its bytes at once. R254, R309, R323: a read-modify-write performed at a home in translated memory writes exactly its bytes there: they read back, and every other byte reads as before but the A and D bits that a walk sets in the page table entry; a wholly covered sector loses its poison. -/
def Obligations.ReadModifyWritesAndStoreAddresses : Prop :=
  ((∀ (s : State) m o z bs, (s.store (.spad m o) z bs).mem = s.mem ∧ (s.store (.spad m o) z bs).pend = s.pend
       ∧ ∀ j a, readByte ((s.store (.spad m o) z bs).team j).spad a = if j = m ∧ o ≤ a ∧ a < o + bs.length then bs.getD (a - o) 0 else readByte (s.team j).spad a)
     ∧ (∀ (s : State) o l z bs, (s.store (.priv o l) z bs).pend = s.pend
       ∧ (∀ j, j < bs.length → (∀ i, j < i → i < bs.length → privAt s (o + i) l ≠ privAt s (o + j) l) → readByte (s.store (.priv o l) z bs).mem (privAt s (o + j) l) = bs.getD j 0)
       ∧ ∀ a, (∀ j, j < bs.length → a ≠ privAt s (o + j) l) → readByte (s.store (.priv o l) z bs).mem a = readByte s.mem a)
     ∧ (∀ (s : State) va pa e z bs, paSpace pa = .hbm →
       (s.store (.mem va pa e) z bs).pend = s.pend ++ (List.range (bs.length / z)).map (fun i =>
           pendOf (s.touch (.mem va pa e) true) (va + z * i) (pa + z * i) ((bs.drop (z * i)).take z))
       ∧ (∀ a, ¬ (e ≤ a ∧ a < e + 8) → readByte (s.store (.mem va pa e) z bs).mem a = readByte s.mem a)
       ∧ readLe (s.store (.mem va pa e) z bs).mem e 8 = if e < 2 ^ 56 then readLe s.mem e 8 ||| 0x60 else readLe s.mem e 8)
     ∧ (∀ (s : State) va pa e z bs, paSpace pa ≠ .hbm → (e + 8 ≤ pa ∨ pa + bs.length ≤ e) →
       (s.store (.mem va pa e) z bs).pend = s.pend ∧ readBytes (s.store (.mem va pa e) z bs).mem pa bs.length = bs
       ∧ ∀ a, ¬ (pa ≤ a ∧ a < pa + bs.length) → ¬ (e ≤ a ∧ a < e + 8) → readByte (s.store (.mem va pa e) z bs).mem a = readByte s.mem a))
  ∧ (∀ (s : State) va pa e bs, (e + 8 ≤ pa ∨ pa + bs.length ≤ e) →
       (∀ j, j < bs.length → readByte (s.rmwAt (.mem va pa e) bs).mem (pa + j) = bs.getD j 0)
       ∧ (∀ a, ¬ (pa ≤ a ∧ a < pa + bs.length) → ¬ (e ≤ a ∧ a < e + 8) → readByte (s.rmwAt (.mem va pa e) bs).mem a = readByte s.mem a)
       ∧ readLe (s.rmwAt (.mem va pa e) bs).mem e 8 = (if e < 2 ^ 56 then readLe s.mem e 8 ||| 0x60 else readLe s.mem e 8)
       ∧ (∀ q, (s.rmwAt (.mem va pa e) bs).poison.contains q = (s.poison.contains q && !(decide (pa ≤ 32 * q ∧ 32 * q + 32 ≤ pa + bs.length))))
       ∧ (s.rmwAt (.mem va pa e) bs).teams = s.teams ∧ (s.rmwAt (.mem va pa e) bs).pend = s.pend)

/-- R325, R326: RED and FRED complete once their order allows, in device memory by a reduction that waits for its home (log 9, the model's choice), elsewhere at once; FRED whose DF names another format than its class's traps FRFMT, cause 0x19; nothing else changes. R309, R374, R411: ACCESS_PERFORMED_AT_HOME takes a write of a warp none of whose earlier ones still wait, nor one that its team has published, when its page has or can have its snapshot: its bytes stand at its address, a reduction's by its operation on the old value; every other byte reads as before and the write waits no longer. One that cannot be performed stays. A thread's request to host memory enters the CXL port while fewer than 1,024 are there, and waits else; one to a peer is answered. -/
def Obligations.ReductionsAndAccessesArePerformed : Prop :=
  ((∀ f s s₁ s', Issues s f.mu →
       (∀ op, (Instr.red op f).wf = true → let k := rmwKind f (dfSize f.df.toNat)
         Released s f.order (s.scopeOf f k) s₁ → OwnDone s₁ f k s' → clearAccess s' f k → noWait s' f k →
         ∃ t, exec (.red op f) s = .next t
           ∧ RegFrame (countedAcc ((s'.accThreads f).foldl (fun x u =>
               (reached s' x f k u).reduce (homeAt s' f k u) op.code f.df.toNat 0 (dfSize f.df.toNat) (s'.rdReg u f.c (dfType f.df.toNat).wide)) s') f.cls.toNat []) t fun _ => False)
       ∧ (∀ op, (Instr.fred op f).wf = true →
         let fm := (s.cls f.cls.toNat).fmt
         (f.df.toNat ≠ 0 → f.df.toNat ≠ fm → exec (.fred op f) s = .next (s.trapWith 0x19 (BitVec.ofNat 64 f.df.toNat) 0 (maskOf (s.active f.grd))))
         ∧ ((f.df.toNat = 0 ∨ f.df.toNat = fm) → let k := rmwKind f (fmtBits fm / 8)
           Released s f.order (s.scopeOf f k) s₁ → OwnDone s₁ f k s' → clearAccess s' f k → noWait s' f k →
           ∃ t, exec (.fred op f) s = .next t
             ∧ RegFrame (countedAcc ((s'.accThreads f).foldl (fun x u =>
                 (reached s' x f k u).reduce (homeAt s' f k u) op.code 0 f.cls.toNat (fmtBits fm / 8) (s'.rdReg u f.c false)) s') f.cls.toNat []) t fun _ => False)))
     ∧ (∀ (s : State) va pa e op df cls z x, paSpace pa = .hbm → ∃ p, (s.reduce (.mem va pa e) op df cls z x).pend = s.pend ++ [p]
         ∧ p = { pendOf s va pa (List.replicate z 0) with red := some (op, df, cls, x) }
         ∧ ∀ a, ¬ (e ≤ a ∧ a < e + 8) → readByte (s.reduce (.mem va pa e) op df cls z x).mem a = readByte s.mem a)
     ∧ (∀ (s : State) va pa e op df z x, paSpace pa ≠ .hbm → (e + 8 ≤ pa ∨ pa + z ≤ e) → 0x80 ≤ df → 0 < z → readLe (s.reduce (.mem va pa e) op df 0 z x).mem pa z =
         (r323 (redAtom (redOfNat op)) (8 * z) (df % 2 == 0) (BitVec.ofNat _ (readLe s.mem pa z)) (x.setWidth _)).toNat)
     ∧ (∀ (s : State) m o op df z x, 0x80 ≤ df → 0 < z → readLe ((s.reduce (.spad m o) op df 0 z x).team m).spad o z =
         (r323 (redAtom (redOfNat op)) (8 * z) (df % 2 == 0) (BitVec.ofNat _ (readLe (s.team m).spad o z)) (x.setWidth _)).toNat))
  ∧ (∀ (s : State) n p, s.pend[n]? = some p →
       (p.ask = none → (∀ q ∈ s.pend.take n, q.ask = none → ¬ (q.team = p.team ∧ (q.warp = p.warp ∨ q.team_ = true))) → s.pendReady p = true →
         ∃ t, exec (.accessPerformedAtHome n) s = .next t ∧ t.pend = s.pend.eraseIdx n ∧ t.teams = s.teams
           ∧ (∀ a, ¬ (p.pa ≤ a ∧ a < p.pa + p.data.length) → readByte t.mem a = readByte s.mem a)
           ∧ (p.red = none → readBytes t.mem p.pa p.data.length = p.data)
           ∧ (∀ op df cls x, p.red = some (op, df, cls, x) → 0x80 ≤ df → 0 < p.data.length →
               readLe t.mem p.pa p.data.length = (r323 (redAtom (redOfNat op)) (8 * p.data.length) (df % 2 == 0) (BitVec.ofNat _ (readLe s.mem p.pa p.data.length)) (x.setWidth _)).toNat)
           ∧ (∀ op df cls x, p.red = some (op, df, cls, x) → df < 0x80 →
               readBytes t.mem p.pa p.data.length = leBytes p.data.length
                 (roundClass ((s.task p.task).launch.clsAt cls) (let o := classRead ((s.task p.task).launch.clsAt cls) (readLe s.mem p.pa p.data.length)
                   let c := classRead ((s.task p.task).launch.clsAt cls) x.toNat
                   match fredOfNat op with | .add => rAdd o c | .min => rMinMax false o c | .max => rMinMax true o c)).out))
       ∧ (p.ask = none → s.pendReady p = false → ∃ t, exec (.accessPerformedAtHome n) s = .next t ∧ t.pend = s.pend ∧ ∀ a, readByte t.mem a = readByte s.mem a)
       ∧ (∀ u own, p.ask = some (u, own) → paSpace p.pa = .host → exec (.accessPerformedAtHome n) s = .next (if s.cxl.length < 1024 then
           { s with pend := s.pend.eraseIdx n, cxl := s.cxl ++ [{ id := s.cxlNext, pend := p, owner := own }], cxlNext := s.cxlNext + 1 } else s))
       ∧ (∀ u own, p.ask = some (u, own) → paSpace p.pa ≠ .host → ({ s with pend := s.pend.eraseIdx n } : State).asking p.team p.warp [u] = false →
           ∃ t, exec (.accessPerformedAtHome n) s = .next t ∧ t.pend = s.pend.eraseIdx n ∧ ((t.warp p.team p.warp).thread u).got = true ∧ t.mem = s.mem ∧ t.cxl = s.cxl))

/-- R233, R244, R248, R249, R252, R253, R260, R347: what an access traps on, before any thread's access. A reserved region is REGN (0x20), a private offset at or above the launch's bound PRIVB (0x26), a scratchpad address outside its area SCRB (0x21), a gallery offset GALVD forbids GALP (0x24); then a narrow read-modify-write through a window is WINSC (0x23), then an unaligned address MISAL (0x27). TINFO is the lowest such thread's offset, TINFO2 the region of a translated form. That PRIVB and WINSC go before MISAL, and that each check is of all threads before the next, is the model's choice (log 15; R264 and R265 order SCRB and GALP before MISAL). A translation fault stops the warp and asks for a fault slot. -/
def Obligations.AddressesTrapBeforeAnyAccess : Prop :=
  ∀ (s : State) f k act,
    let ts := s.accThreads f
    let r := s.accRegion f
    let trap (c : Nat) (bad : List Nat) : Out := .next (s.trapWith c (s.mOff f (bad.headD 0)) (if k.space = .translated then BitVec.ofNat 64 r else 0) (maskOf bad))
    let misal := ts.filter fun u => (s.mOff f u).toNat % k.align != 0
    (k.space = .translated → 0xFF00 ≤ r → r < 0xFFFF → ts ≠ [] → s.access f k act = trap 0x20 ts)
    ∧ (k.space = .translated → r = 0xFFFF → ∀ bad, bad = ts.filter (fun u => decide (s.cLaunch.adm.pmax ≤ (s.mOff f u).toNat)) → bad ≠ [] → s.access f k act = trap 0x26 bad)
    ∧ (k.space = .spad → ∀ bad, bad = ts.filter (fun u => (s.spadOf s.cTeam (s.mOff f u)).isNone) → bad ≠ [] → s.access f k act = trap 0x21 bad)
    ∧ (k.space = .gal → ∀ bad, bad = ts.filter (fun u => !s.galOk s.cVdev (s.mOff f u).toNat) → bad ≠ [] → s.access f k act = trap 0x24 bad)
    ∧ (k.space = .spad → k.rmw = true → k.narrow = true → (∀ u ∈ ts, (s.spadOf s.cTeam (s.mOff f u)).isSome = true) →
        ∀ bad, bad = ts.filter (fun u => (s.mOff f u).getLsbD 22) → bad ≠ [] → s.access f k act = trap 0x23 bad)
    ∧ (k.space = .translated → r < 0xFF00 → misal ≠ [] → s.access f k act = trap 0x27 misal)
    ∧ (∀ u e j w en, s.cur.agent = .warp j w en → s.accBad f k ts = none → ts = [u] → s.homeOf f k u = .error e → e ≠ .xbar →
        let d := coreDie (s.team j).core
        ∃ t x, s.access f k act = .next t ∧ t.cur.stop = true ∧ t.mem = s.mem ∧ t.pend = s.pend ∧ (t.warp j w).fault = some (d, 1024)
          ∧ (t.die d).faultQ = (s.die d).faultQ ++ [x] ∧ x.by_ = .warp j w en ∧ x.kind = e.kind ∧ x.cause = e.cause
          ∧ x.va = r * 2 ^ 64 + (s.mOff f u).toNat ∧ x.mask = maskOf [u] ∧ x.pc = s.cur.upc)

namespace Sys2Proof.Claims

/-! Copies and timelines. -/

/-- The copy a class K form asks for, with the team's side operands read (R270, R273). -/
def copyAsked (s : State) : Instr → Option (KForm × Copy)
  | .cpy f => some (f, s.copyOf .cpy f)
  | .cpym f => some (f, s.copyOf .cpym f)
  | .cpygFrom f => some (f, s.copyOf .cpygFrom f)
  | .cpygTo f => some (f, s.copyOf .cpygTo f)
  | .cpygLoad f => some (f, s.copyOf .cpygLoad f)
  | .cpyxPut f => some (f, s.copyOf .cpyxPut f)
  | .cpyxGet f => some (f, s.copyOf .cpyxGet f)
  | _ => none
/-- The number after the last of counter n of team k. -/
def nextNumber (s : State) (k n : Nat) : W64 := ((s.team k).tlAt n).iss + 1
/-- A copy or marker takes the next number of its counter in team k (R272, R279). -/
def numbered (s : State) (k : Nat) (c : Copy) : State :=
  s.modTeam k fun t => { t with tl := Cells.set {} t.tl c.tl { (t.tlAt c.tl) with iss := nextNumber s k c.tl }, copies := t.copies ++ [{ c with num := (nextNumber s k c.tl).toNat }] }

end Sys2Proof.Claims

/-- R272: DONE passes completed numbers in order: completing number n above DONE leaves DONE at the last number all of whose predecessors are complete. R270 to R274: a copy with an active thread completes its issue when no check of R271 fails and its context holds fewer than 16: after the warp's earlier writes it takes the counter's next number and joins the team's copies, one of length 0 completing once everything below it has; a copy that fails a check takes no number and raises the first failure, CPYARG (0x2F) with the code, or SCRB or GALP, or, by the model's choice (log 17: R271's table has no REGN, R233 gives it to every access), REGN with the region in TINFO2. -/
def Obligations.CopiesTakeNumbersInOrder : Prop :=
  (∀ (c : Tl) n, c.done.toNat < n → c.done.toNat + c.early.length + 2 < 2 ^ 64 →
       let c' := c.complete n
       (∀ j, c.done.toNat < j → j ≤ c'.done.toNat → j = n ∨ j ∈ c.early)
       ∧ c.done.toNat ≤ c'.done.toNat
       ∧ ¬ (c'.done.toNat + 1 = n ∨ c'.done.toNat + 1 ∈ c.early)
       ∧ (∀ j, c'.done.toNat < j → (j ∈ c'.early ↔ j = n ∨ j ∈ c.early))
       ∧ c'.iss = c.iss ∧ c'.base = c.base ∧ c'.scope = c.scope ∧ c'.owner = c.owner)
  ∧ (∀ i f s k w e c, s.cur.agent = .warp k w e → copyAsked s i = some (f, c) → s.active f.grd ≠ [] →
       (s.copyBad c = none → ((s.team k).tlAt c.tl).open_ < 16 →
         let s' := s.drain s.ownPend
         s'.drained s'.ownPend = true →
         exec i s = .next ((if c.len = 0 then (numbered s' k c).markers k c.tl ((s'.team k).copies.length + 1) else numbered s' k c).applyWr []).advance)
       ∧ (∀ cause info, s.copyBad c = some (cause, info) → exec i s = .next (s.trapWith cause info (if cause = 0x20 then (if c.dst.regn then c.dst.region else c.src.region) else 0) (maskOf (s.active f.grd))))
       ∧ (let o := ((s.team k).tlAt c.tl).owner
          let placed := (o = 1 ∨ o = 2) ∧ c.dst.regn = false ∧ c.src.regn = false
          (¬ (o = 1 ∨ o = 2) → s.copyBad c = some (0x2F, 1))
          ∧ (placed → (c.len % 4 ≠ 0 ∨ 2 ^ 30 < c.len) → s.copyBad c = some (0x2F, 2))
          ∧ (placed → c.len % 4 = 0 → c.len ≤ 2 ^ 30 → (c.dst.addr.toNat % 4 ≠ 0 ∨ c.src.addr.toNat % 4 ≠ 0) → s.copyBad c = some (0x2F, 3))
          ∧ (s.copyBad c = none → c.len % 4 = 0 ∧ c.len ≤ 2 ^ 30 ∧ c.needScope ≤ ((s.team k).tlAt c.tl).scope ∧ s.sideOverlap k c = false)))

/-- R244, R273, R275, R276, R411: COPY_CHUNK_DONE performs the lowest 2 KiB chunk neither complete nor sent (that chunks complete in that order is the model's choice, log 71) of a copy of a resident team whose gang stands whole, while fewer than four are in flight. A chunk that writes or reads host memory is only sent, one that must wait changes nothing. Between scratchpad areas the chunk's bytes arrive at the destination and nothing else of any team changes; the last chunk ends the copy and completes its number; a gallery destination whose die is not open faults GALW, which stops the copy. -/
def Obligations.CopyChunksMoveTheirBytes : Prop :=
  ∀ (s : State) k num n c, (s.team k).copyAt n num = some c → (s.team k).st = .resident → s.peersAway k = false → c.kind ≠ .marker → c.len ≠ 0 → c.stopped = false → c.nextChunk < c.nChunks →
    (4 ≤ c.sent.length → exec (.copyChunkDone k num n) s = .next s)
    ∧ (c.sent.length < 4 →
    let j := c.nextChunk
    let c' := { c with chunks := c.chunks ++ [j], sent := c.sent.filter (· != j) }
    (∀ s', s.chunk k c j false = .done s' →
      let s'' := s'.modTeam k fun t => { t with copies := t.copies.map fun x => if x.tl = c.tl ∧ x.num = c.num then c' else x }
      exec (.copyChunkDone k num n) s = .next (if c.nChunks ≤ c.chunks.length + 1 then s''.copyEnd k c' else s''))
    ∧ (∀ s', s.chunk k c j false = .sent s' →
      exec (.copyChunkDone k num n) s = .next (s'.modTeam k fun t => { t with copies := t.copies.map fun x => if x.tl = c.tl ∧ x.num = c.num then { x with sent := x.sent ++ [j] } else x }))
    ∧ (s.chunk k c j false = .held → exec (.copyChunkDone k num n) s = .next s)
    ∧ (∀ m o m' o', c.kind = .cpy → c.dst.sel = 5 → c.src.sel = 5 → s.sideSpad k c.dst = some (m, o) → s.sideSpad k c.src = some (m', o') →
      ∃ s', s.chunk k c j false = .done s' ∧ readBytes (s'.team m).spad (o + 2048 * j) (c.chunkLen j) = readBytes (s.team m').spad (o' + 2048 * j) (c.chunkLen j)
        ∧ (∀ x a, (x ≠ m ∨ a < o + 2048 * j ∨ o + 2048 * j + c.chunkLen j ≤ a) → readByte (s'.team x).spad a = readByte (s.team x).spad a)
        ∧ s'.mem = s.mem)
    ∧ (∀ f va, s.chunk k c j false = .fault f va → f ≠ .xbar →
      ∃ t x, exec (.copyChunkDone k num n) s = .next t ∧ t.mem = s.mem ∧ (t.die (coreDie (s.team k).core)).faultQ = (s.die (coreDie (s.team k).core)).faultQ ++ [x]
        ∧ x.by_ = .copy k c.num c.tl ∧ x.va = va ∧ x.kind = f.kind ∧ x.cause = f.cause
        ∧ ∀ y ∈ (t.team k).copies, y.tl = c.tl → y.num = c.num → y.stopped = true)
    ∧ (c.kind = .cpygTo → (s.die ((c.dst.addr.toNat + 2048 * j) / 2 ^ 29 % 4)).galOpen = false →
      ∀ bs l s', s.chunkRead k c j = .ok (bs, l, s') → s.chunkHeld c (2048 * j) bs.length l = false → (∀ x ∈ l, paSpace x.2.1 ≠ .host) →
        s.chunk k c j false = .fault .galw (c.dst.addr.toNat + 2048 * j)))

namespace Sys2Proof.Claims

/-- The counter a class S timeline form names, in the issuing team. -/
def counter (s : State) (k : Nat) (f : SForm) : Tl := (s.team k).tlAt f.a.idx.toNat
/-- The number TLW names: a register, or ISS less IMM; a path that waits there keeps the number it read (R277). -/
def tlwNumber (s : State) (k : Nat) (f : SForm) : Nat :=
  let read := if f.bi then (counter s k f).iss.toNat - f.imm.toNat else (s.rdReg s.lowThread f.b true).toNat
  match s.cp.hold with | .tl j n => if j = f.a.idx.toNat then n else read | _ => read

end Sys2Proof.Claims

/-- R277 to R280, R361: on a used counter, TLW completes once DONE has reached its number and no CPYFLT is pending at or below it, waits while it has not, and raises TLFUT (0x31) for a number its team has not issued; TLQ gives DONE or ISS; TLMK, after the warp's earlier writes, takes the next number for a marker and gives it to its destination; a form on an unused counter raises TLUSE (0x32). -/
def Obligations.TimelineFormsReadAndWait : Prop :=
  ∀ f s k w e, s.cur.agent = .warp k w e → s.active f.grd ≠ [] →
    let c := counter s k f
    let n := tlwNumber s k f
    (c.owner = 0 → ∀ i, i ∈ [Instr.tlw f, .tlqDone f, .tlqIss f, .tlmk f] → exec i s = .next (s.trapWith 0x32 (BitVec.ofNat 64 f.a.idx.toNat) 0 (maskOf (s.active f.grd))))
    ∧ (c.owner ≠ 0 →
      ((c.owner ≤ 3 → n ≤ c.iss.toNat) → n ≤ c.done.toNat → (∀ x ∈ c.cpyflt, n < x.1) → ∃ t, exec (.tlw f) s = .next t ∧ RegFrame s t fun _ => False)
      ∧ (c.owner ≤ 3 → c.iss.toNat < n → exec (.tlw f) s = .next (s.trapWith 0x31 (BitVec.ofNat 64 f.a.idx.toNat) 0 (maskOf (s.active f.grd))))
      ∧ ((c.owner ≤ 3 → n ≤ c.iss.toNat) → c.done.toNat < n → exec (.tlw f) s = .next (s.wait (.tl f.a.idx.toNat n)))
      ∧ ((Instr.tlqDone f).wf = true → ∃ t, exec (.tlqDone f) s = .next t ∧ holds t f.dst 0 true c.done ∧ RegFrame s t fun r => r ∈ dstRegs f.dst 0 true)
      ∧ ((Instr.tlqIss f).wf = true → ∃ t, exec (.tlqIss f) s = .next t ∧ holds t f.dst 0 true c.iss ∧ RegFrame s t fun r => r ∈ dstRegs f.dst 0 true)
      ∧ ((Instr.tlmk f).wf = true → c.scope ≤ f.scope.code → c.open_ < 16 →
          let s' := s.drain s.ownPend
          s'.drained s'.ownPend = true →
          let m : Copy := { kind := .marker, tl := f.a.idx.toNat, scope := f.scope.code }
          ∃ t, exec (.tlmk f) s = .next t ∧ holds t f.dst 0 true (nextNumber s k f.a.idx.toNat)
            ∧ RegFrame ((numbered s' k m).markers k f.a.idx.toNat ((s'.team k).copies.length + 1)) t fun r => r ∈ dstRegs f.dst 0 true))

namespace Sys2Proof.Claims

/-! The matrix engine. -/

/-- Orders 1 and 2 of R290 and the line's rule (R301): an active thread, a tile the line may name and no handler in its way, HELD, with an open batch, and room for one operation more (R286). -/
def mxOpen (s : State) (k : Nat) (f : XForm) : Prop :=
  s.active f.grd ≠ [] ∧ (s.cur.handler = true ↔ 8 ≤ f.ta.toNat) ∧ (s.cur.handler = false → ∀ w ∈ (s.team k).warps, w.2.handler = none)
  ∧ (s.team k).holds f.ta.toNat = true ∧ ((s.team k).openBatch f.ta.toNat).isSome = true ∧ s.mxRoom k = true
/-- An operation enters the open batch of its tile, a candidate from this cyc (R286); a pass or MZRO sets the tile's issue orientation (R290). -/
def entered (s : State) (k : Nat) (f : XForm) (orient : Option Nat) (o : MxOp) : State :=
  s.modTeam k fun t => { t with
    batch := t.batch.map fun b => if b.tile = f.ta.toNat ∧ b.isOpen = true then { b with ops := b.ops ++ [{ o with since := s.cyc }] } else b,
    tiles := match orient with | some x => Cells.modify {} t.tiles f.ta.toNat fun l => { l with issue := x } | none => t.tiles }
/-- An s or k operand of a class X form. -/
def xOpd (s : State) (sp : Spec) : W64 := s.rdReg s.lowThread sp true
/-- V, and NBLK + 1 of a conversion word (R292). -/
def convWord (w : W64) : Nat × Nat := (w.toNat % 2 ^ 23, w.toNat / 2 ^ 32 % 2 ^ 12 + 1)

end Sys2Proof.Claims

/-- R286, R290, R292, R293, R295 to R297, R303: MZRO, MEAS, MCVT, MMA, MMAT and MDRN, whose checks pass, complete their issue after the warp's earlier writes: the operation enters the tile's open batch with the operands read at issue, MCVT writes its destination's header, a pass sets the tile's issue orientation, and nothing else changes; MDRN's LD and range are checked by the orientation the tile has at issue (log 20, the model's choice). On a tile that is not HELD MZRO raises MXTILE (0x38), without an open batch MXNOB (0x39); a form whose line may not name its tile raises ILLOP (0x04) whatever its guard. -/
def Obligations.MatrixFormsEnterTheirBatch : Prop :=
  ∀ f s k w e, s.cur.agent = .warp k w e →
    let a := xOpd s f.a
    let b := xOpd s f.b
    let c := xOpd s f.c
    let b' := s.cls f.cls.toNat
    let ca := s.clsFor f.cls.toNat 0
    let cb := s.clsFor f.cls.toNat 1
    let v := (convWord c).1
    let n := (convWord c).2
    let convOk : Prop := c.toNat / 2 ^ 23 % 2 ^ 9 = 0 ∧ c.toNat < 2 ^ 44 ∧ b.toNat % 4 = 0
    let s' := s.drain s.ownPend
    (mxOpen s k f → s'.drained s'.ownPend = true →
      (exec (.mzro f) s = .next ((entered s' k f (some 0) { kind := .zro }).applyWr []).advance)
      ∧ (convOk → s.mxAddrBad f [{ a := b.toNat, n := 256 * n * dfSize f.imm.toNat, aligned := false }, { a := v, n := 2 * n }] = none →
        exec (.meas f) s = .next ((entered s' k f none { kind := .meas, cls := f.cls.toNat, b := b, c := c, imm := f.imm.toNat, tag := f.tb.toNat }).applyWr []).advance)
      ∧ (convOk → s.mxAddrBad f [{ a := b.toNat, n := 256 * n * dfSize f.imm.toNat, aligned := false }, { a := a.toNat, n := 32 + 32 * b'.npl * n },
            { a := v, n := (if b'.scheme = 2 then 4 else 2) * n }] = none →
        let hdr : List Byte := [BitVec.ofNat 8 (0x10 + b'.npl), f.tb.setWidth 8] ++ leBytes 2 n ++ List.replicate 28 0
        exec (.mcvt f) s = .next ((entered (s'.modTeam k fun t => { t with spad := writeBytes t.spad (a.toNat % 2 ^ 20) hdr }) k f none
          { kind := .cvt, cls := f.cls.toNat, a := a, b := b, c := c, imm := f.imm.toNat, tag := f.tb.toNat }).applyWr []).advance)
      ∧ (∀ i kind o, (i = .mma f ∧ kind = MxKind.mma ∧ o = 1 ∨ i = .mmat f ∧ kind = MxKind.mmat ∧ o = 2) →
        let d := Cells.get {} (s.team k).sd f.tb.toNat
        let r := f.imm.toNat + 1
        let row := c.toNat % 64
        let kb := c.toNat / 2 ^ 8 % 2 ^ 12
        let npl := (s.cls ca).npl
        c.toNat / 64 % 4 = 0 → c.toNat < 2 ^ 20 → d.set = true →
        s.mxAddrBad f [{ a := a.toNat, n := 32 + 32 * npl * (kb + r) }, { a := b.toNat, n := 2 * (kb + r) }] = none →
        ∀ tag nb, header (readBytes (s.team k).spad (a.toNat % 2 ^ 20) 32) = some (0x10 + npl, tag, nb) → row + r ≤ 64 → kb + r ≤ nb →
        (((s.team k).tileAt f.ta.toNat).issue = 0 ∨ ((s.team k).tileAt f.ta.toNat).issue = o) →
        exec i s = .next ((entered s' k f (some o) { kind := kind, cls := f.cls.toNat, ca := ca, cb := cb, a := a, b := b, c := c, imm := r, desc := d, dtag := tag }).applyWr []).advance)
      ∧ (let z := if b'.fmt = 2 ∨ b'.fmt = 3 then 2 else 4
         let r := f.imm.toNat + 1
         let ld := b.toNat / 2 ^ 16 % 2 ^ 16
         let o := ((s.team k).tileAt f.ta.toNat).issue
         b.toNat / 64 % 2 ^ 10 = 0 → b.toNat < 2 ^ 32 →
         s.mxAddrBad f [{ a := a.toNat, n := if o = 2 then (511 * ld + r) * z else ((r - 1) * ld + 512) * z, aligned := false }] = none →
         b.toNat % 64 + r ≤ 64 → a.toNat % z = 0 → (if o = 2 then r else 512) ≤ ld →
         exec (.mdrn f) s = .next ((entered s' k f none { kind := .drn, cls := f.cls.toNat, ca := ca, a := a, b := b, c := if f.x20 then c else 0, bs := f.x20, imm := r }).applyWr []).advance))
    ∧ (s.active f.grd ≠ [] → (s.cur.handler = true ↔ 8 ≤ f.ta.toNat) → (s.cur.handler = false → ∀ w ∈ (s.team k).warps, w.2.handler = none) →
        ((s.team k).holds f.ta.toNat = false → exec (.mzro f) s = .next (s.trapWith 0x38 (BitVec.ofNat 64 f.ta.toNat) 0 (maskOf (s.active f.grd))))
        ∧ ((s.team k).holds f.ta.toNat = true → (s.team k).openBatch f.ta.toNat = none →
          exec (.mzro f) s = .next (s.trapWith 0x39 (BitVec.ofNat 64 f.ta.toNat) 0 (maskOf (s.active f.grd)))))
    ∧ (¬ (s.cur.handler = true ↔ 8 ≤ f.ta.toNat) → ∀ i ∈ [Instr.mzro f, .meas f, .mcvt f, .mma f, .mmat f, .mdrn f, .mbatOpen f, .mbatClose f],
        exec i s = .next (s.trapWith 4 s.cur.ipc 0 (maskOf s.pathThreads)))

/-- R290, R294, R298 to R300, R314: MLDB with four good headers records its descriptor; MBAT.open, after the warp's earlier writes, opens a batch on a HELD tile whose rv it holds, clears its status, and takes a number with TLN, an unused counter raising TLUSE (0x32) with the counter in TINFO; MBAT.close closes it; MSTA gives the status word it names, or delivers a stopped batch's breach once as RANGE (0x18). -/
def Obligations.BatchFormsOpenCloseAndReport : Prop :=
  ∀ f s k w e, s.cur.agent = .warp k w e → s.active f.grd ≠ [] →
    let rv := f.a.idx.toNat
    let st := (s.team k).statAt rv
    let nrv := ((s.task (s.team k).task).launch).adm.kernel.nrv
    (∀ tag, s.mxAddrBad f [{ a := (xOpd s f.a).toNat, n := 32 + 4096 * (s.cls f.cls.toNat).npl }, { a := (xOpd s f.b).toNat, n := 256 }] = none → 4 ≤ (s.team k).tpg →
        s.quarters (xOpd s f.a).toNat (s.cls f.cls.toNat).npl = .inr tag →
        let d : StatDesc := { set := true, gang := s.gangKey k, off := xOpd s f.a, voff := xOpd s f.b, cls := f.cls.toNat, dtag := tag }
        exec (.mldb f) s = .next ((s.modTeam k fun t => { t with sd := Cells.set {} t.sd f.tb.toNat d }).applyWr []).advance)
    ∧ ((s.cur.handler = true ↔ 8 ≤ f.ta.toNat) → (s.cur.handler = false → ∀ w ∈ (s.team k).warps, w.2.handler = none) → (s.team k).holds f.ta.toNat = true →
        (((s.team k).openBatch f.ta.toNat) = none → (s.team k).batchOf rv = none → rv < nrv →
          (f.x20 = true → ((s.team k).tlAt f.tb.toNat).owner = 3 ∧ 1 ≤ ((s.team k).tlAt f.tb.toNat).scope) →
          let b : Batch := { tile := f.ta.toNat, rv := rv, prio := f.imm.toNat % 4, tln := f.x20, tl := f.tb.toNat, num := if f.x20 then (nextNumber s k f.tb.toNat).toNat else 0 }
          let s' := s.drain s.ownPend
          s'.drained s'.ownPend = true →
          ∃ t, exec (.mbatOpen f) s = .next t ∧ (t.team k).batch = (s.team k).batch ++ [b]
            ∧ (t.team k).statAt rv = {} ∧ (t.team k).rvAt rv = { ((s.team k).rvAt rv) with held := true }
            ∧ (∀ n, (t.team k).tlAt n = if f.x20 = true ∧ n = f.tb.toNat then { ((s.team k).tlAt n) with iss := nextNumber s k n } else (s.team k).tlAt n)
            ∧ t.mem = s'.mem ∧ (t.team k).spad = (s.team k).spad ∧ ∀ r, regVal t r = regVal s r)
        ∧ (((s.team k).openBatch f.ta.toNat) = none → (s.team k).batchOf rv = none → f.x20 = true → ((s.team k).tlAt f.tb.toNat).owner = 0 →
          exec (.mbatOpen f) s = .next (s.trapWith 0x32 (BitVec.ofNat 64 f.tb.toNat) 0 (maskOf (s.active f.grd))))
        ∧ (((s.team k).openBatch f.ta.toNat).isSome = true →
          exec (.mbatClose f) s = .next ((s.modTeam k fun t => { t with batch := t.batch.map fun b => if b.tile = f.ta.toNat then { b with isOpen := false } else b }).applyWr []).advance))
    ∧ (rv < nrv →
        (∀ word, (Instr.msta word f).wf = true → ¬ (st.flags.getLsbD 4 = true ∧ st.flags.getLsbD 7 = false) →
          let x : W64 := match word.toNat with
            | 0 => st.nanc ++ st.flags | 1 => st.unfc ++ st.satc | 2 => st.nskip ++ st.npass | _ => st.batch
          ∃ t, exec (.msta word f) s = .next t ∧ holds t f.dst 0 true x ∧ RegFrame s t fun r => r ∈ dstRegs f.dst 0 true)
        ∧ (∀ word, st.flags.getLsbD 4 = true → st.flags.getLsbD 7 = false →
          exec (.msta word f) s = .next ((s.modTeam k fun t => { t with stat := Cells.set {} t.stat rv { st with flags := st.flags ||| 0x80 } }).trapWith 0x18
            (BitVec.ofNat 64 (Cells.get 0 (s.team k).rangeCls rv)) st.batch (maskOf (s.active f.grd)))))

namespace Sys2Proof.Claims

/-- Free physical tiles of a team's cluster (R285). -/
def freeOf (s : State) (k : Nat) : List Nat := (List.range 8).filter fun p => (Cells.get {} (s.engine ((s.team k).core / 4)).tiles p).owner.isNone
/-- MALC may act: an active thread, a nonempty mask of tiles none of which the team holds (R291). -/
def malcMay (s : State) (k : Nat) (f : XForm) : Prop :=
  s.active f.grd ≠ [] ∧ f.imm ≠ 0 ∧ (s.cur.handler = true → f.imm.toNat < 4)
  ∧ (s.cur.handler = false → (∀ w ∈ (s.team k).warps, w.2.handler = none) ∧ ∀ n, n < 8 → (s.team k).holds n = false)
  ∧ ∀ n ∈ maskTiles s.cur.handler f.imm.toNat, (s.team k).holds n = false

end Sys2Proof.Claims

/-- R285, R291: MALC.wait and MALC.try, with tiles enough and no earlier waiter of the cluster, bind every tile of the mask to a free physical tile, cleared, in one step, MALC.try writing 1; MALC.try without them writes 0 and binds none; MFRE frees the mask's tiles, none being busy, and passes over those that are not bound (log 22, the model's choice); a handler line's mask that names other tiles than ha0 and ha1 raises ILLOP (0x04) whatever the guard; every register but the predicate, and every byte, is as before. -/
def Obligations.TilesAreAllocatedTogether : Prop :=
  ∀ f s k w e, s.cur.agent = .warp k w e →
    let l := maskTiles s.cur.handler f.imm.toNat
    let m := (s.team k).core / 4
    let bound (t : State) : Prop := (∀ n ∈ l, ∃ p ∈ freeOf s k, (t.team k).tileAt n = { held := some p } ∧ Cells.get {} (t.engine m).tiles p = { owner := some (k, n) })
      ∧ (∀ n, n ∉ l → (t.team k).tileAt n = (s.team k).tileAt n) ∧ (∀ p, p ∉ freeOf s k → p < 8 → Cells.get {} (t.engine m).tiles p = Cells.get {} (s.engine m).tiles p)
    let same (t : State) : Prop := t.mem = s.mem ∧ (t.team k).spad = (s.team k).spad
    (s.cur.handler = true → 4 ≤ f.imm.toNat → ∀ i ∈ [Instr.malcWait f, .malcTry f, .mfre f], exec i s = .next (s.trapWith 4 s.cur.ipc 0 (maskOf s.pathThreads)))
    ∧ (malcMay s k f →
      (l.length ≤ (freeOf s k).length → s.malcLine m = [] →
        (∃ t, exec (.malcWait f) s = .next t ∧ bound t ∧ same t ∧ ∀ r, regVal t r = regVal s r)
        ∧ ((Instr.malcTry f).wf = true → ∃ t, exec (.malcTry f) s = .next t ∧ bound t ∧ same t ∧ regVal t (predReg f.dst 0) = 1 ∧ ∀ r, r ≠ predReg f.dst 0 → regVal t r = regVal s r))
      ∧ ((Instr.malcTry f).wf = true → (freeOf s k).length < l.length ∨ s.malcLine m ≠ [] →
          ∃ t, exec (.malcTry f) s = .next t ∧ regVal t (predReg f.dst 0) = 0 ∧ RegFrame s t fun r => r = predReg f.dst 0))
    ∧ (s.active f.grd ≠ [] → (s.cur.handler = true → f.imm.toNat < 4) → (s.cur.handler = false → ∀ w ∈ (s.team k).warps, w.2.handler = none) →
        (∀ n ∈ l, (s.team k).busy n = false) →
        ∃ t, exec (.mfre f) s = .next t ∧ (∀ n, (t.team k).tileAt n = if n ∈ l then {} else (s.team k).tileAt n) ∧ same t ∧ ∀ r, regVal t r = regVal s r)

/-- R302, R312: after the warp's earlier writes, MSVH writes the whole image of a HELD tile to the address it names, answers from outside the package having come, and MSVH.ev then leaves the tile EVICTED at it with its term counts; MRSH reads an image back into a held tile, or into a fresh one for an EVICTED tile, whose term counts stand as they were. -/
def Obligations.TileImagesAreWrittenAndReadBack : Prop :=
  ∀ f s k w e, s.cur.agent = .warp k w e → s.active f.grd ≠ [] → s.cur.handler = false → f.ta.toNat < 8 → (∀ w ∈ (s.team k).warps, w.2.handler = none) →
    let n := f.ta.toNat
    let a := (xOpd s f.a).toNat
    let va := s.regionOf 0 * 2 ^ 64 + a
    (s.team k).busy n = false → a % 64 = 0 → s.regionOf 0 < 0xFF00 →
    let s₁ := s.drain s.ownPend
    s₁.drained s₁.ownPend = true →
    (∀ (ev : Bool) l s', (s.team k).holds n = true → s₁.imageSegs true (pageSegs 8 va tileBytes) = .ok (l, s') → s'.imageWait l = none →
      s'.snapBlock s'.cTask [] (l.map fun x => (x.1, x.2.1)) = none →
      let s'' := (s'.takeAsks s'.lowThread true [] l).imageOut l (s'.tileOf k n).image
      exec (if ev then .msvhEv f else .msvhCopy f) s =
        .next (((if ev then s''.freeTile k n { evicted := true, image := BitVec.ofNat 64 va, issue := ((s.team k).tileAt n).issue, terms := (s'.tileOf k n).terms } else s'').applyWr []).advance))
    ∧ (∀ l s' img, ((s.team k).holds n = true ∨ ((s.team k).tileAt n).evicted = true ∧ s.malcLine ((s.team k).core / 4) = [] ∧ freeOf s k ≠ []) →
      s₁.imageSegs false (pageSegs 8 va tileBytes) = .ok (l, s') → s'.imageWait l = none → tileFrom (l.flatMap fun x => readBytes s'.mem x.2.1 x.2.2) = some img →
      ∃ t, exec (.mrsh f) s = .next t ∧ t.mem = s'.mem ∧ (t.tileOf k n).rows = img.rows ∧ (t.tileOf k n).check = img.check ∧ (t.tileOf k n).orient = img.orient
        ∧ ((t.team k).tileAt n).issue = img.orient
        ∧ ((s.team k).holds n = false → (t.tileOf k n).terms = ((s.team k).tileAt n).terms) ∧ ∀ r, regVal t r = regVal s r)

namespace Sys2Proof.Claims

/-- A rendezvous point after one more arrival: the point before the present cyc, and the arrivals that reach it in the cyc applied in R332's order (R344). -/
def arrivedAt (s : State) (k n : Nat) (a : Arrival) : Rv :=
  let now := (s.team k).rvNow n s.cyc
  now.was.arrivals (placeArrival a now.arr)

end Sys2Proof.Claims

namespace Sys2Proof.Claims

/-- Element i of a block of n planes (R65): plane j holds bit j of the element, and the last plane weighs −2^(n−1). -/
def r65 (bs : List Byte) (n i : Nat) : Int :=
  let bit (j : Nat) : Int := if (bs.getD (32 * j + i / 8) 0).getLsbD (i % 8) then 1 else 0
  (∑ j ∈ Finset.range (n - 1), 2 ^ j * bit j) - 2 ^ (n - 1) * bit (n - 1)
/-- Element i of block b of the tile of n planes at scratchpad offset a (R66). -/
def tileElem (sp : Cells Byte) (a n b i : Nat) : Int := r65 (readBytes sp (a + 32 + 32 * n * b) (32 * n)) n i
/-- A scale word marks its block (R67). -/
def marks (w : Nat) : Prop := w / 256 % 16 ≠ 0 ∨ w % 256 = 255
/-- The cause a marked block passes on (R67). -/
def markCause (w : Nat) : Nat := let c := w / 256 % 16; if c = 1 ∨ c = 2 then c else if c ≠ 0 ∨ w % 256 = 255 then 2 else 0
/-- The smaller of two causes, 0 being none. -/
def lessCause (a b : Nat) : Nat := if a = 0 then b else if b = 0 then a else min a b

end Sys2Proof.Claims

/-- R65, R66, R71, R91, R295: a row absorbs a pass exactly while no bit is lost: at the new exponent, below the top one, every element is the old element plus its aligned term unless a mark excludes it; each element fits 80 bits; the planes of 256 elements read back as the elements; and a pass of MMA or MMAT whose scale words carry their tags gives each of its rows the product sums C of the streamed block and the stationary columns at the sum of their exponents, marks what a marked block touches with the smaller cause, adds K − ΣC to the row's checksum and 256 to its term count, and counts in NPASS; one with a word out of step changes no tile, sets SKEW and counts in NSKIP. -/
def Obligations.PassesAccumulateExactly : Prop :=
  (∀ (row : Row) (c y : List Int) (ex : List Bool), c.length = 512 → y.length = 512 → ex.length = 512 →
    let r := alignAdd row c y ex
    (∀ j, j < 512 → -(2 ^ 79) ≤ Cells.get 0 r.1.i j ∧ Cells.get 0 r.1.i j ≤ 2 ^ 79 - 1)
    ∧ r.1.set = true ∧ r.1.x ≤ 511 ∧ r.1.mark = row.mark
    ∧ (r.2.1 = false → r.1.x < 511 → ∀ j, j < 512 →
        ((Cells.get 0 r.1.i j : Int) : ℚ) * (2 : ℚ) ^ r.1.x =
          (if row.set then ((Cells.get 0 row.i j : Int) : ℚ) * (2 : ℚ) ^ row.x else 0) + (if ex.getD j false then 0 else ((c.getD j 0 : Int) : ℚ) * (2 : ℚ) ^ (y.getD j 0))))
  ∧ (∀ n q, 1 ≤ n → n ≤ 16 → q.length = 256 → (∀ x ∈ q, -(2 : Int) ^ (n - 1) ≤ x ∧ x < 2 ^ (n - 1)) → (List.range 256).map (r65 (planeBytes n q) n) = q)
  ∧ (∀ (s : State) k b o q, b.stopped = false → b.skew = false → (o.kind = .mma ∨ o.kind = .mmat) → q.length = 4 → (s.team k).batchOf b.rv = some b →
      ((s.team k).tileAt b.tile).held.isSome = true →
      let sp := (s.team k).spad
      let l := (s.task (s.team k).task).launch
      let row0 := o.c.toNat % 64
      let kb := o.c.toNat / 2 ^ 8 % 2 ^ 12
      let nb := (l.clsAt o.desc.cls).npl
      let sa (w : Nat) : Nat := readLe sp (o.b.toNat + 2 * (kb + w)) 2
      let sb (j : Nat) : Nat := fieldAt (q.getD (j / 128) ([], [])).2 (2 * (j % 128)) 2
      let qa (w i : Nat) : Int := tileElem sp o.a.toNat (l.clsAt o.ca).npl (kb + w) i
      let qb (j i : Nat) : Int := r65 (((q.getD (j / 128) ([], [])).1.drop (32 + 32 * nb * (j % 128))).take (32 * nb)) nb i
      let x := s.tileOf k b.tile
      let t := s.mxPerform k b o q
      let x' := t.tileOf k b.tile
      let inStep : Prop := (∀ w, w < o.imm → sa w / 4096 = o.dtag) ∧ ∀ j, j < 512 → sb j / 4096 = o.desc.dtag
      t.mem = s.mem ∧ (t.team k).spad = sp
      ∧ (¬ inStep → x' = x ∧ (t.team k).batchOf b.rv = some { b with skew := true, status := { b.status with flags := b.status.flags ||| 2, nskip := satAdd32 b.status.nskip 1 } })
      ∧ (inStep → 1 ≤ (l.clsAt o.ca).npl → 1 ≤ nb →
          x'.orient = (if o.kind = .mma then 1 else 2) ∧ (∃ b', (t.team k).batchOf b.rv = some b' ∧ b'.status.npass = satAdd32 b.status.npass 1 ∧ b'.status.nskip = b.status.nskip)
          ∧ (∀ n, (n < row0 ∨ row0 + o.imm ≤ n) → Cells.get {} x'.rows n = Cells.get {} x.rows n)
          ∧ ∀ w, w < o.imm →
            let row := Cells.get {} x.rows (row0 + w)
            let row' := Cells.get {} x'.rows (row0 + w)
            let cause (j : Nat) : Nat := lessCause (markCause (sa w)) (markCause (sb j))
            let c (j : Nat) : Int := if cause j = 0 then ∑ i ∈ Finset.range 256, qa w i * qb j i else 0
            let y (j : Nat) : Int := ((sa w % 256 : Nat) : Int) - 127 + (((sb j % 256 : Nat) : Int) - 127)
            row' = { (alignAdd row ((List.range 512).map c) ((List.range 512).map y) ((List.range 512).map fun j => decide (cause j ≠ 0))).1 with mark := row'.mark }
            ∧ (∀ j, j < 512 → Cells.get 0 row'.mark j = lessCause (Cells.get 0 row.mark j) (cause j))
            ∧ Cells.get 0 x'.check (row0 + w) = Cells.get 0 x.check (row0 + w)
                + (∑ i ∈ Finset.range 256, qa w i * ∑ j ∈ Finset.range 512, if markCause (sb j) = 0 then qb j i else 0) - ∑ j ∈ Finset.range 512, c j
            ∧ Cells.get 0 x'.terms (row0 + w) = Cells.get 0 x.terms (row0 + w) + 256))

namespace Sys2Proof.Claims

/-- Source element i of block j of a conversion (R292). -/
def srcElem (s : State) (k : Nat) (o : MxOp) (j i : Nat) : RVal :=
  decodeF o.imm (readLe (s.team k).spad (o.b.toNat + (256 * j + i) * dfSize o.imm) (dfSize o.imm))
/-- It after the class's range check (R88, R292). -/
def inRange (c : ClassB) (x : RVal) : RVal := if breaches c x then satVal c x.sign else x
/-- e is E8 of the block's largest magnitude over m magnitude bits (R68). -/
def IsE8 (y : Nat → ℚ) (m e : Nat) : Prop :=
  ∃ mx : ℚ, (∀ i, i < 256 → |y i| ≤ mx) ∧ (∃ i, i < 256 ∧ |y i| = mx)
    ∧ if mx = 0 then e = 0 else ∃ t : Int, mx ≤ (2 : ℚ) ^ t ∧ (2 : ℚ) ^ (t - 1) < mx ∧ (e : Int) = max 0 (min 254 (127 + t - m))
/-- q is x / 2^(e − 127) rounded to nearest even and cut at ±(2^m − 1) (R68). -/
def IsQuant (x : ℚ) (e m : Nat) (q : Int) : Prop :=
  let r := x / (2 : ℚ) ^ ((e : Int) - 127)
  ∃ n : Int, |r - n| ≤ 1 / 2 ∧ (|r - n| = 1 / 2 → n % 2 = 0) ∧ q = max (-(2 ^ m - 1)) (min (2 ^ m - 1) n)

end Sys2Proof.Claims

/-- R68, R72, R88, R90, R292, R293, R297, R299: what MEAS, MCVT and MDRN leave when they are performed. MEAS writes each block's scale word: the tag with 0x1FF for a NaN, else with E8 of the largest magnitude after the range check; under policy trap a breach stops the batch with RANGE. MCVT writes each block's planes, every element quantised by the E8 that the scheme supplies: the word's own, the carried one or a measured one, or 127 + FIX; a marked block and one with a NaN become zeros, and the scale and carry words follow the scheme; under policy trap a breach writes nothing and sets RANGE. MDRN delivers each element as ROUND_CLASS of I × 2^X × band, a mark as its NaN, at the address its tile's orientation gives, sets CHK where a row's checksum is not 0 and counts marked elements in NANC. No other byte of scratchpad or memory changes. -/
def Obligations.ConversionsAndDrainsGiveTheirValues : Prop :=
  ∀ (s : State) k b o q, b.stopped = false → (s.team k).batchOf b.rv = some b →
    let sp := (s.team k).spad
    let l := (s.task (s.team k).task).launch
    let c := l.clsAt o.cls
    let t := s.mxPerform k b o q
    let sp' := (t.team k).spad
    let v := o.c.toNat % 2 ^ 23
    let n := o.c.toNat / 2 ^ 32 % 2 ^ 12 + 1
    let m := c.npl - 1
    let hasNan (j : Nat) : Prop := ∃ i, i < 256 ∧ (srcElem s k o j i).isNan = true
    let breach (j : Nat) : Prop := ∃ i, i < 256 ∧ breaches c (srcElem s k o j i) = true
    let y (j i : Nat) : ℚ := rat (inRange c (srcElem s k o j i))
    let stops : Prop := ∃ b', (t.team k).batchOf b.rv = some b' ∧ b'.stopped = true ∧ b'.status = { b.status with flags := b.status.flags ||| 0x10 }
    (∀ neg, IsFin (satVal c neg)) →
    (o.kind = .meas → o.tag < 16 → v + 2 * n ≤ 2 ^ 20 → t.mem = s.mem
      ∧ (c.rpol = 2 → (∃ j, j < n ∧ ¬ hasNan j ∧ breach j) → stops)
      ∧ (¬ (c.rpol = 2 ∧ ∃ j, j < n ∧ ¬ hasNan j ∧ breach j) →
          (∀ a, (a < v ∨ v + 2 * n ≤ a) → readByte sp' a = readByte sp a)
          ∧ ∀ j, j < n → let w := readLe sp' (v + 2 * j) 2
            (hasNan j → w = o.tag * 4096 + 0x1FF) ∧ (¬ hasNan j → ∃ e, IsE8 (y j) m e ∧ w = o.tag * 4096 + e)))
    ∧ (o.kind = .cvt → o.tag < 16 → 2 ≤ c.npl → c.npl ≤ 16 →
      let d := o.a.toNat + 32
      let z := 32 * c.npl * n
      let vz := if c.scheme = 2 then 4 * n else 2 * n
      d + z ≤ 2 ^ 20 → v + vz ≤ 2 ^ 20 → (d + z ≤ v ∨ v + vz ≤ d) →
      let word (j : Nat) : Nat := readLe sp (v + 2 * j) 2
      let carry (j : Nat) : Nat := readLe sp (v + 2 * n + 2 * j) 2
      let marked (j : Nat) : Prop := c.scheme ≠ 2 ∧ c.scheme ≠ 3 ∧ marks (word j)
      let given (j e : Nat) : Prop :=
        if c.scheme = 2 then (if carry j = 0xFFFF then IsE8 (y j) m e else e = carry j % 256) else if c.scheme = 3 then (e : Int) = (127 + c.fix) % 256 else e = word j % 256
      let traps : Prop := c.rpol = 2 ∧ ∃ j, j < n ∧ ¬ marked j ∧ ¬ hasNan j ∧ breach j
      t.mem = s.mem ∧ (traps → stops ∧ sp' = sp)
      ∧ (¬ traps →
          (∀ a, ¬ (d ≤ a ∧ a < d + z) → ¬ (v ≤ a ∧ a < v + vz) → readByte sp' a = readByte sp a)
          ∧ ∀ j, j < n →
            let w := readLe sp' (v + 2 * j) 2
            let cw := readLe sp' (v + 2 * n + 2 * j) 2
            (marked j → w = word j ∧ ∀ i, i < 256 → tileElem sp' o.a.toNat c.npl j i = 0)
            ∧ (¬ marked j → hasNan j → w = o.tag * 4096 + 0x1FF ∧ (∀ i, i < 256 → tileElem sp' o.a.toNat c.npl j i = 0) ∧ (c.scheme = 2 → cw = carry j))
            ∧ (¬ marked j → ¬ hasNan j → ∃ e, given j e ∧ (∀ i, i < 256 → IsQuant (y j i) e m (tileElem sp' o.a.toNat c.npl j i))
                ∧ w = (if c.scheme = 2 ∨ c.scheme = 3 then o.tag * 4096 + e else word j) ∧ (c.scheme = 2 → IsE8 (y j) m cw))))
    ∧ (o.kind = .drn →
      let z := if c.fmt = 2 ∨ c.fmt = 3 then 2 else 4
      let row0 := o.b.toNat % 64
      let ld := o.b.toNat / 2 ^ 16 % 2 ^ 16
      let x := s.tileOf k b.tile
      let at_ (w j : Nat) : Nat := o.a.toNat + (if x.orient = 2 then j * ld + w else w * ld + j) * z
      let band : RVal := if o.bs then decodeF 2 (o.c.toNat % 65536) else .fin false 1 1
      let out (w j : Nat) : Deliv :=
        let row := Cells.get {} x.rows (row0 + w)
        let mk := Cells.get 0 row.mark j
        roundClass c (if mk ≠ 0 then (.nan false mk true, {}) else if row.set = false then (.fin false 0 1, {}) else rMul ((ofRat (Cells.get 0 row.i j) 1).mul2 row.x) band)
      (if x.orient = 2 then o.imm else 512) ≤ ld → (∀ w j, w < o.imm → j < 512 → at_ w j + z ≤ 1024 * (s.team k).scrk ∧ at_ w j + z ≤ 2 ^ 20) →
      let traps : Prop := ∃ w j, w < o.imm ∧ j < 512 ∧ (out w j).trap = true
      t.mem = s.mem ∧ t.tileOf k b.tile = x
      ∧ (traps → sp' = sp ∧ ∃ b', (t.team k).batchOf b.rv = some b' ∧ b'.stopped = true ∧ b'.status.flags.getLsbD 4 = true)
      ∧ (¬ traps → (∀ w j, w < o.imm → j < 512 → readLe sp' (at_ w j) z = (out w j).out % 2 ^ (8 * z))
          ∧ (∀ a, (∀ w j, w < o.imm → j < 512 → a < at_ w j ∨ at_ w j + z ≤ a) → readByte sp' a = readByte sp a)
          ∧ ∃ b', (t.team k).batchOf b.rv = some b' ∧ b'.stopped = false
            ∧ (b'.status.flags.getLsbD 0 = true ↔ b.status.flags.getLsbD 0 = true ∨ ∃ w, w < o.imm ∧ Cells.get 0 x.check (row0 + w) ≠ 0)
            ∧ b'.status.nanc = satAdd32 b.status.nanc (∑ w ∈ Finset.range o.imm, ((List.range 512).filter fun j => Cells.get 0 (Cells.get {} x.rows (row0 + w)).mark j != 0).length)))

/-- R282, R286, R287, R298, R299, R332, R344: MATRIX_GRANT marks the operation the grant rule chooses and gives it its unit; MATRIX_OP_COMPLETE performs the oldest operation of the unit's batch and removes it, and frees the unit; BATCH_COMPLETE of a closed, empty batch writes its status with DONE set, arrives once at its rv and, opened with TLN, completes its number, with which the markers that only waited for it complete; an idle unit, or a batch that is not done, changes nothing. -/
def Obligations.MatrixUnitsPerformTheirOperations : Prop :=
  (∀ m u (s : State), (s.unitFree m u = false ∨ s.grantChoice m u = none → exec (.matrixGrant m u) s = .next s)
    ∧ (∀ k rv tile prio o, s.unitFree m u = true → s.grantChoice m u = some (k, rv, tile, prio, o) →
      ∃ t, exec (.matrixGrant m u) s = .next t ∧ t.mem = s.mem
        ∧ (∀ b, (s.team k).batchOf rv = some b → b.ops.head? = some o → (t.team k).batchOf rv = some { b with ops := { o with granted := true } :: b.ops.tail })
        ∧ (u ≠ .array → (t.engine m).running u = some (k, rv))
        ∧ (u = .array → (s.engine m).array = none → (t.engine m).array = some (k, rv) ∧ (t.engine m).heldOp = o.desc)
        ∧ (u = .array → (s.engine m).array ≠ none → (t.engine m).arrayNext = some (k, rv) ∧ (t.engine m).shadow = o.desc)))
  ∧ (∀ m u (s : State), ((s.engine m).running u = none → exec (.matrixOpComplete m u) s = .next s)
    ∧ (∀ k rv b o os, (s.engine m).running u = some (k, rv) → (s.team k).batchOf rv = some b → b.ops = o :: os →
      exec (.matrixOpComplete m u) s = .next (((s.mxPerform k b o (s.engine m).heldQ).modTeam k fun t => t.modBatch rv fun b =>
        Batch.front { b with ops := b.ops.drop 1 } s.cyc).modEngine m fun e => e.release u)))
  ∧ (∀ k tile (s : State), ((s.team k).batch.find? (fun b => b.tile == tile && b.done) = none → exec (.batchComplete k tile) s = .next s)
    ∧ (∀ b, (s.team k).batch.find? (fun b => b.tile == tile && b.done) = some b →
      ∃ t, exec (.batchComplete k tile) s = .next t
        ∧ (t.team k).statAt b.rv = { b.status with flags := b.status.flags ||| 0x40, batch := BitVec.ofNat 64 b.num }
        ∧ (t.team k).batch = (s.team k).batch.filter (fun x => x.rv != b.rv)
        ∧ (t.team k).rvAt b.rv = { arrivedAt s k b.rv {} with held := false } ∧ t.mem = s.mem
        ∧ (b.tln = false → (t.team k).tl = (s.team k).tl ∧ (t.team k).copies = (s.team k).copies)
        ∧ (b.tln = true →
            let u := (s.modTl k b.tl fun x => x.complete b.num).markers k b.tl (s.team k).copies.length
            (t.team k).tl = (u.team k).tl ∧ (t.team k).copies = (u.team k).copies)))

namespace Sys2Proof.Claims

/-! Fences, rendezvous, queues, groups and the graph. -/

/-- The rv a form names, in the issuing team. -/
def point (s : State) (k : Nat) (f : SForm) : Rv := (s.team k).rvAt f.a.idx.toNat
/-- An s or k operand b, or IMM. -/
def opdB (s : State) (f : SForm) : W64 := if f.bi then f.imm.setWidth 64 else s.rdReg s.lowThread f.b true
/-- A release of the issuing warp is complete: no write of it waits. -/
def allPerformed (s : State) : Prop := s.drained s.ownPend = true

end Sys2Proof.Claims

/-- R332, R333, R344: ARRIVE on an initialised point adds to COUNT while it stays below EXPECT and marks the arriving warp; reaching EXPECT raises PHASE by one for each EXPECT in the sum, leaves COUNT the rest and clears WMASK; a warp that has arrived in the phase changes nothing; a point that is not initialised takes ORPHAN. An arrival is applied among those of its cyc, after the ones of its rank and below, to the point as it was before them. R328 to R333: FENCE completes once the warp's earlier writes are performed as its scope asks; RVINI initialises a point that was neither initialised nor ORPHAN before its cyc, ahead of the arrivals of the cyc; ARV and ARVB arrive, an arrival that counts after the warp's earlier writes, and give the phase before it; RVWT completes when its phase is satisfied, the one it read at its first issue where it has waited, and waits until then; RVTS.t gives whether it is, RVTS.ph the phase. RVORPH (0x48), RVDUP (0x49), RVARG (0x4A) and RVNINI (0x4B) trap. -/
def Obligations.ArrivalsFencesAndRendezvous : Prop :=
  ((∀ (r : Rv) bytes (w : Option Nat),
       let amount := if r.bytes then bytes else 1
       let n := r.count.toNat + amount
       (r.init = false → r.arrive bytes w = { r with orphan := true })
       ∧ (r.init = true → (∃ x, w = some x ∧ r.wmask.getLsbD x = true) → r.arrive bytes w = r)
       ∧ (r.init = true → (∀ x, w = some x → r.wmask.getLsbD x = false) →
           (n < r.expect.toNat →
             r.arrive bytes w = { r with count := r.count + BitVec.ofNat 32 amount, wmask := match w with | some x => r.wmask ||| 1#32 <<< x | none => r.wmask })
           ∧ (r.expect.toNat ≤ n → 0 < r.expect.toNat →
             r.arrive bytes w = { r with count := BitVec.ofNat 32 (n % r.expect.toNat), phase := r.phase + BitVec.ofNat 32 (n / r.expect.toNat), wmask := 0 }))
       ∧ (∀ p : W32, r.satisfied p = decide (1 ≤ (r.phase - p).toNat ∧ (r.phase - p).toNat < 2 ^ 31)))
     ∧ (∀ (s : State) k n a, ∃ pre post, ((s.team k).rvNow n s.cyc).arr = pre ++ post ∧ (∀ b ∈ pre, b.rank ≤ a.rank) ∧ (∀ b, post.head? = some b → a.rank < b.rank)
         ∧ ((s.arriveAt k n a).team k).rvAt n = { ((s.team k).rvNow n s.cyc).was.arrivals (pre ++ a :: post) with held := ((s.team k).rvAt n).held }))
  ∧ ((∀ f s, Issues s false →
       (s.active f.grd = [] → ∃ t, exec (.fence f) s = .next t ∧ RegFrame s t fun _ => False)
       ∧ (∀ s', s.active f.grd ≠ [] → Released s f.order f.scope s' → ∃ t, exec (.fence f) s = .next t ∧ RegFrame s' t fun _ => False))
     ∧ ∀ f s k w e, s.cur.agent = .warp k w e → s.active f.grd ≠ [] →
       let n := f.a.idx.toNat
       let r := point s k f
       let now := (s.team k).rvNow n s.cyc
       let x := opdB s f
       let want : W32 := match ((s.warp k w).entry e).hold with | .rvPhase m p => if m = n then p else x.setWidth 32 | _ => x.setWidth 32
       let trap (c : Nat) : Out := .next (s.trapWith c (BitVec.ofNat 64 n) 0 (maskOf (s.active f.grd)))
       (s.cLaunch.adm.kernel.nrv ≤ n → ∀ i, i ∈ [Instr.rvini false f, .rvini true f, .arv f, .arvb f, .rvwt f, .rvtsT f, .rvtsPh f] → exec i s = trap 0x4A)
       ∧ (n < s.cLaunch.adm.kernel.nrv →
         (∀ bytes, (now.was.orphan = true → exec (.rvini bytes f) s = trap 0x48) ∧ (now.was.orphan = false → now.was.init = true → exec (.rvini bytes f) s = trap 0x49)
           ∧ (now.was.orphan = false → now.was.init = false → (x = 0 ∨ (if bytes then 2 ^ 30 else 2 ^ 24) < x.toNat) → exec (.rvini bytes f) s = trap 0x4A)
           ∧ (now.was.orphan = false → now.was.init = false → x ≠ 0 → x.toNat ≤ (if bytes then 2 ^ 30 else 2 ^ 24) →
             let r' : Rv := { now.was with expect := x.setWidth 32, count := 0, bytes := bytes, init := true }
             exec (.rvini bytes f) s = .next ((s.applyArrivals k n { now with was := r' }).applyWr []).advance
             ∧ (now.arr = [] → ((s.applyArrivals k n { now with was := r' }).team k).rvAt n = { r' with held := r.held })))
         ∧ (∀ i bytes, (i = .arv f ∧ bytes = 0 ∨ i = .arvb f ∧ bytes = x.toNat) → i.wf = true →
           let s' := if r.counts (some w) then s.drain s.ownPend else s
           (r.counts (some w) = true → allPerformed s') →
           let a : Arrival := { rank := 2 ^ 32 + w, bytes := bytes, warp := some w, dst := if f.dst.file = .s then some f.dst.idx.toNat else none }
           exec i s = .next ((s'.arriveAt k n a).applyWr []).advance
           ∧ (now.arr = [] → f.dst.file = .s → regVal (s'.arriveAt k n a) (.s f.dst.idx.toNat) = now.was.phase.setWidth 64))
         ∧ (r.init = false → ∀ i, i ∈ [Instr.rvwt f, .rvtsT f, .rvtsPh f] → exec i s = trap 0x4B)
         ∧ (r.init = true →
           (r.satisfied want = true → ∃ t, exec (.rvwt f) s = .next t ∧ RegFrame s t fun _ => False)
           ∧ (r.satisfied want = false → exec (.rvwt f) s = .next (s.wait (.rvPhase n want)))
           ∧ ((Instr.rvtsT f).wf = true → ∃ t, exec (.rvtsT f) s = .next t ∧ regVal t (predReg f.dst 0) = bit (r.satisfied (x.setWidth 32)) ∧ RegFrame s t fun q => q = predReg f.dst 0)
           ∧ ((Instr.rvtsPh f).wf = true → ∃ t, exec (.rvtsPh f) s = .next t ∧ holds t f.dst 0 true (r.phase.setWidth 64) ∧ RegFrame s t fun q => q ∈ dstRegs f.dst 0 true))))

namespace Sys2Proof.Claims

/-- A queue of a team. -/
def queueOf (s : State) (q n : Nat) : Queue := (s.team q).chAt n
/-- No path waits at a side of a queue before the issuing one (R336). -/
def nextServed (s : State) (q n : Nat) (push : Bool) : Prop := s.served q n push = true
/-- Room and allowance for a push (R336). -/
def hasRoom (x : Queue) : Prop := (x.tail - x.head).toNat < 2 ^ x.lsz.toNat ∧ x.allow ≠ 0
/-- The state after PUSH of h: the handle at the tail's slot, TAIL up and ALLOW down, and a pausing path of the team awake (R336, R357). -/
def pushed (s : State) (q n : Nat) (h : W64) : State :=
  (s.modTeam q fun t => { t with
    spad := writeBytes t.spad ((t.chAt n).base.toNat + 8 * ((t.chAt n).tail.toNat % 2 ^ (t.chAt n).lsz.toNat)) (leBytes 8 h.toNat),
    ch := Cells.set {} t.ch n { (t.chAt n) with tail := (t.chAt n).tail + 1, allow := (t.chAt n).allow - 1 } }).wakePause q
/-- The handle at the head (R336). -/
def headOf (s : State) (q n : Nat) : W64 := BitVec.ofNat 64 (readLe (s.team q).spad ((queueOf s q n).base.toNat + 8 * ((queueOf s q n).head.toNat % 2 ^ (queueOf s q n).lsz.toNat)) 8)
/-- The state after POP. -/
def popped (s : State) (q n : Nat) : State := s.modTeam q fun t => { t with ch := Cells.modify {} t.ch n fun x => { x with head := x.head + 1 } }

end Sys2Proof.Claims

/-- R334 to R336: QINI.init sets an empty or new queue up, QINI.grant raises ALLOW, holding at 2^32 − 1; QPSH, served next, and QTRY.psh store the handle where there are room and allowance, after the warp's earlier writes; QPOP, served next, and QTRY.pop take the oldest entry; a QTRY that is not ready writes 0 and a QPSH or QPOP that is not ready waits without its effect; QBUSY (0x4C), QARG (0x4D) and QNINI (0x4E) trap. The model's choices: ALLOW is the low 32 bits of its operand (log 58), and a QTRY acts without regard to paths that wait (log 59). -/
def Obligations.QueuesKeepTheirOrder : Prop :=
  ∀ f s k w e, s.cur.agent = .warp k w e → s.active f.grd ≠ [] →
    let n := f.a.idx.toNat
    let own := queueOf s k n
    let base := (s.rdReg s.lowThread f.b true).toNat
    let trap (c : Nat) : Out := .next (s.trapWith c (BitVec.ofNat 64 n) 0 (maskOf (s.active f.grd)))
    (s.cLaunch.adm.kernel.nq ≤ n → ∀ i, i ∈ [Instr.qiniInit f, .qiniGrant f, .qpsh f, .qpop f, .qtryPsh f, .qtryPop f] → exec i s = trap 0x4D)
    ∧ (n < s.cLaunch.adm.kernel.nq →
      (own.init = true → own.head ≠ own.tail → exec (.qiniInit f) s = trap 0x4C)
      ∧ ((own.init = false ∨ own.head = own.tail) → 1 ≤ f.imm.toNat → f.imm.toNat ≤ 12 → base % 8 = 0 → base + 8 * 2 ^ f.imm.toNat ≤ (s.team k).scrk * 1024 →
        let x : Queue := { own with base := BitVec.ofNat 32 base, lsz := f.imm, init := true, head := 0, tail := 0, allow := (s.rdReg s.lowThread f.c true).setWidth 32 }
        exec (.qiniInit f) s = .next ((s.modTeam k fun t => { t with ch := Cells.set {} t.ch n x }).applyWr []).advance)
      ∧ (own.init = false → exec (.qiniGrant f) s = trap 0x4E)
      ∧ (own.init = true → let x : Queue := { own with allow := BitVec.ofNat 32 (min (own.allow.toNat + (opdB s f).toNat) (2 ^ 32 - 1)) }
        exec (.qiniGrant f) s = .next ((s.modTeam k fun t => { t with ch := Cells.set {} t.ch n x }).applyWr []).advance)
      ∧ (∀ q, s.queueTeam f = some q →
        let x := queueOf s q n
        (x.init = false → ∀ i, i ∈ [Instr.qpsh f, .qpop f, .qtryPsh f, .qtryPop f] → exec i s = trap 0x4E)
        ∧ (x.init = true →
          let s' := s.drain s.ownPend
          (hasRoom x → allPerformed s' →
            (nextServed s q n true → exec (.qpsh f) s = .next (((pushed (s'.unqueue q n true) q n (opdB s f)).applyWr []).advance))
            ∧ ((Instr.qtryPsh f).wf = true → ∃ t, exec (.qtryPsh f) s = .next t ∧ regVal t (predReg f.c 0) = 1 ∧ RegFrame (pushed s' q n (opdB s f)) t fun r => r = predReg f.c 0))
          ∧ (¬ (hasRoom x ∧ nextServed s q n true) → exec (.qpsh f) s = .next (s.queueWait q n true))
          ∧ (¬ hasRoom x → ((Instr.qtryPsh f).wf = true → ∃ t, exec (.qtryPsh f) s = .next t ∧ regVal t (predReg f.c 0) = 0 ∧ RegFrame s t fun r => r = predReg f.c 0))
          ∧ (x.head ≠ x.tail →
            (nextServed s q n false → (Instr.qpop f).wf = true → ∃ t, exec (.qpop f) s = .next t ∧ holds t f.dst 0 true (headOf s q n) ∧ RegFrame (popped (s.unqueue q n false) q n) t fun r => r ∈ dstRegs f.dst 0 true)
            ∧ ((Instr.qtryPop f).wf = true → ∃ t, exec (.qtryPop f) s = .next t ∧ holds t f.dst 0 true (headOf s q n) ∧ regVal t (predReg f.c 0) = 1
                ∧ RegFrame (popped s q n) t fun r => r ∈ dstRegs f.dst 0 true ∨ r = predReg f.c 0))
          ∧ (¬ (x.head ≠ x.tail ∧ nextServed s q n false) → exec (.qpop f) s = .next (s.queueWait q n false))
          ∧ (x.head = x.tail → ((Instr.qtryPop f).wf = true → ∃ t, exec (.qtryPop f) s = .next t ∧ regVal t (predReg f.c 0) = 0 ∧ RegFrame s t fun r => r = predReg f.c 0)))))

/-- R97, R104, R171, R337 to R340: a SYNCM whose masks name exactly the active threads, none of which waits there yet, completes in them: they leave their path for one at the next slot, after the warp's earlier writes; GSYNC.wait arrives and goes on when its phase completes, else waits for that phase of that group, whatever its operand becomes; GSYNC.nb arrives and takes a number; TLSIG signals its handle; LAUNCH appends the record it reads, once its read waits for no mapping and no answer (R240, R411, R414), and gives its handle or 0. A group the launch does not have, or that does not hold the team, is GRPARG (0x4F). -/
def Obligations.GroupsAndGraphFormsComplete : Prop :=
  ∀ f s k w e, s.cur.agent = .warp k w e → s.active f.grd ≠ [] →
    let act := s.active f.grd
    let s' := s.drain s.ownPend
    allPerformed s' →
    ((∀ u, (s.warp k w).syncAt s.cur.ipc u = none) → (∀ u ∈ act, ((s.warp k w).thread u).st = .pathed ∧ ((s.warp k w).thread u).syncPk = none ∧ (s.rdReg u f.a false).setWidth 32 = maskOf act) →
      ∃ t, exec (.syncm f) s = .next t ∧ t.cur.stop = true ∧ t.mem = s'.mem ∧ (∀ r, regVal t r = regVal s r)
        ∧ ∀ u ∈ act, ((t.warp k w).thread u).sync = none ∧ ((t.warp k w).thread u).pc = s.cur.npc ∧ (((t.warp k w).thread u).st = .pathed ∨ ((t.warp k w).thread u).st = .spilled))
    ∧ (let g := (opdB s f).toNat
       let n := f.opd.toNat % 8
       let c := (s.team k).tlAt n
       (s.inGroup g = false → ((∀ h ph, ((s.warp k w).entry e).hold ≠ .group h ph) → exec (.gsyncWait f) s = .next (s.trapWith 0x4F (BitVec.ofNat 64 g) 0 (maskOf act))) ∧ exec (.gsyncNb f) s = .next (s.trapWith 0x4F (BitVec.ofNat 64 g) 0 (maskOf act)))
       ∧ (∀ h ph, ((s.warp k w).entry e).hold = .group h ph →
        (ph < s.groupPhase h → ∃ t, exec (.gsyncWait f) s = .next t ∧ RegFrame s t fun _ => False)
        ∧ (s.groupPhase h ≤ ph → exec (.gsyncWait f) s = .next (s.wait (.group h ph))))
       ∧ (s.inGroup g = true →
        ((∀ h ph, ((s.warp k w).entry e).hold ≠ .group h ph) →
          exec (.gsyncWait f) s = .next (if s'.groupPhase g < (s'.groupArrive g).groupPhase g then ((s'.groupArrive g).applyWr []).advance else (s'.groupArrive g).wait (.group g (s'.groupPhase g))))
        ∧ (c.owner = 4 → 3 ≤ c.scope →
          let c' : Tl := { c with iss := c.iss + 1 }
          let x : GsyncNb := { group := g, phase := s'.groupPhase g, tl := n, num := (c.iss + 1).toNat }
          exec (.gsyncNb f) s = .next (((((s'.modTeam k fun t => { t with tl := Cells.set {} t.tl n c', nb := t.nb ++ [x] }).groupArrive g).applyWr [])).advance))))
    ∧ exec (.tlsig f) s = .next (((s'.signal (coreDie (s.team k).core) (s.team k).task (s.rdReg s.lowThread f.a true)).applyWr []).advance)
    ∧ (let a := (s.rdReg s.lowThread f.a true).toNat
       ∀ pa pte, (Instr.launch f).wf = true → a % 64 = 0 → s'.translate (s.team k).vdev a false false = .ok (pa, pte) → s'.reaches (coreDie (s.team k).core) (corePort (s.team k).core) pa = true →
        s'.poisonHit pa 64 false = none → s'.chunkBusy pa = false → s'.rangesWait [(a, pa, 64)] = none →
        let r := ((s'.takeAsks s.lowThread false [] [(a, pa, 64)]).cMark pte false).appendLaunch (s.team k).task (readBytes s'.mem pa 64)
        ∃ t, exec (.launch f) s = .next t ∧ holds t f.dst 0 true r.2 ∧ RegFrame r.1 t fun q => q ∈ dstRegs f.dst 0 true)

/-! Traps and system forms. -/

/-- R346 to R350, R353: a trap taken by a warp's path outside a handler, with a handler line at HVEC and the core's bank free, saves the path's mask, its PC and the next unit's, writes TCAUSE, TPC, TINFO, TINFO2 and TMASK, clears TSTAT, banks v56 to v63, s28 to s31 and p4 to p6 with 0, and moves the path to HVEC; with the bank taken the path waits; in a handler, or without a handler line that the core reads, TRAPKILL is posted and the launch killed: stopped, and COMPLETE with KILLED once its issued writes are performed. That a line at HVEC which cannot be read, is refused (with XBARV) or has wrong parity is no handler line is the model's reading (log 66). TRAP raises it with cause 0x16 and IMM. -/
def Obligations.TrapsEnterTheHandler : Prop :=
  (∀ (s : State) k w e (x : Trap), let core := (s.team k).core
    let hv := (s.vdev (s.team k).vdev).hvec
    (s.handlerLine (s.team k).vdev core = true → Cells.get none s.handlerBank core = none →
      let t := s.takeTrap k w e false x
      ∃ h, (t.warp k w).handler = some h ∧ h.mask = ((s.warp k w).entry e).mask ∧ h.pc = x.pc ∧ h.nextPc = x.next ∧ h.entry = e
        ∧ (t.warp k w).tcause = BitVec.ofNat 64 x.cause ∧ (t.warp k w).tpc = x.pc ∧ (t.warp k w).tinfo = x.info ∧ (t.warp k w).tinfo2 = x.info2
        ∧ (t.warp k w).tmask = x.mask.setWidth 64 ∧ (t.warp k w).tstat = 0
        ∧ (t.warp k w).entry e = { (s.warp k w).entry e with pc := hv, hold := .none, done := 0, cnt := (0, 0, false), rng := 0 }
        ∧ (∀ i, Cells.get 0 (t.warp k w).v i = (if 56 ≤ i % 64 then 0 else Cells.get 0 (s.warp k w).v i) ∧ Cells.get 0 h.v i = if 56 ≤ i % 64 then Cells.get 0 (s.warp k w).v i else 0)
        ∧ (∀ i, Cells.get 0 (t.warp k w).s i = (if 28 ≤ i then 0 else Cells.get 0 (s.warp k w).s i) ∧ Cells.get 0 h.s i = if 28 ≤ i then Cells.get 0 (s.warp k w).s i else 0)
        ∧ (∀ i, Cells.get false (t.warp k w).p i = (if 4 ≤ i % 8 then false else Cells.get false (s.warp k w).p i) ∧ Cells.get false h.p i = if 4 ≤ i % 8 then Cells.get false (s.warp k w).p i else false)
        ∧ (t.warp k w).q = (s.warp k w).q ∧ (t.warp k w).th = (s.warp k w).th ∧ t.mem = s.mem ∧ Cells.get none t.handlerBank core = some (k, w))
    ∧ (s.handlerLine (s.team k).vdev core = true → Cells.get none s.handlerBank core ≠ none →
        s.takeTrap k w e false x = s.modWarp k w fun y => y.modEntry e fun p => { p with hold := .trap x })
    ∧ (s.handlerLine (s.team k).vdev core = false → s.takeTrap k w e false x = (if hv = 0 then s else s.hvecRefused (s.team k).vdev core).trapKill k x) ∧ s.takeTrap k w e true x = s.trapKill k x
    ∧ (let t := s.trapKill k x
       (∀ p ∈ t.pend, p.ask = none → p.task ≠ (s.team k).task) → (t.task (s.team k).task).st = .complete ∧ (t.task (s.team k).task).status = 0x306)
    ∧ (let t := s.trapKill k x
       (∃ p ∈ t.pend, p.ask = none ∧ p.task = (s.team k).task) → (t.task (s.team k).task).launch.stopping = some true))
  ∧ (∀ f s k w e, s.cur.agent = .warp k w e → s.active f.grd ≠ [] →
      exec (.trap f) s = .next (({ s with cur := { s.cur with stop := true } }).takeTrap k w e s.cur.handler
        { cause := 0x16, info := f.imm.setWidth 64, mask := maskOf (s.active f.grd), pc := s.cur.upc, next := s.cur.npc }))

/-- R354: ERET in a handler line of a warp whose team holds no EVICTED tile gives the bank back: v56 to v63, s28 to s31 and p4 to p6 are the saved ones, the warp runs no handler and frees the core's bank, and the saved path stands again at the trapped unit, or at the next with TSTAT.SKIP; with an EVICTED tile it waits while another handler path of the warp can restore one (log 23, the model's reading); elsewhere it is ILLOP. TRAP_DISPATCH takes a trap that waited, once the bank is free. -/
def Obligations.ReturnFromATrap : Prop :=
  ∀ f s k w e, s.cur.agent = .warp k w e → s.active f.grd ≠ [] →
    (s.cur.handler = false → exec (.eret f) s = .next (s.trapWith 4 s.cur.ipc 0 (maskOf s.pathThreads)))
    ∧ (s.cur.handler = true → (∃ c ∈ (s.team k).tiles, c.2.evicted = true) → (s.warp k w).othersRestore e = true → exec (.eret f) s = .next (s.wait .evicted))
    ∧ (s.cur.handler = true → (∀ c ∈ (s.team k).tiles, c.2.evicted = false) →
      ∀ h, (s.warp k w).handler = some h → Cells.wf 0 h.v = true → Cells.wf 0 h.s = true → Cells.wf false h.p = true →
        (∀ c ∈ h.v, 56 ≤ c.1 % 64) → (∀ c ∈ h.s, 28 ≤ c.1) → (∀ c ∈ h.p, 4 ≤ c.1 % 8) →
      h.entry < 8 → ((s.warp k w).entry h.entry).mask &&& h.mask ≠ 0 → h.mask ≠ 0 → (∀ u ∈ maskList h.mask, ((s.warp k w).thread u).st ≠ .exited) →
      ∃ t, exec (.eret f) s = .next t ∧ (t.warp k w).handler = none ∧ (∀ c ∈ t.handlerBank, c.2 ≠ some (k, w)) ∧ t.mem = s.mem
        ∧ (∀ i, Cells.get 0 (t.warp k w).v i = if 56 ≤ i % 64 then Cells.get 0 h.v i else Cells.get 0 (s.warp k w).v i)
        ∧ (∀ i, Cells.get 0 (t.warp k w).s i = if 28 ≤ i then Cells.get 0 h.s i else Cells.get 0 (s.warp k w).s i)
        ∧ (∀ i, Cells.get false (t.warp k w).p i = if 4 ≤ i % 8 then Cells.get false h.p i else Cells.get false (s.warp k w).p i)
        ∧ (t.warp k w).entry h.entry = { valid := true, pc := if (s.warp k w).tstat.getLsbD 0 then h.nextPc else h.pc, mask := h.mask }
        ∧ (t.warp k w).q = (s.warp k w).q ∧ (t.warp k w).tstat = (s.warp k w).tstat)

/-- R349, R355 to R359: in a handler line CSRR gives the trap register it names and CSRW of TSTAT sets SKIP and clears HFLT by a 1, any other use traps CSRPRIV (0x50); KILLW exits every thread of the warp it names; PAUSE holds the path 64 cyc per unit, which keeps its AGE; MIRX.off and MIRX.on suspend and resume mirrored issue, MIRX.test gives whether it runs; WAITEV takes the TEVT bits of its mask and waits while there are none. -/
def Obligations.SystemFormsAct : Prop :=
  ∀ f s k w e, s.cur.agent = .warp k w e → s.active f.grd ≠ [] →
    let n := (opdB s f).toNat
    let x := s.warp k w
    let move (h : Hold) (a : Option Nat) (y : Warp) : Warp := y.modEntry e fun p => { p with pc := s.cur.npc, done := 0, hold := h, age := a.getD p.age }
    ((s.cur.handler = false ∨ 5 < n) → ∀ i, i ∈ [Instr.csrr f, .csrw f] → exec i s = .next (s.trapWith 0x50 (BitVec.ofNat 64 n) 0 (maskOf (s.active f.grd))))
    ∧ (s.cur.handler = true → n ≤ 5 →
      ((Instr.csrr f).wf = true → ∃ t, exec (.csrr f) s = .next t ∧ RegFrame s t (fun r => r ∈ dstRegs f.dst 0 true)
        ∧ holds t f.dst 0 true (match n with | 0 => x.tcause | 1 => x.tpc | 2 => x.tinfo | 3 => x.tinfo2 | 4 => x.tmask | _ => x.tstat))
      ∧ (let a := s.rdReg s.lowThread f.a true
         exec (.csrw f) s = .next (s.modWarp k w fun y => move .none none (if n = 5 then { y with tstat := (a &&& 1) ||| (y.tstat &&& 2 &&& ~~~a) } else y))))
    ∧ (let v := n % 2 ^ 32
       ((s.team k).wpt ≤ v ∨ ((s.team k).warp v).ended = true → ∃ t, exec (.killw f) s = .next t ∧ RegFrame s t fun _ => False)
       ∧ (v < (s.team k).wpt → ((s.team k).warp v).ended = false → ∃ t, exec (.killw f) s = .next t ∧ (t.warp k v).ended = true ∧ (∀ u, u < 32 → ((t.warp k v).thread u).st = .exited) ∧ t.mem = s.mem))
    ∧ exec (.pause f) s = .next (s.modWarp k w (move (.pauseTill (s.cyc + 64 * f.imm.toNat)) (some s.cur.age)))
    ∧ exec (.mirxOff f) s = .next (s.modWarp k w fun y => move .none none (if s.cLaunch.mirrored then { y with mirOff := true } else y))
    ∧ exec (.mirxOn f) s = .next (s.modWarp k w fun y => move .none none (if s.cLaunch.mirrored then { y with mirOff := false } else y))
    ∧ ((Instr.mirxTest f).wf = true → ∃ t, exec (.mirxTest f) s = .next t ∧ regVal t (predReg f.dst 0) = bit (s.cLaunch.mirrored && !x.mirOff) ∧ RegFrame s t fun r => r = predReg f.dst 0)
    ∧ (f.imm ≠ 0 → (s.team k).tevt &&& f.imm = 0 → exec (.waitev f) s = .next (s.wait (.tevt f.imm)))
    ∧ (f.imm ≠ 0 → (s.team k).tevt &&& f.imm ≠ 0 → (Instr.waitev f).wf = true →
        ∃ t, exec (.waitev f) s = .next t ∧ (f.dst.file = .s → regVal t (.s f.dst.idx.toNat) = ((s.team k).tevt &&& f.imm).setWidth 64)
          ∧ RegFrame (s.modTeam k fun t => { t with tevt := t.tevt &&& ~~~f.imm }) t fun r => f.dst.file = .s ∧ r = .s f.dst.idx.toNat)

/-- R425, R427 to R429: RPOPN opens the next point of a virtual device whose stacks have their journals and undo logs, giving 0, or 1 while a point is open or sealing, 2 for another number and 3 without those; RPSEAL of an open point, once the warp's writes are durable, keeps the record it reads, makes the point pending and gives 0, or 1 with none open; RPQRY.st gives a point's state 0 to 3; RPQRY.wt gives it when it is 3 or 0, or 2 for a point that covers the issuing launch, and waits otherwise. -/
def Obligations.RecoveryPointFormsComplete : Prop :=
  ∀ f s k w e, s.cur.agent = .warp k w e → s.active f.grd ≠ [] →
    let v := (s.team k).vdev
    let n : W32 := (opdB s f).setWidth 32
    let r := s.rp v
    let opened := r.cur.getLsbD 63
    let sealing := r.cur.getLsbD 62
    let here : W32 := r.cur.setWidth 32
    let st := r.stateOf n
    let dst := fun q : Reg => q ∈ dstRegs f.dst 0 true
    let s' := s.drain s.ownPend
    (allPerformed s' → (Instr.rpopn f).wf = true →
      let ready := s.csize ≠ 0 ∧ ∀ i, i < 8 → (s.stk i).jrnSize ≠ 0 ∧ (s.stk i).ulSize ≠ 0
      let opens := opened = false ∧ sealing = false ∧ n = (if here = 0xFFFFFFFF then 1 else here + 1) ∧ ready
      (opens → ∃ t, exec (.rpopn f) s = .next t ∧ holds t f.dst 0 true 0 ∧ RegFrame (s'.modRp v fun r => { r with cur := 2 ^ 63 + n.setWidth 64, covered := [], armer := none }) t dst)
      ∧ ((opened = true ∨ sealing = true) → ∃ t, exec (.rpopn f) s = .next t ∧ holds t f.dst 0 true 1 ∧ RegFrame s' t dst)
      ∧ (opened = false → sealing = false → n ≠ (if here = 0xFFFFFFFF then 1 else here + 1) → ∃ t, exec (.rpopn f) s = .next t ∧ holds t f.dst 0 true 2 ∧ RegFrame s' t dst)
      ∧ (opened = false → sealing = false → n = (if here = 0xFFFFFFFF then 1 else here + 1) → ¬ ready → ∃ t, exec (.rpopn f) s = .next t ∧ holds t f.dst 0 true 3 ∧ RegFrame s' t dst))
    ∧ ((Instr.rpseal f).wf = true →
      (opened = false → ∃ t, exec (.rpseal f) s = .next t ∧ holds t f.dst 0 true 1 ∧ RegFrame s t dst)
      ∧ (∀ pa pte, opened = true → Released s .rel .rc s' → (s.rdReg s.lowThread f.a true).toNat % 64 = 0 →
          s'.translate v (s.rdReg s.lowThread f.a true).toNat false false = .ok (pa, pte) → s'.reaches (coreDie (s.team k).core) (corePort (s.team k).core) pa = true → s'.poisonHit pa 64 false = none →
          s'.chunkBusy pa = false → s'.rangesWait [((s.rdReg s.lowThread f.a true).toNat, pa, 64)] = none →
          let h := (s'.handleOf (s.team k).task).toNat
          ∃ t, exec (.rpseal f) s = .next t ∧ holds t f.dst 0 true 0 ∧ RegFrame (((s'.takeAsks s.lowThread false [] [((s.rdReg s.lowThread f.a true).toNat, pa, 64)]).cMark pte false).modRp v fun r =>
            { r with cur := 2 ^ 62 + ((r.cur.setWidth 32 : W32).setWidth 64), keptAddr := s.rdReg s.lowThread f.a true, keptTask := readBytes s'.mem pa 64, armer := some h,
                     covered := if r.covered.contains h then r.covered else r.covered ++ [h] }) t dst))
    ∧ ((Instr.rpqrySt f).wf = true → ∃ t, exec (.rpqrySt f) s = .next t ∧ holds t f.dst 0 true (BitVec.ofNat 64 st) ∧ RegFrame s t dst)
    ∧ ((Instr.rpqryWt f).wf = true →
      let at_once := st = 3 ∨ st = 0 ∨ st = 2 ∧ r.covered.contains (s.handleOf (s.team k).task).toNat = true
      (at_once → ∃ t, exec (.rpqryWt f) s = .next t ∧ holds t f.dst 0 true (BitVec.ofNat 64 st) ∧ RegFrame s t dst)
      ∧ (¬ at_once → exec (.rpqryWt f) s = .next (s.wait (.rpoint n))))
    ∧ (st = if n = 0 ∨ ((r.sealedN.setWidth 32 : W32) - n).toNat < 2 ^ 31 then 3 else if n = here ∧ sealing = true then 2 else if n = here ∧ opened = true then 1 else 0)

namespace Sys2Proof.Claims

/-! Conservators. -/

/-- Nothing changed but conservator c. -/
structure OnlyCons (s t : State) (c : Nat) : Prop where
  rest : t = { s with conss := t.conss }
  others : ∀ j, j ≠ c → t.cons j = s.cons j
/-- The exact value of an arithmetic form in one lane (R389). -/
def consExact : Instr → Option (NForm × (Cons → Nat → Res))
  | .nadd f => some (f, fun c l => if f.sub = 0 then rAdd (c.val f.a.toNat l) (c.val f.b.toNat l) else rSub (c.val f.a.toNat l) (c.val f.b.toNat l))
  | .nmul f => some (f, fun c l => rMul (c.val f.a.toNat l) (c.val f.b.toNat l))
  | .nfma f => some (f, fun c l => rFma (c.val f.a.toNat l) (c.val f.b.toNat l) (c.val f.c.toNat l))
  | .ndiv f => some (f, fun c l => rDiv (c.val f.a.toNat l) (c.val f.b.toNat l))
  | .nsqt f => some (f, fun c l => rSqt (c.val f.a.toNat l))
  | .nrsq f => some (f, fun c l => nrsqVal (c.lane f.a.toNat l))
  | .nmax f => some (f, fun c l => rMinMax true (c.val f.a.toNat l) (c.val f.b.toNat l))
  | .nmin f => some (f, fun c l => rMinMax false (c.val f.a.toNat l) (c.val f.b.toNat l))
  | .nscl f => some (f, fun c l => rScl (c.val f.a.toNat l) f.imm.toInt)
  | .ncvt f => some (f, fun c l => (decodeF (if f.sub = 0 then 0x02 else 0x03) (convert false (if f.sub = 0 then 0x02 else 0x03) (c.val f.a.toNat l)).1,
      (convert false (if f.sub = 0 then 0x02 else 0x03) (c.val f.a.toNat l)).2))
  | _ => none
/-- cv d holds x lane by lane, every other cv is as it was, and NFLAGS gained the flags g raised (R390). -/
def lanesWritten (x y : Cons) (d : Nat) (w : Nat → W32) (g : Nat → W32) : Prop :=
  (∀ l, l < 64 → y.lane d l = w l) ∧ (∀ j l, j ≠ d → l < 64 → y.lane j l = x.lane j l)
  ∧ ∀ b, b < 32 → (y.nflags.getLsbD b = true ↔ x.nflags.getLsbD b = true ∨ ∃ l, l < 64 ∧ (g l).getLsbD b = true)
/-- The window a memory form names, and its byte offset there (R380, R388). -/
def winOf (s : State) (f : NForm) : Win × Int :=
  let a := (s.ccons.caAt f.a.toNat).toNat
  (s.cUpd.win.getD (a / 2 ^ 32 % 4) {}, ((a % 2 ^ 32 : Nat) : Int) + f.imm.toInt)
/-- Bytes a sub-op moves (R388). -/
def zOf (sub : BitVec 4) : Nat := if sub = 1 then 128 else if sub = 3 then 4 else 256
/-- The access lies in a used window (R388). -/
def inWindow (s : State) (f : NForm) : Prop :=
  (s.ccons.caAt f.a.toNat).toNat < 2 ^ 34 ∧ (winOf s f).1.used = true ∧ (winOf s f).2 % (zOf f.sub : Int) = 0 ∧ 0 ≤ (winOf s f).2 ∧ (winOf s f).2 + zOf f.sub ≤ (winOf s f).1.len
/-- ca[A] after an access with or without INC (R388). -/
def caAfter (s : State) (f : NForm) (j : Nat) : W64 :=
  if f.inc = true ∧ j = f.a.toNat then s.ccons.caAt j + BitVec.ofNat 64 (zOf f.sub) else s.ccons.caAt j
/-- The update ends with a code: it stops here and rolls back before it completes (R387, R397). -/
def endsWith (s : State) (code : Nat) : Out :=
  .next (({ s with cur := { s.cur with stop := true } }).modUpd s.cUpdTask fun u => { u with faulted := some code })

end Sys2Proof.Claims

/-- R389, R390: a conservator's arithmetic form completes with CONVERT of each lane's exact value to FP32 in every lane of its destination, NFLAGS gaining the lanes' flags, and the next instruction; nothing else changes. NADD's address form adds IMM to a ca register modulo 2^64. -/
def Obligations.ConservatorArithmeticInEveryLane : Prop :=
  ∀ (s : State) c, s.cur.agent = .cons c →
    let x := s.cons c
    (∀ i f res, consExact i = some (f, res) → ∃ t, exec i s = .next t ∧ OnlyCons s t c
      ∧ t.cons c = { x with cv := (t.cons c).cv, nflags := (t.cons c).nflags, pc := x.pc + 1 }
      ∧ lanesWritten x (t.cons c) f.d.toNat (fun l => BitVec.ofNat 32 (convert false 0x01 (res x l).1).1) (fun l => ((res x l).2.or (convert false 0x01 (res x l).1).2).bits))
    ∧ ∀ f, ∃ t, exec (.naddAddr f) s = .next t ∧ OnlyCons s t c ∧ t.cons c = { x with ca := (t.cons c).ca, pc := x.pc + 1 }
      ∧ ∀ j, (t.cons c).caAt j = if j = f.d.toNat then x.caAt f.a.toNat + f.imm.signExtend 64 else x.caAt j

/-- R380, R388, R395: in a used window, NLD of unpoisoned bytes gives each lane the value at its offset, NST of sectors that the update has logged writes each lane's bytes and no other byte, and INC adds the bytes moved to ca[A]; an NST of a sector not yet logged waits for its undo records and writes nothing. Elsewhere, or for an NST without W, the update ends with CONS.ADDR (0x315); a poisoned read ends it with CONS.POISON (0x319). -/
def Obligations.ConservatorAccessesStayInTheirWindow : Prop :=
  ∀ (s : State) c f, s.cur.agent = .cons c →
    let x := s.cons c
    let pa := (winOf s f).1.pa + (winOf s f).2.toNat
    let z := zOf f.sub
    (¬ inWindow s f → exec (.nld f) s = endsWith s 0x315 ∧ exec (.nst f) s = endsWith s 0x315)
    ∧ (inWindow s f → (winOf s f).1.w = false → exec (.nst f) s = endsWith s 0x315)
    ∧ (inWindow s f → s.poisonHit pa z false ≠ none → exec (.nld f) s = endsWith s 0x319)
    ∧ (inWindow s f → s.poisonHit pa z false = none → ∃ t, exec (.nld f) s = .next t ∧ OnlyCons s t c
        ∧ t.cons c = { x with cv := (t.cons c).cv, ca := (t.cons c).ca, nflags := (t.cons c).nflags, pc := x.pc + 1 } ∧ (∀ j, (t.cons c).caAt j = caAfter s f j)
        ∧ let at_ (o n : Nat) : Nat := readLe s.mem (pa + o) n
          let cv (fmt l n : Nat) : Nat × Flg := convert false 0x01 (decodeF fmt (at_ (n * l) n))
          lanesWritten x (t.cons c) f.d.toNat
            (fun l => BitVec.ofNat 32 (if f.sub = 0 then at_ (4 * l) 4 else if f.sub = 1 then (cv 0x02 l 2).1 else if f.sub = 2 then (cv 0x04 l 4).1 else at_ 0 4))
            (fun l => if f.sub = 1 then (cv 0x02 l 2).2.bits else if f.sub = 2 then (cv 0x04 l 4).2.bits else 0))
    ∧ (inWindow s f → (winOf s f).1.w = true → f.sub ≠ 3 →
        ((∃ y ∈ sectorsOf pa z, y ∉ s.cUpd.logged) → ∃ t, exec (.nst f) s = .next t ∧ t.mem = s.mem
          ∧ t.cons c = { x with pendUndo := (sectorsOf pa z).filter fun y => !s.cUpd.logged.contains y } ∧ ∀ j, j ≠ c → t.cons j = s.cons j)
        ∧ ((∀ y ∈ sectorsOf pa z, y ∈ s.cUpd.logged) → ∃ t, exec (.nst f) s = .next t
          ∧ (∀ j, j ≠ c → t.cons j = s.cons j) ∧ t.cons c = { x with ca := (t.cons c).ca, nflags := (t.cons c).nflags, pc := x.pc + 1 } ∧ (∀ j, (t.cons c).caAt j = caAfter s f j)
          ∧ let n := z / 64
            let out (l : Nat) : Nat := let y := (x.lane f.b.toNat l).toNat
              if f.sub = 0 then y else if f.sub = 1 then (convert false 0x02 (decodeF 0x01 y)).1 else (convert false 0x04 (decodeF 0x01 y)).1
            (∀ l, l < 64 → readBytes t.mem (pa + n * l) n = leBytes n (out l)) ∧ (∀ a, (a < pa ∨ pa + z ≤ a) → readByte t.mem a = readByte s.mem a)
            ∧ t.teams = s.teams ∧ t.rills = s.rills))

/-- R391, R392: NLOOP subtracts one from ca[A] and branches while the result is nonzero, NBRZ branches when ca[A] is 0, a target outside the code ending the update with CONS.PC (0x316); NDONE retires the update and frees its conservator when every launch whose signal it took has retired; NSIG takes the next number of its target counter, and has no effect on a launch that is gone; NWAIT goes on once DONE of its source has reached ca[A] + IMM, waits below it, and ends with CONS.WAIT (0x317) when the launch is gone; an entry of the wrong kind ends the update with CONS.DESC (0x310). -/
def Obligations.ConservatorControlAndSignals : Prop :=
  ∀ (s : State) c f, s.cur.agent = .cons c →
    let x := s.cons c
    let dest : Int := x.pc + f.imm.toInt
    let inside : Prop := 0 ≤ dest ∧ dest < (s.cUpd.code.length : Int)
    let dec : Cons := { x with ca := Cells.set 0 x.ca f.a.toNat (x.caAt f.a.toNat - 1) }
    let e := s.cUpd.sync.getD f.sub.toNat {}
    let k := s.cUpdTask
    (x.caAt f.a.toNat = 1 → exec (.nloop f) s = .next (s.modCons c fun _ => { dec with pc := x.pc + 1 }))
    ∧ (x.caAt f.a.toNat ≠ 1 → inside → exec (.nloop f) s = .next (s.modCons c fun _ => { dec with pc := dest.toNat }))
    ∧ (x.caAt f.a.toNat ≠ 1 → ¬ inside → exec (.nloop f) s = endsWith s 0x316)
    ∧ (x.caAt f.a.toNat ≠ 0 → exec (.nbrz f) s = .next (s.modCons c fun y => { y with pc := x.pc + 1 }))
    ∧ (x.caAt f.a.toNat = 0 → inside → exec (.nbrz f) s = .next (s.modCons c fun y => { y with pc := dest.toNat }))
    ∧ (x.caAt f.a.toNat = 0 → ¬ inside → exec (.nbrz f) s = endsWith s 0x316)
    ∧ (x.task = some k → (s.task k).upd.cons = c → (s.task k).consumed = [] → ∃ t, exec (.ndone f) s = .next t
        ∧ (t.task k).st = .retired ∧ (t.cons c).task = none ∧ t.mem = s.mem)
    ∧ (e.kind ≠ 2 → exec (.nsig f) s = endsWith s 0x310)
    ∧ (e.kind = 2 → s.syncTarget e = none → exec (.nsig f) s = .next (s.modCons c fun y => { y with pc := x.pc + 1 }))
    ∧ (∀ l k', e.kind = 2 → s.syncTarget e = some l → (s.task l).launch.retiredGangs.contains (e.team / (s.task l).launch.adm.tpg) = false →
        s.teamNo l e.team = some k' → (s.team k').tlAddr e.tl = none →
        let m := ((s.team k').tlAt e.tl).iss.toNat + 1
        exec (.nsig f) s = .next ((s.modTl k' e.tl fun y => { y with iss := y.iss + 1 }).modCons c fun y => { y with pc := x.pc + 1, pendSig := y.pendSig ++ [(e.launch, e.team, e.tl, m)] }))
    ∧ (e.kind ≠ 1 → exec (.nwait f) s = endsWith s 0x310)
    ∧ (e.kind = 1 → s.taskOf (BitVec.ofNat 64 e.launch) = none → exec (.nwait f) s = endsWith s 0x317)
    ∧ (∀ l, e.kind = 1 → s.taskOf (BitVec.ofNat 64 e.launch) = some l →
        let n := (x.caAt f.a.toNat + f.imm.signExtend 64).toNat
        (n ≤ s.sourceDone l e.team e.tl → exec (.nwait f) s = .next (s.modCons c fun y => { y with pc := x.pc + 1 }))
        ∧ (s.sourceDone l e.team e.tl < n → (s.task l).st ≠ .retired → (s.task l).st ≠ .complete → exec (.nwait f) s = .next { s with cur := { s.cur with stop := true } })
        ∧ (s.sourceDone l e.team e.tl < n → ((s.task l).st = .retired ∨ (s.task l).st = .complete) → exec (.nwait f) s = endsWith s 0x317))

namespace Sys2Proof.Claims

/-! The part's own steps. -/

/-- A path entry with its hold ended (R187, R357). -/
def unheld (s : State) (k w e : Nat) : State := s.modWarp k w fun x => x.modEntry e fun p => { p with hold := .none }

end Sys2Proof.Claims

/-- R155, R158, R163, R166 to R168, R187, R348, R351, R357: the steps of paths and rill threads. MEET_RELEASE of an address whose whole await set is parked there stands every thread of the set in one path at the address, without a MEET; REJOIN_TIMEOUT of a timer that has run its time releases the parked ones, makes the away ones stragglers, ends adopted stragglers and leaves a recalled thread as it is; RILL_ARRIVE parks an away thread at its MEET and frees its contexts; RILL_RECALL stands it in its warp at its PC; SPILL_EVICT spills the youngest path, whose threads keep what it waited for and what it has performed of its unit; TRAP_DISPATCH takes a waiting trap once the bank is free; LINE_REFETCH lets a path go on when the line's parity holds; YIELD_EXPIRE and PAUSE_EXPIRE end a wait whose cyc has come. -/
def Obligations.PathsAndRillThreadsMoveOn : Prop :=
  ∀ (s : State) k w e c (a : W64),
    let x := s.warp k w
    let acts := ((s.team k).st = .resident ∨ (s.team k).st = .ended) ∧ (s.team k).halted = false
    let set := (List.range 32).filter fun t => (x.thread t).st != .exited && (match (x.thread t).strag with | none => (x.thread t).meet == a | some g => g.adopted == some a)
    let parked := fun t => (x.thread t).st = .parked ∧ (x.thread t).pc = a
    (acts → x.handler = none → set ≠ [] → (∀ t ∈ set, parked t) →
      ∃ t', exec (.meetRelease k w a) s = .next t' ∧ (∀ t ∈ set, stands t' k w t a ∧ ((t'.warp k w).thread t).meet = noMeet) ∧ (∀ t, t ∉ set → (t'.warp k w).thread t = x.thread t)
        ∧ t'.mem = s.mem ∧ (∀ r, regVal t' r = regVal s r))
    ∧ (acts → x.handler = none → (∃ t ∈ set, parked t) →
        (∃ m ∈ x.timers, m.addr = a ∧ m.start + m.rjt ≤ s.cyc) →
      ∃ t', exec (.rejoinTimeout k w a) s = .next t'
        ∧ (∀ t ∈ set, parked t → stands t' k w t a ∧ ((t'.warp k w).thread t).meet = noMeet ∧ ((t'.warp k w).thread t).strag = none)
        ∧ (∀ t ∈ set, ¬ parked t → (x.thread t).strag = none → (x.thread t).st = .away → ((t'.warp k w).thread t).strag = some { group := x.stragGroups })
        ∧ (∀ t ∈ set, ¬ parked t → (x.thread t).strag = none → (x.thread t).st ≠ .away → (t'.warp k w).thread t = x.thread t)
        ∧ (∀ t ∈ set, ¬ parked t → (x.thread t).strag.isSome = true → ((t'.warp k w).thread t).strag = none) ∧ t'.mem = s.mem)
    ∧ (16384 ≤ x.spillAge → x.freeEntry = none → (∃ t, t < 32 ∧ (x.thread t).st = .spilled) → ∀ e', x.evictee = some e' →
        exec (.spillEvict k w) s = .next (s.modWarp k w fun y =>
          let p := y.entry e'
          let z := (maskList p.mask).foldl (fun z t => z.modThread t fun th => { th with st := .spilled, pc := p.pc, held := p.hold, did := p.done.getLsbD t, rng := p.rng.getLsbD t }) y
          ((match maskList p.mask with | t :: _ => z.modThread t fun th => { th with cnt := p.cnt } | [] => z).modEntry e' fun _ => {}).refill))
    ∧ (let r := s.rill c
       let th := (s.warp r.team r.warp).thread r.thread
       (s.arrives c = true → th.strag = none → r.thread < 32 → Cells.wf {} s.rills = true →
          ∃ t', exec (.rillArrive c) s = .next t' ∧ ((t'.warp r.team r.warp).thread r.thread).st = .parked ∧ ((t'.warp r.team r.warp).thread r.thread).pc = r.pc
            ∧ (t'.rill c).used = false ∧ t'.mem = s.mem ∧ ∀ i, (i < 56 ∨ (i < 64 ∧ (s.warp r.team r.warp).handler = none)) → Cells.get 0 (t'.warp r.team r.warp).v (64 * r.thread + i) = Cells.get 0 r.v i)
       ∧ (r.used = true → r.mirror = false → r.fault = none → s.rillRecalls c = true → r.thread < 32 → Cells.wf {} s.rills = true →
          ∃ t', exec (.rillRecall c) s = .next t' ∧ stands t' r.team r.warp r.thread r.pc ∧ (t'.rill c).used = false ∧ t'.mem = s.mem))
    ∧ (∀ tr, acts → Cells.get none s.handlerBank (s.team k).core = none → x.handler = none → (x.entry e).hold = .trap tr → exec (.trapDispatch k w e) s = .next (s.takeTrap k w e false tr))
    ∧ (acts → Cells.get none s.handlerBank (s.team k).core = none → x.handler.isSome = true →
        exec (.trapDispatch k w e) s = .next { s with handlerBank := Cells.set none s.handlerBank (s.team k).core (some (k, w)) })
    ∧ (∀ l p, (x.entry e).refetched = true → s.readLine (s.team k).vdev (coreDie (s.team k).core) (corePort (s.team k).core) (x.entry e).pc = .ok (l, p) →
        (lineParityOk l = true → exec (.lineRefetch k w e) s = .next (s.modWarp k w fun y => y.modEntry e fun p => { p with refetched := false }))
        ∧ (lineParityOk l = false → exec (.lineRefetch k w e) s = .next (s.teamCheck k 3)))
    ∧ (∀ n, (x.entry e).hold = .yieldTill n → n ≤ s.cyc → exec (.yieldExpire k w e) s = .next (unheld s k w e))
    ∧ (∀ n, (x.entry e).hold = .pauseTill n → n ≤ s.cyc → exec (.pauseExpire k w e) s = .next (unheld s k w e))

namespace Sys2Proof.Claims

/-- The task graph's entry of k after a release is taken (R93, R104). -/
def released (t : Task) (by_ : Option Nat) : Task := { t with rcvd := t.rcvd + 1, consumed := match by_ with | some h => t.consumed ++ [h] | none => t.consumed }

end Sys2Proof.Claims

/-- R93 to R103, R107, R108, R110, R416, R417: the steps of the task graph. A doorbell's tail between the list's tail and its slots is taken and starts a stalled list; a fetch whose record holds the position's SEQ writes the new handle into the slot and enters the record, another stops the list, LISTSTALL's ARG being the position and the list (log 11), as does a slot that cannot be read or written (log 19: the model's reading); the release that completes NPRED makes a waiting task READY; dispatch admits a launch or checks an update; a die in reset has no effect; placement makes a gang's teams on its cluster, each warp a path of 32 threads at the kernel's entry with zero registers, or puts a saved gang's teams back as they left; a task that has retired or ended frees its entry, whose generation, virtual device and TAG stay, when its queue can take COMPLETE, PREEMPTED of an open request being posted before; a release of a task that waits no longer posts TASKUF; one dispatch opportunity dispatches one task (when opportunities are used up: log 108, the model's reading); a gang whose teams are idle and a launch whose gangs are done retire; a held event enters its ring at TAIL. -/
def Obligations.TaskGraphStepsAct : Prop :=
  ∀ (s : State) v l d k g (val : W64),
    let x := (s.vdev v).list l
    let tail : W32 := val.setWidth 32
    (s.bootstat.getLsbD 0 = true → l ≠ 15 → x.en = true → (tail - x.tail).toNat < 2 ^ 31 → (tail - x.head).toNat ≤ 2 ^ x.lsz →
      exec (.ltailWrite v l val) s = .next (s.modList v l fun y => { y with tail := tail, stalled := false }))
    ∧ (s.bootstat.getLsbD 0 = true → (l = 15 ∨ x.en = false ∨ 2 ^ 31 ≤ (tail - x.tail).toNat ∨ 2 ^ x.lsz < (tail - x.head).toNat) →
      exec (.ltailWrite v l val) s = .next (s.listErr v l val))
    ∧ (let pos := x.head.toNat
       let a := x.lbase.toNat + 64 * (pos % 2 ^ x.lsz)
       let can := (s.die x.hdie).inReset = false ∧ (s.vdev v).frozen = false ∧ x.en = true ∧ x.stalled = false ∧ x.head ≠ x.tail ∧ x.notRetired.contains ((pos + 2 ^ 32 - 4096) % 2 ^ 32) = false
       let gen := nextGen (s.task k).gen
       (∀ bs s1 s2, can → s.freeEntry x.hdie = some k → s.devRead x.hdie v a 64 = .ok (bs, s1) → fieldAt bs 8 4 = pos → s1.devWrite x.hdie v (a + 0x30) (leBytes 8 (gen.toNat * 65536 + k)) = .ok s2 →
          (s1.task k).gen = (s.task k).gen → (s2.task k).gen = (s.task k).gen → s2.vdevs = s.vdevs →
          ∃ t, exec (.taskFetch v l) s = .next t ∧ t.mem = s2.mem ∧ (t.task k).gen = gen ∧ (t.task k).trec = parseTask bs pos ∧ (t.task k).vdev = v ∧ (t.task k).list = l
            ∧ ((t.vdev v).list l).head = x.head + 1 ∧ ((t.vdev v).list l).tail = x.tail
            ∧ (taskRecOk bs l = false → (t.task k).st = .complete ∧ (t.task k).status = 0x300)
            ∧ (taskRecOk bs l = true → (Cells.get (0, false) x.window (pos % 4096)) = (0, false) → (t.task k).st = if fieldAt bs 5 1 = 0 then .ready else .waiting))
       ∧ (∀ bs s1, can → s.freeEntry x.hdie = some k → s.devRead x.hdie v a 64 = .ok (bs, s1) → fieldAt bs 8 4 ≠ pos →
          exec (.taskFetch v l) s = .next ((s.modList v l fun y => { y with stalled := true }).post x.hdie v 0x13 v 0 0 (pos + l * 2 ^ 32)))
       ∧ (can → s.freeEntry x.hdie = some k →
          ((∃ e, s.devRead x.hdie v a 64 = .error e) ∨ ∃ bs s1 e, s.devRead x.hdie v a 64 = .ok (bs, s1) ∧ s1.devWrite x.hdie v (a + 0x30) (leBytes 8 ((nextGen (s1.task k).gen).toNat * 65536 + k)) = .error e) →
          exec (.taskFetch v l) s = .next ((s.modList v l fun y => { y with stalled := true }).post x.hdie v 0x13 v 0 0 (pos + l * 2 ^ 32))))
    ∧ ((s.die d).inReset = false → (s.die d).cur.guest = none → s.entryOf val = some k →
        ((s.task k).st = .waiting → (s.task k).rcvd + 1 < (s.task k).npred → exec (.tgdecWrite d val) s = .next (s.modTask k fun t => released t none))
        ∧ ((s.task k).st = .waiting → (s.task k).npred ≤ (s.task k).rcvd + 1 → ∃ t, exec (.tgdecWrite d val) s = .next t ∧ t.task k = { released (s.task k) none with st := .ready })
        ∧ ((s.task k).st ≠ .waiting → exec (.tgdecWrite d val) s = .next (s.postTask (taskDie k) (s.task k).vdev 0x15 k 2)))
    ∧ ((s.die d).inReset = false → (s.die d).cur.guest = none → s.taskOf val = some k → s.canDispatch k = true → exec (.dispatchWrite d val) s = .next (if (s.task k).trec.kind = 2 then s.dispatchUpd k else s.admitLaunch k))
    ∧ ((s.die d).cur.guest = none → s.taskOf val = none → exec (.dispatchWrite d val) s = .next s)
    ∧ ((s.die d).inReset = true → exec (.dispatchWrite d val) s = .next s ∧ exec (.tgdecWrite d val) s = .next s ∧ exec (.hwDispatch d v) s = .next s)
    ∧ ((s.die d).inReset = false → (s.die d).cur.guest = none → s.entryOf val = none → exec (.tgdecWrite d val) s = .next (s.post d 16 0x14 0xFF 0 0 (val.toNat + 2 ^ 64)))
    ∧ (let o := 16 * d + v
       let n := Cells.get 0 s.opps o
       (n = 0 → exec (.hwDispatch d v) s = .next s)
       ∧ (n ≠ 0 → (s.die d).inReset = false → s.gdisp v = false → s.nextReady d v = some k →
          let s' := if (s.task k).trec.kind = 2 then s.dispatchUpd k else s.admitLaunch k
          exec (.hwDispatch d v) s = .next (if (s'.task k).st = .dispatched then { s' with opps := Cells.modify 0 s'.opps o (· - 1) } else s')))
    ∧ (∀ sv m b, s.tilesServed k = none → s.waitsPlace k = true → s.placing (s.task k).vdev = true → s.placeTurn k = true →
        ¬ ((s.task k).st = .dispatched ∧ (s.task k).launch.adm.kernel.grp = true ∧ s.capacity (s.task k).launch.adm (s.vdev (s.task k).vdev).partId < (s.task k).launch.adm.ngang) →
        s.placeAt k = some (g, sv, m, b) → ∃ t, exec (.gangPlace k) s = .next t ∧ (t.task k).tstart = (if (s.task k).st = .dispatched then s.ns else (s.task k).tstart)
          ∧ (t.task k).launch.lastClus = m + 1
          ∧ (sv = false → t.mem = s.mem ∧ (t.task k).st = .running ∧ (t.task k).launch.nextGang = (s.task k).launch.nextGang + 1
            ∧ ∀ i, i < (s.task k).launch.adm.tpg → let a := (s.task k).launch.adm
              let y := t.team (s.nextTeam + i)
              y.st = .resident ∧ y.task = k ∧ y.vdev = (s.task k).vdev ∧ y.gang = g ∧ y.pos = i ∧ y.num = g * a.tpg + i ∧ y.core = 4 * m + b + i ∧ y.halted = false ∧ y.started = s.cyc ∧ y.spad = []
              ∧ ∀ w, w < a.wpt → (y.warp w).entry 0 = { valid := true, pc := a.code + a.kernel.entry, mask := 0xFFFFFFFF } ∧ (∀ j, j ≠ 0 → ((y.warp w).entry j).valid = false)
                ∧ (∀ j, Cells.get 0 (y.warp w).v j = 0 ∧ Cells.get 0 (y.warp w).s j = 0 ∧ Cells.get false (y.warp w).p j = false ∧ Cells.get false (y.warp w).q j = false)
                ∧ (∀ u, u < 32 → ((y.warp w).thread u).meet = noMeet ∧ ((y.warp w).thread u).vstat = 0 ∧ ((y.warp w).thread u).st = .pathed) ∧ (y.warp w).hwm = (a.priv + 2047) / 2048 * 2048)
          ∧ (sv = true → g ∉ (t.task k).launch.saved)
          ∧ (sv = true → (∀ j ∈ s.savedTeams k g, (s.team j).record = none ∧ (s.team j).tilesDue = []) →
              (t.task k).st = .running ∧ ∀ j ∈ s.savedTeams k g, (t.team j).core = 4 * m + b + (s.team j).pos ∧ (t.team j).halted = false ∧ (t.team j).st = (if (s.team j).allEnded then .ended else .resident) ∧ (t.team j).warps = (s.team j).warps))
    ∧ (s.gangDone k g = true → ∃ t, exec (.gangRetire k g) s = .next t ∧ (∀ j ∈ s.gangTeams k g, (Cells.keys t.teams).contains j = false) ∧ (t.task k).launch.retiredGangs = (s.task k).launch.retiredGangs ++ [g]
        ∧ t.mem = s.mem)
    ∧ (s.launchDone k = true → ∃ t, exec (.launchRetire k) s = .next t ∧ (t.task k).st = .retired ∧ (t.task k).tend = s.ns ∧ t.mem = s.mem)
    ∧ ((s.task k).st = .retired ∨ (s.task k).st = .complete → (s.task k).launch.preq = true → exec (.taskComplete k) s = .next (s.postPreempted k))
    ∧ ((s.task k).st = .retired ∨ (s.task k).st = .complete → (s.task k).launch.preq = false → s.canPost k = true → ∃ t, exec (.taskComplete k) s = .next t ∧ t.task k = { gen := (s.task k).gen, vdev := (s.task k).vdev, trec := { tag := (s.task k).trec.tag } })
    ∧ (let q := Cells.get {} (s.die d).queues g
       ∀ bs r, q.held = bs :: r → q.en = true → (q.tail - q.head).toNat < 2 ^ q.sz → bs.length = 32 →
        let p := q.base.toNat + 32 * (q.tail.toNat % 2 ^ q.sz)
        s.chunkBusy p = false → ∃ t, exec (.eventPost d g) s = .next t ∧ readBytes t.mem p 32 = bs ∧ (∀ a, (a < p ∨ p + 32 ≤ a) → readByte t.mem a = readByte s.mem a)
          ∧ Cells.get {} (t.die d).queues g = { q with tail := q.tail + 1, held := r } ∧ t.msix = s.msix ++ [17 * d + g])

/-- R113 to R115, R359, R363 to R367, R375: slices and requests. A switch tick, when its time has come, returns every curator to host mode, brings the written configurations into effect and lets each partition choose: a runnable device gains its weight, the deferred one or the greatest credit wins, the same holder keeps its slice, and another one takes it at once or waits for the outgoing teams, halted, to leave in 50 µs; who takes a slice pays SUMW and has a dispatch opportunity on every die; a partition without a runnable holder chooses at once; a commit before the deadline, every record written, lets the outgoing teams leave, saved with a record or else flushed, and hands over the slice; a miss resumes them, but for one that a guest request saves, and defers the incoming device; PREQ handles the launch's placed teams by its PMODE, each record is then saved and PREEMPTED posted after the last; a drain whose time is over becomes a save; TEVPOST ORs bits into a team's TEVT, and a set bit wakes its PAUSEs; GSTART and GEXIT enter and leave guest mode; VDCFG takes effect at the next tick. -/
def Obligations.SlicesAndRequestsAct : Prop :=
  ∀ (s : State) p k d v (val : W64) dies,
    (s.ns.toNat < s.nextTick → exec .switchTick s = .next s)
    ∧ (s.nextTick ≤ s.ns.toNat → exec .switchTick s = .next ((List.range 8).foldl State.tickPart (let u := (List.range 4).foldl State.exitGuest { s with nextTick := s.nextTick + s.swtick * 1000 }
        { u with vdevs := u.vdevs.map fun c => (c.1, { c.2 with cfg := c.2.cfgW }) })))
    ∧ ((s.part p).switching = none → (s.part p).holder = none → s.partRunnable p ≠ [] →
        exec (.partitionChoose p) s = .next ((s.creditAll p).takeSlice p ((s.creditAll p).chooseVdev p) ((s.creditAll p).sumW p)))
    ∧ (∀ u, u < 16 → (s.vdev u).partId = p → (((s.creditAll p).vdev u).credit = if s.runnable u then (s.vdev u).credit + (s.vdev u).weight else 0) ∧ (s.runnable u = false → ((s.creditAll p).vdev u).defer = false))
    ∧ (∀ u, s.chooseVdev p = some u → u ∈ s.partRunnable p
        ∧ ((∃ x ∈ s.partRunnable p, (s.vdev x).defer = true) → (s.vdev u).defer = true ∧ ∀ x ∈ s.partRunnable p, (s.vdev x).defer = true → u ≤ x)
        ∧ ((∀ x ∈ s.partRunnable p, (s.vdev x).defer = false) → ∀ x ∈ s.partRunnable p, (s.vdev x).credit ≤ (s.vdev u).credit ∧ (x < u → (s.vdev x).credit < (s.vdev u).credit)))
    ∧ (let u := s.creditAll p
       let w := u.chooseVdev p
       let y := s.tickPart p
       ((s.part p).switching ≠ none → y = s)
       ∧ ((s.part p).switching = none → w = (s.part p).holder → y.part p = s.part p ∧ y.teams = s.teams ∧ ∀ x, w = some x → (y.vdev x).credit = (u.vdev x).credit - u.sumW p)
       ∧ ((s.part p).switching = none → w ≠ (s.part p).holder → s.outgoing p = [] → y = u.takeSlice p w (u.sumW p))
       ∧ ((s.part p).switching = none → w ≠ (s.part p).holder → s.outgoing p ≠ [] → (y.part p).switching = some (w, u.sumW p) ∧ (y.part p).holder = (s.part p).holder ∧ (y.part p).deadline = s.ns.toNat + 50000
           ∧ ∀ j ∈ s.outgoing p, (y.team j).halted = true))
    ∧ (∀ w sum, let y := s.takeSlice p w sum
        (y.part p).holder = w ∧ (y.part p).switching = none ∧ (y.part p).missed = [] ∧ y.teams = s.teams ∧ y.mem = s.mem ∧ (∀ x, x < 4 → x ∈ s.partDies p → (y.die x).swConsec = 0)
        ∧ (∀ u, w = some u → (y.vdev u).credit = (s.vdev u).credit - sum ∧ (y.vdev u).defer = false ∧ ∀ x, x < 4 → Cells.get 0 y.opps (16 * x + u) = if s.gdisp u then 0 else 1)
        ∧ (∀ u o, w = some u → (s.part p).holder = some o → u < 16 → o < 16 → u ≠ o → ∀ x, x < 4 → Cells.get 0 y.opps (16 * x + o) = 0))
    ∧ (∀ w sum s', (s.part p).switching = some (w, sum) → (s.part p).missed = [] → s.ns.toNat < (s.part p).deadline → (∀ j ∈ s.outgoing p, s.saveFault j = false) →
        (∀ j ∈ s.outgoing p, (s.team j).chunksOut = false) → s.writeRecords (s.outgoing p) = .ok s' →
        exec (.switchCommit p) s = .next (((s.outgoing p).foldl State.leave s').takeSlice p w sum))
    ∧ (∀ j, s.restoring j = false →
        let t := s.team j
        let u := if t.asked = true ∨ t.draining ≠ none then s.preqCount t.task fun c => if t.record.isSome then (c.1 + 1, c.2) else (c.1, c.2.1, c.2.2.1 + 1, c.2.2.2) else s
        s.leave j = (if t.record.isSome then u.saveOut j else u.flushTeam j)
        ∧ ((s.leave j).team j).st = .saved ∧ ((s.leave j).team j).halted = false ∧ ((s.leave j).task t.task).launch.saved.contains t.gang = true ∧ (t.record.isSome = true → ((s.leave j).team j).record = t.record))
    ∧ (∀ w sum h, (s.part p).switching = some (w, sum) → (s.part p).holder = some h → ((s.part p).missed ≠ [] ∨ (s.part p).deadline ≤ s.ns.toNat) → p < 8 →
        ∃ t, exec (.switchDeadlineMiss p dies) s = .next t ∧ (t.part p).switching = none ∧ (t.part p).holder = some h ∧ (∀ j ∈ s.outgoing p, (s.team j).asked = false → s.restoring j = false → (t.team j).halted = false ∧ (t.team j).record = none) ∧ (∀ j, (s.team j).asked = true → t.team j = s.team j)
          ∧ (∀ u, w = some u → (t.vdev u).defer = true) ∧ (w ≠ some h → (t.vdev h).credit = (s.vdev h).credit - sum) ∧ t.mem = s.mem
          ∧ ∀ x ∈ (s.part p).missed, (t.die x).swConsec = min 255 ((s.die x).swConsec + 1))
    ∧ ((s.die d).inReset = false → (s.die d).cur.guest = none → s.taskOf val = some k → (s.task k).trec.kind = 1 → (s.task k).st = .running →
        let u := ({ s with preq := val }).modLaunch k fun l => { l with preq := true }
        exec (.preqWrite d val) s = .next (((u.teamsOf k).filter fun j => (u.team j).placed).foldl State.preqTeam u))
    ∧ (∀ j, (s.team j).asked = false → (s.team j).draining = none → (s.team j).halted = false → s.inSwitch j = false →
        let m := (s.task (s.team j).task).launch.adm.pmode
        let y := s.preqTeam j
        (m = 2 → (y.team j).draining = some 0 ∧ (y.task (s.team j).task).launch.noDispatch = true ∧ (y.team j).halted = false)
        ∧ (m = 1 ∨ m = 3 ∧ (s.team j).region = none → (s.team j).record = none →
            (y.team j).asked = true ∧ (y.team j).halted = true ∧ (y.team j).record.isSome = true ∨ (y.team j).asked = false ∧ (y.team j).halted = false ∧ (y.team j).record = none)
        ∧ (m = 3 → (s.team j).region.isSome = true → (y.team j).st = .saved ∧ (y.team j).record = none ∧ (y.team j).copies = []))
    ∧ (∀ n, (s.team k).draining = some (n + 1) → n + 1 ≤ s.cyc → (s.team k).st = .resident → (s.team k).halted = false → exec (.drainTimeout k) s = .next (s.preqSave k))
    ∧ ((s.task k).launch.preq = true → (s.part (s.vdev (s.task k).vdev).partId).switching = none →
        (∀ j r s', (s.preqWriting k).filter (fun j => !s.saveFault j && !(s.team j).chunksOut) = j :: r → s.writeRecord j = .ok s' → exec (.guestRequestSaveDone k) s = .next (s'.leave j))
        ∧ (∀ j r s', (s.preqWriting k).filter (fun j => !s.saveFault j && !(s.team j).chunksOut) = j :: r → s.writeRecord j = .error s' → exec (.guestRequestSaveDone k) s = .next (if s'.saveFault j then s' else s'.preqResume j))
        ∧ (s.preqWriting k = [] → s.preqDraining k = false → exec (.guestRequestSaveDone k) s = .next (s.postPreempted k)))
    ∧ (∀ j, (s.die d).inReset = false → (s.die d).cur.guest = none → s.taskOf (s.die d).tevlnch = some k → s.teamNo k (val.toNat / 2 ^ 32 % 2 ^ 26) = some j → (s.team j).st = .resident →
        exec (.tevpostWrite d val) s = .next (if val.setWidth 8 = (0 : BitVec 8) then s else (s.modTeam j fun t => { t with tevt := t.tevt ||| val.setWidth 8 }).wakePause j))
    ∧ ((s.die d).inReset = false → (s.die d).cur.guest = none → ∃ t, exec (.gstartWrite d val) s = .next t ∧ (∀ j, j ≠ d → t.die j = s.die j) ∧ (t.die d).cur.gstart = val &&& 0x10F
        ∧ (t.die d).cur.guest = (if val.getLsbD 8 then some (val.toNat % 16) else none) ∧ (val.getLsbD 8 = true → (t.die d).cur.pc = (s.die d).cur.gpc))
    ∧ (∀ g, (s.die d).inReset = false → (s.die d).cur.guest = some g → ∃ t, exec (.gexitWrite d 1) s = .next t ∧ (t.die d).cur.guest = none ∧ (t.die d).cur.gpc = (s.die d).cur.pc ∧ (t.die d).cur.pc = (s.die d).cur.hpc)
    ∧ ((s.die d).inReset = false → (s.die d).cur.guest = none → (val.toNat / 2 ^ 48 % 256 = 0 ∨ ((s.vdev v).saveSize ≠ 0 ∧ (s.vdev v).snapSize ≠ 0)) →
        exec (.vdcfgWrite d v val) s = .next (s.modVdev v fun x => { x with cfgW := val &&& 0x00FF000700000001 }))

/-- R237, R240 to R242, R249, R250, R253, R372 to R374: translation, mapping, galleries and faults. TINVC's GO is set and reads 0 again, matching translations gone from the caches, once every access that used one is performed; a legal byte of HSMAP waits and takes effect once its chunk's accesses are performed and its unsealed values journalled; CISTERN changes until it is locked; WOPEN opens a gallery once no team is resident on its die, and closes it; a refresh changes nothing; a walk sets A and D and installs the translation it read; a fault takes the lowest free slot (log 117, the model's choice), which replay, trap or rollback frees, the trap of an evicted path's threads waiting in them; a machine check rolls a running launch back, and an update with CONS.MCHK; a rollback, once the launch's issued writes are performed, makes it DISPATCHED again, or ends it after the fourth, and the tasks that consumed its signals wait for them again; a snapshot is taken where the pool has room. -/
def Obligations.HomesAndFaultsAct : Prop :=
  ∀ (s : State) d slot k (val : W64) r,
    ((s.die d).inReset = false → (s.die d).cur.guest = none → (s.die d).tinvc.getLsbD 0 = false → val.toNat / 2 % 4 ≠ 3 → exec (.tinvcGo d val) s = .next (s.modDie d fun x => { x with tinvc := val &&& 0xF7 }))
    ∧ (let x := s.die d
       let used : Pend → Bool := fun p => x.tinvHits p.vdev p.va p.span
       x.tinvc.getLsbD 0 = true → (s.drain used).drained used = true →
        exec (.tinvcDone d) s = .next ({ s.drain used with tlb := (s.drain used).tlb.filter fun y => !x.tinvHits y.vdev y.va (pageSpan y.e) }.modDie d fun x => { x with tinvc := x.tinvc &&& 0xFE }))
    ∧ (r < 20 → (s.die d).inReset = false → (s.die d).cur.guest = none → ∃ t, exec (.hsmapWrite d r val) s = .next t ∧ ∀ j, j < 8 →
        let b := val.toNat / 2 ^ (8 * j) % 256
        let first := b / 16
        let ways := b % 8
        Cells.get (16, 16) (t.die d).hsmapPend (8 * r + j) = if ways ≤ 4 ∧ first % 2 ^ ways = 0 then (first, ways) else Cells.get (16, 16) (s.die d).hsmapPend (8 * r + j))
    ∧ (∀ c x, Cells.get (16, 16) (s.die d).hsmapPend c = x → x ≠ (16, 16) →
        let u := s.drain (inChunk d c)
        let u' := (u.chunkTags d c).foldl State.journalSector u
        u'.drained (inChunk d c) = true → u'.chunkTags d c = [] →
        exec (.hsmapApply d c) s = .next (u'.modDie d fun y => { y with hsmapPend := Cells.erase y.hsmapPend c, hsmap := Cells.set (0, 4) y.hsmap c x }))
    ∧ ((s.die d).inReset = false → (s.die d).cur.guest = none → s.clock = false → val.toNat % 16 ≤ 10 → exec (.cisternWrite d val) s = .next { s with csize := val.setWidth 4, clock := val.getLsbD 4 })
    ∧ ((s.die d).inReset = false → (s.die d).cur.guest = none → s.clock = true → exec (.cisternWrite d val) s = .next s)
    ∧ ((s.die d).inReset = false → (s.die d).cur.guest = none → exec (.galctlWopenWrite d val) s = .next (s.modDie d fun x => { x with galWopen := val.getLsbD 0 }))
    ∧ ((s.die d).galWopen = true → (s.die d).galOpen = false → (∀ j ∈ s.teamKeys, (s.team j).placed = true → coreDie (s.team j).core ≠ d) →
        exec (.galleryOpen d) s = .next (s.modDie d fun x => { x with galOpen := true }))
    ∧ ((s.die d).galWopen = false → exec (.galleryClose d) s = .next (s.modDie d fun x => { x with galOpen := false }))
    ∧ exec (.galleryRefresh d r) s = .next s
    ∧ (∀ v (rg : BitVec 16) (off : W64) w pa e,
        let va := rg.toNat * 2 ^ 64 + off.toNat
        ({ s with tlb := [] } : State).translate v va w false = .ok (pa, e) → exec (.pageWalk v rg off w) s = .next ((s.markPte e w).installXlat { vdev := v, va := va, e := (s.markPte e w).pte e }))
    ∧ (∀ f q i, (s.die d).faultQ = f :: q → (s.die d).freeSlot = some i → ∃ t, exec (.translationFault d) s = .next t
        ∧ (t.die d).faultQ = q ∧ Cells.get {} (t.die d).fslots i = f ∧ t.mem = s.mem ∧ t.pend = s.pend)
    ∧ (let f := Cells.get {} (s.die d).fslots slot
       let s' := s.modDie d fun x => { x with fslots := Cells.erase x.fslots slot }
       (f.used = true → ∀ t w e, f.by_ = .warp t w e ∨ f.by_ = .form t w e →
          (f.kind ≠ 5 → exec (.fresumeReplay d slot) s = .next (s'.modWarp t w fun x => { x with fault := none }))
          ∧ (let tr : Trap := { cause := f.cause, info := BitVec.ofNat 64 f.va, info2 := BitVec.ofNat 64 (f.va / 2 ^ 64), mask := f.mask, pc := f.pc, next := f.next }
             (s.warp t w).handler = none → (s.warp t w).slotCnt f = (0, 0, false) →
              (∀ n, (s.warp t w).slotEntry f = some n → exec (.fresumeTrap d slot) s = .next ((s'.modWarp t w fun x =>
                { (x.modEntry n fun p => { p with pc := f.pc, hold := .none, done := 0, cnt := (0, 0, false), rng := 0 }) with fault := none }).takeTrap t w n false tr))
              ∧ ((s.warp t w).slotEntry f = none → ∃ y, exec (.fresumeTrap d slot) s = .next y ∧ (y.warp t w).fault = none
                  ∧ ∀ u, u < 32 → ((s.warp t w).thread u).st = .spilled → ((s.warp t w).thread u).pc = f.pc → ((y.warp t w).thread u).pend = some tr))
          ∧ exec (.fresumeRollback d slot) s = .next (s'.teamCheck t 4))
       ∧ (f.used = false → exec (.fresumeReplay d slot) s = .next s ∧ exec (.fresumeTrap d slot) s = .next s ∧ exec (.fresumeRollback d slot) s = .next s))
    ∧ (∀ kind c t, (kind = 1 → (s.task k).launch.mirrored = true) → exec (.machineCheck k kind ⟨c, t⟩) s = .next (s.machineCheck k kind c (t.map fun j => (s.team j).num)))
    ∧ (∀ c t, (s.task k).st = .running → (s.task k).trec.kind = 2 → (s.task k).upd.finished = false → (s.task k).upd.faulted = none →
        exec (.machineCheck k 2 ⟨c, t⟩) s = .next (s.modUpd k fun u => { u with faulted := some 0x31A }))
    ∧ ((s.task k).st = .running → (s.task k).trec.kind = 1 → (s.task k).launch.stopping = none → (s.stopLaunch k).launchQuiet k = false →
        ∃ t, exec (.launchRollback k) s = .next t ∧ (t.task k).launch.stopping = some false ∧ (t.task k).st = .running ∧ (∀ j ∈ s.teamsOf k, (Cells.keys t.teams).contains j = false))
    ∧ ((s.task k).st = .running → (s.task k).trec.kind = 1 → (s.task k).launch.stopping = none → (s.stopLaunch k).launchQuiet k = true → (s.task k).consumed = [] → ∃ t, exec (.launchRollback k) s = .next t ∧ (t.task k).nroll = (s.task k).nroll + 1 ∧ (t.task k).launch.adm = (s.task k).launch.adm
        ∧ (t.task k).launch.nextGang = 0 ∧ (∀ j ∈ s.teamsOf k, (Cells.keys t.teams).contains j = false)
        ∧ ((s.task k).nroll < 4 → (t.task k).st = .dispatched) ∧ (4 ≤ (s.task k).nroll → (t.task k).st = .complete ∧ (t.task k).status = 0x306)
        ∧ ∀ j ∈ s.dependents (s.handleOf k).toNat, j ≠ k → (t.task j).st = .waiting ∧ (t.task j).consumed.contains (s.handleOf k).toNat = false)
    ∧ (∀ page p, (s.pend.find? fun p => p.task == k && p.pa / 65536 == page && paSpace p.pa == .hbm) = some p → s.snapReady k p.pa = true →
        exec (.snapshot k page) s = .next (s.takeSnap k page))

namespace Sys2Proof.Claims

/-- A write to control space of a 64-bit register that host-mode firmware writes whole: what it leaves (R94, R113, R114, R253, R375, R393, R436). -/
def csrLeaves (t v : Nat) (val : W64) (u : State) : Nat → Prop
  | 0 => (u.die t).cur.gpc = val
  | 1 => (u.die t).cur.hpc = val
  | 2 => (u.die t).clpart = val &&& 0x003FFFFFFFFFFFFF
  | 3 => (u.die t).tinva = val
  | 4 => (u.die t).flesc = val &&& 0xFFFF
  | 5 => (u.die t).tevlnch = val
  | 6 => u.qaddr = val
  | 7 => u.qsize = val
  | 8 => (u.vdev v).hvec = val
  | 9 => (u.vdev v).ptroot = val &&& 0x00FFFFFFFFFF8001
  | 10 => (u.vdev v).saveBase = val
  | _ => Cells.get 0xFFFFFFFFFFFFFFFF (u.die t).xbar v = val
/-- Its offset. -/
def csrOffset (v : Nat) : Nat → Nat
  | 0 => 0x30 | 1 => 0x40 | 2 => 0x500 | 3 => 0x2080 | 4 => 0x2690 | 5 => 0x27A0 | 6 => 0x2E88 | 7 => 0x2E90 | 8 => 0x2500 + 8 * v | 9 => 0x2000 + 8 * v | 10 => 0x2580 + 16 * v | _ => 0x400 + 8 * v

end Sys2Proof.Claims

/-- R6, R94, R113, R114, R116, R253, R375, R436: a write of host-mode firmware to a register of control space leaves the register's writable bits as written, package registers on DIE.0 alone; a write by guest firmware outside its reach is ignored and posts CSRVIOL to the host's queue; a die that is held in reset writes nothing (R444). -/
def Obligations.ControlSpaceWritesTakeTheirValue : Prop :=
  ∀ (s : State) d t v (val : W64) n,
    ((s.die d).inReset = false → (s.die d).cur.guest = none → v < 16 → t < 4 → n ≤ 11 → (t = 0 ∨ n ∈ [0, 1, 2, 3, 4, 5, 11]) →
      ∃ u, exec (.csrWrite d t (BitVec.ofNat 64 (csrOffset v n)) val) s = .next u ∧ csrLeaves t v val u n ∧ u.mem = s.mem ∧ u.teams = s.teams ∧ u.tasks = s.tasks)
    ∧ (∀ g, (s.die d).inReset = false → (s.die d).cur.guest = some g → n ∈ [0, 1, 2, 3, 4, 6, 7, 9, 10, 11] → v < 16 → g < 16 →
      exec (.csrWrite d t (BitVec.ofNat 64 (csrOffset v n)) val) s = .next (s.post d 16 0x17 g 0 0 (d + 16 * g + 2 ^ 16 * csrOffset v n + 2 ^ 32)))
    ∧ (∀ off, (s.die d).inReset = true → exec (.csrWrite d t off val) s = .next s)

namespace Sys2Proof.Claims

/-- The state after the oldest of a list of sectors has its undo record (R394, R395). -/
def undoLogged (s : State) (k x : Nat) : State :=
  let r (y : Stack) : UndoRec := { pa := 32 * x, step := (s.task k).upd.stepNo, seq := y.undoSeq, task := (s.handleOf k).toNat, vdev := (s.task k).vdev, old := readBytes s.mem (32 * x) 32 }
  (s.modStk (sectorStack x) fun y => { y with undoSeq := y.undoSeq + 1, undo := y.undo ++ [r y] }).modUpd k fun u => { u with logged := u.logged ++ [x], nlog := u.nlog + 1 }

end Sys2Proof.Claims

/-- R384, R385, R392, R394, R395, R397, R398: the steps of conservators and undo logs. An idle conservator starts its oldest dispatched update, once its stack's ring has room for the records of its windows, with its code, ca from CA, cv zeroed, NFLAGS cleared and PC 0, or completes it with CONS.STEP (0x312) when its point is no longer open or pending; one restored while it ran goes on at its PC; a window's record holds the HBM contents of an unsealed sector, whose value then stands in HBM (its handle of 0 is the model's choice, log 24); the undo record that a write waits for holds the sector's old contents, and waits itself for room; a signal's number completes; a faulted update is rolled back, its records gone, and completes with its code, but for one that a reset has stopped; an abort of step n frees every record of the step's updates, not of their windows (log 24), and completes its updates with CONS.ABORT (0x318), and GO reads 0; a stack's records are restored newest first and freed. -/
def Obligations.ConservatorStepsAct : Prop :=
  ∀ (s : State) c k,
    (∀ ks, (s.cons c).task = none → s.consQueue c = k :: ks → (s.task k).upd.resume = none →
      (s.stepOk (s.task k).vdev (s.task k).upd.stepNo = false → exec (.updateStart c) s = .next (s.failTask k 0x312))
      ∧ (s.stepOk (s.task k).vdev (s.task k).upd.stepNo = true → s.startRoom c k = false → exec (.updateStart c) s = .next s)
      ∧ (s.stepOk (s.task k).vdev (s.task k).upd.stepNo = true → (∀ w ∈ (s.task k).upd.win, s.windowTags w = []) → s.startRoom c k = true →
          ∃ t, exec (.updateStart c) s = .next t ∧ (t.task k).st = .running ∧ (t.task k).tstart = s.ns ∧ (t.cons c).task = some k ∧ (t.cons c).pc = 0 ∧ (t.cons c).nflags = 0 ∧ t.mem = s.mem
            ∧ (∀ i l, (t.cons c).lane i l = 0) ∧ (∀ i, i < 8 → (t.cons c).caAt i = (s.task k).upd.ca.getD i 0)
            ∧ (∀ i, i < (s.task k).upd.code.length → Cells.get 0 (t.cons c).store i = (s.task k).upd.code.getD i 0)))
    ∧ (∀ ks cv pc, (s.cons c).task = none → s.consQueue c = k :: ks → (s.task k).upd.resume = some (cv, pc) →
        ∃ t, exec (.updateStart c) s = .next t ∧ (t.task k).st = .running ∧ (t.task k).tstart = (s.task k).tstart ∧ (t.task k).upd.resume = none
          ∧ (t.cons c).task = some k ∧ (t.cons c).pc = pc ∧ (t.cons c).cv = cv ∧ (t.cons c).nflags = (s.task k).upd.nflags ∧ t.mem = s.mem)
    ∧ (∀ (step : W32) x, let g := Cells.get {} s.tags x
        let t := s.windowUndo step x
        let y := s.stk (sectorStack x)
        t.mem = s.mem ∧ (Cells.get {} t.tags x).hbm = [] ∧ (t.stk (sectorStack x)).undo = y.undo ++ [{ pa := 32 * x, step := step, seq := y.undoSeq, task := 0, vdev := g.vdev, old := g.hbm }])
    ∧ (∀ x r, (s.cons c).pendUndo = x :: r → (s.cons c).task = some k →
        ((s.stk (sectorStack x)).undo.length < (s.stk (sectorStack x)).ulSize.toNat * 16384 → exec (.undoLogWrite c) s = .next ((undoLogged s k x).modCons c fun y => { y with pendUndo := r }))
        ∧ ((s.stk (sectorStack x)).ulSize.toNat * 16384 ≤ (s.stk (sectorStack x)).undo.length → exec (.undoLogWrite c) s = .next s))
    ∧ (∀ l t n m r j y, (s.cons c).pendSig = (l, t, n, m) :: r → s.taskOf (BitVec.ofNat 64 l) = some j → (s.task j).st ≠ .retired → (s.task j).st ≠ .complete →
        s.teamNo j t = some y → (s.team y).tlAddr n = none → exec (.nsigComplete c) s = .next ((s.tlDone y n m).modCons c fun z => { z with pendSig := r }))
    ∧ (∀ code, (s.task k).upd.faulted = some code → (s.task k).st = .running → (s.task k).stopped = false → ∃ t, exec (.updateRollback k) s = .next t ∧ (t.task k).st = .complete ∧ (t.task k).status = code
        ∧ (∀ i, i < 8 → (t.stk i).undo = (s.stk i).undo.filter fun r => r.task != (s.handleOf k).toNat)
        ∧ ((s.cons (s.task k).upd.cons).task = some k → (t.cons (s.task k).upd.cons).task = none)
        ∧ (∀ a, (∀ i, i < 8 → ∀ r ∈ (s.stk i).undo, r.task = (s.handleOf k).toNat → a < r.pa ∨ r.pa + r.old.length ≤ a) → readByte t.mem a = readByte s.mem a))
    ∧ (s.stepAbt.getLsbD 32 = true → ∃ t, exec .stepAbort s = .next t ∧ t.stepAbt = s.stepAbt &&& 0xFFFFFFFF
        ∧ (∀ i, i < 8 → (t.stk i).undo = (s.stk i).undo.filter fun r => r.step != (s.stepAbt.setWidth 32 : W32) || r.task == 0)
        ∧ (∀ j ∈ Cells.keys s.tasks, (s.task j).trec.kind = 2 → ((s.task j).st = .running ∨ (s.task j).st = .dispatched) → (s.task j).upd.stepNo = (s.stepAbt.setWidth 32 : W32) →
            (t.task j).st = .complete ∧ (t.task j).status = 0x318)
        ∧ (∀ j, ((s.task j).trec.kind ≠ 2 ∨ (s.task j).upd.stepNo ≠ (s.stepAbt.setWidth 32 : W32)) → t.task j = s.task j))
    ∧ (∀ (f : UndoRec → Bool) i r rest, (s.stk i).undo.filter f = r :: rest → r.old.length = 32 →
        readBytes (s.undoStack f i).mem r.pa 32 = r.old ∧ ((s.undoStack f i).stk i).undo = (s.stk i).undo.filter (fun x => !f x) ∧ ∀ j, j ≠ i → (s.undoStack f i).stk j = s.stk j)

namespace Sys2Proof.Claims

/-- A seal slot's record of a point, as R433 checks it against the journal. -/
def sealAgrees (s : State) (v : Nat) (b : List Byte) : Prop :=
  let n : W32 := BitVec.ofNat 32 (fieldAt b 8 4)
  fieldAt b 0x10 8 = s.pointLines v n ∧ (∀ i, i < 8 → fieldAt b (0x80 + 8 * i) 8 = s.perStk v n i) ∧ fieldAt b 0x18 8 = (s.pointDigest v n).toNat

end Sys2Proof.Claims

/-- R420, R423, R425, R430 to R436, R439: durability and recovery. JOURNAL_WRITE of an unjournalled sector with room appends its line and the sector is journalled; SEAL of a ready point keeps its seal record in slot N mod 2 and closes the point, a point that a reset has torn is never sealed; FORMAT drops what a device holds, or ends with STATUS 3 while a point is open or sealing; RECOVER of a device without a valid seal goes back to point 0, one whose seal disagrees with the journal ends with STATUS 2, and the tasks that a reset stopped end with KILLED (0x306), the others staying as they are; QUIESCE freezes its device and, their chunks in flight complete, saves its teams, QUIESCE_IMAGE_WRITTEN writes the image or tells the size it needs, RESUME unfreezes; RESTORE ends with STATUS 1 when a check of the image fails and installs it otherwise; a die reset forgets the die's gallery, engines, rills and registers, those of the package too on DIE.0 (which of them, and its energy and power fields, logs 33 and 85: the model's reading), ends a QUIESCE with STATUS 3 (kept over DIE.0's reset: log 103, the model's choice), tears an affected device's open point and stops its launches. That QUIESCE waits while a team stands in a unit performed in part is log 78, the model's choice. -/
def Obligations.RecoveryStepsAct : Prop :=
  ∀ (s : State) v,
    (∀ x, let g := Cells.get {} s.tags x
      g.unjournalled = true → (s.stk (sectorStack x)).jrnRoom = true → ∃ t, exec (.journalWrite x) s = .next t ∧ t.mem = s.mem
        ∧ (t.stk (sectorStack x)).lines = (s.stk (sectorStack x)).lines ++ [{ pa := x * 32, vdev := g.vdev, jseq := (s.stk (sectorStack x)).jseq, handle := g.handle, data := readBytes s.mem (x * 32) 32, tag := g.point }]
        ∧ (t.stk (sectorStack x)).jseq = (s.stk (sectorStack x)).jseq + 1 ∧ Cells.get {} t.tags x = { g with unjournalled := false })
    ∧ ((s.rp v).torn = true → exec (.sealPoint v) s = .next s)
    ∧ (s.sealReady v = true → s.durable v = true → ∃ t, exec (.sealPoint v) s = .next t ∧ t.mem = s.mem
        ∧ Cells.get [] (t.rp v).slots ((s.rp v).n.toNat % 2) = s.sealRecord v ∧ (t.rp v).sealedN = (s.rp v).n.setWidth 64 ∧ (t.rp v).dig = s.pointDigest v (s.rp v).n
        ∧ (t.rp v).isOpen = false ∧ (t.rp v).sealing = false ∧ (t.rp v).n = (s.rp v).n ∧ (t.rp v).task = (s.rp v).keptAddr)
    ∧ (let r := s.rp v
       let b := r.busy = true
       (b → r.cmd = 2 → (r.isOpen = true ∨ r.sealing = true) → exec (.format v) s = .next (s.rpEnd v 3))
       ∧ (b → r.cmd = 2 → r.isOpen = false → r.sealing = false → ∃ t, exec (.format v) s = .next t ∧ (t.rp v).status = 0 ∧ (t.rp v).busy = false ∧ (t.rp v).cur = 0 ∧ (t.rp v).sealedN = 0
            ∧ (t.rp v).slots = [] ∧ t.mem = s.mem ∧ (∀ c ∈ t.tags, c.2.vdev ≠ v) ∧ ∀ i, i < 8 → (∀ l ∈ (t.stk i).lines, l.vdev ≠ v) ∧ ∀ u ∈ (t.stk i).undo, u.vdev ≠ v)
       ∧ (b → r.cmd = 1 → r.lastSeal v = none → exec (.recover v) s = .next (s.recoverTo v 0 []))
       ∧ (∀ x, b → r.cmd = 1 → r.lastSeal v = some x → sealAgrees s v x → exec (.recover v) s = .next (s.recoverTo v (BitVec.ofNat 32 (fieldAt x 8 4)) x))
       ∧ (∀ x, b → r.cmd = 1 → r.lastSeal v = some x → ¬ sealAgrees s v x → ∃ t, exec (.recover v) s = .next t ∧ (t.rp v).status = 2 ∧ (t.rp v).busy = false ∧ t.mem = s.mem ∧ t.tags = s.tags ∧ t.stks = s.stks
            ∧ t.teams = s.teams))
    ∧ (∀ n b, let z := n = 0
        let dig : W64 := BitVec.ofNat 64 (if z then 0 else fieldAt b 0x18 8)
        let task : W64 := BitVec.ofNat 64 (if z then 0 else fieldAt b 0x20 8)
        let base : W64 := BitVec.ofNat 64 (((s.rp v).base.toNat / 2 ^ 32 + 1) % 2 ^ 32 * 2 ^ 32 + n.toNat)
        (s.recoverTo v n b).rp v = { s.rp v with cur := n.setWidth 64, sealedN := n.setWidth 64, dig := dig, task := task, base := base, armer := none, covered := [], keptAddr := 0, keptTask := [], status := if z then 1 else 0, busy := false, cmd := 0, torn := false }
        ∧ ∀ k ∈ s.liveTasks v, if (s.task k).stopped = true then ((s.recoverTo v n b).task k).st = .complete ∧ ((s.recoverTo v n b).task k).status = 0x306 else (s.recoverTo v n b).task k = s.task k)
    ∧ (s.qBusy 1 v = true → (s.vdev v).frozen = false → (∀ c ∈ s.teams, c.2.vdev = v → c.2.partly = false) → ∃ t, exec (.quiesce v) s = .next t ∧ (t.vdev v).frozen = true
        ∧ (((s.placedOf v).foldl State.haltTeam (s.modVdev v fun x => { x with frozen := true })).chunksOut (s.placedOf v) = false → ∀ k ∈ s.placedOf v, (t.team k).st = .saved))
    ∧ (s.qBusy 2 v = true → exec (.resumeFrozen v) s = .next (({ s with qctl := BitVec.ofNat 64 (s.qctl.toNat % 16) }).modVdev v fun x => { x with frozen := false }))
    ∧ (∀ s', s.qBusy 1 v = true → (s.vdev v).frozen = true → s.quiet v = true →
        let u := (s.unjournalled v).foldl State.journalSector s
        let b := u.imageBody v
        u.durable v = true →
        (u.qsize.toNat < b.length → exec (.quiesceImageWritten v) s = .next (u.quiesced v 2 b.length))
        ∧ (b.length ≤ u.qsize.toNat → u.devWrite 0 v u.qaddr.toNat (withDigest b) = .ok s' → exec (.quiesceImageWritten v) s = .next (s'.quiesced v 0 b.length)))
    ∧ (∀ h s1 b s2, s.qBusy 3 v = true → s.devRead 0 v s.qaddr.toNat 256 = .ok (h, s1) → s1.devRead 0 v s1.qaddr.toNat (max 1024 (min (fieldAt h 8 8) (2 ^ 40))) = .ok (b, s2) →
        (∀ c ∈ s2.imageChk v b, c.2.2 = true) → exec (.restoreImage v) s = .next ((s2.install v b).restored v 0 0))
    ∧ (∀ d, d < 4 → ∃ t, exec (.dieReset d) s = .next t ∧ (v < 16 → s.affected d v = true → ((s.rp v).isOpen = true ∨ (s.rp v).sealing = true) → (t.rp v).torn = true)
        ∧ (s.qBusy 1 v = true → (t.vdev v).frozen = false ∧ bits t.qctl.toNat 15 8 = 3 ∧ t.qctl.getLsbD 7 = false) ∧ (∀ c ∈ t.gallery, c.1 / 2 ^ 29 ≠ d) ∧ (∀ c ∈ t.engines, c.1 / 18 ≠ d) ∧ (∀ c ∈ t.rills, c.1 / 64 / 18 ≠ d)
        ∧ (t.die d).fslots = [] ∧ (t.die d).xbar = [] ∧ (t.die d).galOpen = false ∧ t.tlb = [] ∧ (d = 0 → t.swtick = 1000 ∧ t.preq = 0 ∧ t.stepAbt = 0 ∧ t.power.f = 1800 ∧ t.power.pw = 0 ∧ t.power.energy = 0) ∧ (∀ j, j ≠ d → (t.die j).inReset = (s.die j).inReset)
        ∧ ∀ k ∈ Cells.keys s.tasks, s.affected d (s.task k).vdev = true → (s.task k).vdev < 16 → (s.task k).st = .running → (t.task k).stopped = true ∧ ∀ j ∈ s.teamsOf k, (Cells.keys t.teams).contains j = false)

namespace Sys2Proof.Claims

/-- Flits of an end stay in order: its buffered SEQs, and what its receiver has taken. -/
def sendsNow (e : LinkEnd) : Prop := e.buffer.length < 512 ∧ e.waiting = [] ∧ e.state < 2
/-- The bytes of a flit by the byte (R402): its header, its payload filled up to 244 bytes, and the CRC-32C of both. -/
def flitBytes (seq ack : BitVec 16) (f : Flit) : List Byte :=
  let b := leBytes 2 seq.toNat ++ leBytes 2 ack.toNat ++ [f.kind, f.vc, 0, 0] ++ f.payload.take 244 ++ List.replicate (244 - f.payload.length) 0
  b ++ leBytes 4 (crc32c b).toNat
/-- An end after it took an in-sequence data flit whose ACK frees nothing (R403). -/
def delivers (e : LinkEnd) (payload : List Byte) : LinkEnd := { e with delivered := e.delivered ++ [payload], expected := e.expected + 1, nakOut := false }
/-- A bad flit at an end: counted, and a NAK sent unless one is out (R403, R408). -/
def naks (e : LinkEnd) : LinkEnd :=
  let e := { e with crce := if e.crce = 0xFFFFF then e.crce else e.crce + 1 }
  if e.nakOut then e else { e with wire := e.wire ++ [flitBytes 0 (e.expected - 1) { kind := 2, vc := 0, payload := [] }], nakOut := true }

end Sys2Proof.Claims

/-- R402 to R406, R409 to R415, R445, R446: links and the host's ports. A flit is 256 bytes, its header and payload read back from them and its CRC-32C last, which finds a bit lost; SEND numbers a data flit, buffers and transmits it; RECEIVE delivers the flit whose SEQ it expects (the payloads delivered are kept: log 50, the model's choice), drops another, answers one whose CRC disagrees with a NAK, and sends a packet for another die on along the chain; a replay timer after 1 µs sends the buffer again; eight retransmissions retrain an edge, which comes back at full width, at half width, or down, and then holds no flit; a decoder takes a whole-GiB range of one stack; a host write or read inside a decoded range reaches its bytes, and is refused where port 18 may not reach; a gallery write from outside is taken while its die's gallery is open and without effect else (at the addresses of log 101, the model's choice); a read of the BAR's first word is BOOTSTAT; an owned line holds a snoop; a completion answers its request, which holds a line it owns until its write-back; a link error ends its requests, reported as CXLERR with a count capped at 255 (log 49, the model's choice), a path that waits for one trapping XBAR; a Rhawin port comes back at 32 or 16 lanes, or down; a peer's numbered write is performed once, checked at port 19, and answered, again by its kept response where it comes again; a peer's read is answered with its bytes (how an inbound request names its kind: log 121, the model's choice). -/
def Obligations.LinksAndHostPortsAct : Prop :=
  ∀ (s : State) l (f : Flit) (good : Bool),
    let e := s.link l
    (∀ seq ack, let b := flitBytes seq ack f
        b.length = 256 ∧ flitOk b = true ∧ flitOk (flitHit b) = false ∧ flitSeq b = seq ∧ flitAck b = ack ∧ (flitOf b).kind = f.kind ∧ (flitOf b).vc = f.vc ∧ (f.payload.length = 244 → flitOf b = f))
    ∧ (l < 24 → f.kind = 0 → sendsNow e → ∃ t, exec (.flitSend l f) s = .next t ∧ (t.link l).nextSeq = e.nextSeq + 1 ∧ (t.link l).buffer = e.buffer ++ [(e.nextSeq, f)]
        ∧ (t.link l).wire = e.wire ++ [flitBytes e.nextSeq (e.expected - 1) f] ∧ (∀ j, j ≠ l → t.link j = s.link j) ∧ t.mem = s.mem)
    ∧ (l < 24 → e.state < 2 → f.kind ≠ 0 → exec (.flitSend l f) s = .next (s.modLink l fun x => { x with wire := x.wire ++ [flitBytes 0 (x.expected - 1) f] }))
    ∧ (let o := if l < 8 then (if l % 2 = 0 then 2 * ((l / 2) ^^^ 1) else 2 * ((l / 2) ^^^ 2) + 1) else if l < 16 then l + 8 else l - 8
       ∀ b r, l < 24 → (s.link o).wire = b :: r → e.waiting = [] →
        let seq := flitSeq b
        let via := (s.link o).via.find? fun v => v.1 == seq
        let ack := flitAck b
        let f := flitOf b
        let took (u : LinkEnd) := (s.modLink o fun x => { x with wire := r }).modLink l fun _ => u
        (flitOk (if good then b else flitHit b) = false → via = none → exec (.flitReceive l good) s = .next (took (naks e)))
        ∧ (good = true → flitOk b = true → f.kind = 0 → f.vc.toNat ≤ 2 → seq ≠ e.expected → via = none → exec (.flitReceive l good) s = .next (took e))
        ∧ (good = true → flitOk b = true → f.kind = 0 → f.vc.toNat ≤ 2 → seq = e.expected → via = none → (∀ x ∈ e.buffer, 2 ^ 15 ≤ (ack - x.1).toNat) → exec (.flitReceive l good) s = .next (took (delivers e f.payload)))
        ∧ (good = true → flitOk b = true → f.kind = 0 → f.vc.toNat ≤ 2 → seq = e.expected → via = none → (∃ x ∈ e.buffer, (ack - x.1).toNat < 2 ^ 15) →
            exec (.flitReceive l good) s = .next (took { delivers e f.payload with buffer := e.buffer.filter (fun x => decide (2 ^ 15 ≤ (ack - x.1).toNat)), via := e.via.filter (fun v => e.buffer.any fun x => decide (2 ^ 15 ≤ (ack - x.1).toNat) && x.1 == v.1), retries := 0, heldSince := s.ns.toNat }))
        ∧ (∀ n d, good = true → flitOk b = true → f.kind = 0 → f.vc.toNat ≤ 2 → seq = e.expected → via = some (n, d) → l < 8 → d ≠ l / 2 → sendsNow (s.link (if l % 2 = 0 then l + 1 else l - 1)) →
            ∃ t, exec (.flitReceive l good) s = .next t ∧ (t.link l).delivered = e.delivered ∧ (t.link l).expected = e.expected + 1
              ∧ let y := s.link (if l % 2 = 0 then l + 1 else l - 1)
                (t.link (if l % 2 = 0 then l + 1 else l - 1)).buffer = y.buffer ++ [(y.nextSeq, f)] ∧ (t.link (if l % 2 = 0 then l + 1 else l - 1)).via = y.via ++ [(y.nextSeq, d)]))
    ∧ (l < 24 → e.state < 2 → e.buffer ≠ [] → e.heldSince + 1000 ≤ s.ns.toNat → ∃ t, exec (.replayTimeout l) s = .next t
        ∧ (t.link l).wire = e.wire ++ e.buffer.map (fun b => flitBytes b.1 (e.expected - 1) b.2) ∧ (t.link l).buffer = e.buffer ∧ (t.link l).retries = e.retries + 1 ∧ (t.link l).heldSince = s.ns.toNat)
    ∧ (∀ n a b, (n, a, b) ∈ [(0, 0, 2), (1, 4, 6), (2, 1, 5), (3, 3, 7)] →
        let two (u : State) : List LinkEnd := [u.link a, u.link b]
        ((∃ x ∈ two s, x.state < 2 ∧ 8 ≤ x.retries) → ∃ t, exec (.edgeRetrain n) s = .next t ∧ ∀ x ∈ two t, x.state = 2 ∧ x.wire = [] ∧ x.retries = 0 ∧ x.heldSince = s.ns.toNat)
        ∧ (∀ g : BitVec 4, (s.link a).state = 2 → (s.link a).heldSince + 10000 ≤ s.ns.toNat →
            (g = 15 → (s.link a).half = false → (s.link b).half = false → ∃ t, exec (.retrainComplete n g) s = .next t ∧ ∀ x ∈ two t, x.state = 0 ∧ x.good = 15)
            ∧ (g ≠ 15 → (g &&& 3 = 3 ∨ g &&& 12 = 12) → ∃ t, exec (.retrainComplete n g) s = .next t ∧ ∀ x ∈ two t, x.state = 1 ∧ x.good = g ∧ x.half = true)
            ∧ (g &&& 3 ≠ 3 → g &&& 12 ≠ 12 → (∀ j, j < 4 → j ≠ n → s.edgeDown j = false) → ∃ t, exec (.retrainComplete n g) s = .next t ∧ ∀ x ∈ two t, x.state = 3 ∧ x.buffer = [] ∧ x.waiting = [])))
    ∧ (∀ dec (base size : W64), dec < 2 →
        (size = 0 → exec (.hdmDecoderWrite dec base size) s = .next { s with hdm := Cells.set none s.hdm dec none })
        ∧ (size ≠ 0 → base.toNat % 2 ^ 30 = 0 → size.toNat % 2 ^ 30 = 0 → base.toNat < 2 ^ 40 → base.toNat % 2 ^ 37 + size.toNat ≤ (80 - s.csize.toNat) * 2 ^ 30 →
            exec (.hdmDecoderWrite dec base size) s = .next { s with hdm := Cells.set none s.hdm dec (some (base.toNat, size.toNat)) }))
    ∧ (∀ g (bs : List Byte), g + bs.length ≤ 2 ^ 31 →
        exec (.cxlMemWrite (2 ^ 56 + g) bs) s = .next (if (s.die (g / 2 ^ 29 % 4)).galOpen && (s.die ((g + bs.length - 1) / 2 ^ 29 % 4)).galOpen then { s with gallery := writeBytes s.gallery g bs } else s))
    ∧ (∀ pa (bs : List Byte) n, pa < 2 ^ 56 → (s.decoded pa bs.length = true → s.chunkBusy pa = false → (∀ k ∈ sectorsOf pa bs.length, s.reaches 0 18 (32 * k) = true) → (∀ k ∈ sectorsOf pa bs.length, k ∉ s.poison) →
          ∃ t, exec (.cxlMemWrite pa bs) s = .next t ∧ readBytes t.mem pa bs.length = bs ∧ (∀ a, (a < pa ∨ pa + bs.length ≤ a) → readByte t.mem a = readByte s.mem a) ∧ t = { s with mem := t.mem, poison := t.poison, hostLines := t.hostLines })
        ∧ (s.decoded pa n = true → s.chunkBusy pa = false → (∀ k ∈ sectorsOf pa n, s.reaches 0 18 (32 * k) = true) → (∀ k ∈ sectorsOf pa n, k ∉ s.poison) →
          ∃ t, exec (.cxlMemRead pa n) s = .next t ∧ t.hostReads = s.hostReads ++ [(pa, readBytes s.mem pa n)] ∧ t.mem = s.mem)
        ∧ (∀ k, s.decoded pa n = true → s.chunkBusy pa = false → ((sectorsOf pa n).find? fun k => !s.reaches 0 18 (32 * k)) = some k → exec (.cxlMemRead pa n) s = .next (s.xbarv 0 18 (32 * k))))
    ∧ (∀ line, s.lineOwned line = true → line ∉ s.snoops → exec (.hostSnoop line) s = .next { s with snoops := s.snoops ++ [line] })
    ∧ exec (.cxlMemRead (2 ^ 57) 8) s = .next { s with hostReads := s.hostReads ++ [(2 ^ 57, leBytes 8 s.bootstat.toNat)] }
    ∧ (∀ id c u own, s.cxl.find? (fun c => c.id == id && !c.answered) = some c → c.pend.ask = some (u, own) →
        ∃ t, exec (.cxlCompletion id) s = .next t ∧ t.mem = s.mem ∧ t.pend = s.pend
          ∧ (t.asking c.pend.team c.pend.warp [u] = false → ((t.warp c.pend.team c.pend.warp).thread u).got = true)
          ∧ t.cxl = (if own then s.cxl.map fun x => if x.id = id then { x with answered := true } else x else s.cxl.filter fun x => x.id != id)
          ∧ (own = false → ∀ x ∈ t.snoops, x ∈ s.snoops ∧ t.lineOwned x = true))
    ∧ (∀ (ids : List Nat) c cs, s.cxl.filter (fun c => ids.contains c.id && !c.answered) = c :: cs →
        let s1 := (s.cxlLeave fun c => ids.contains c.id && !c.answered).linkEvent 0 0x63 (min (cs.length + 1) 255 + 256 * c.pend.pa)
        exec (.cxlLinkError ids) s = .next ((((c :: cs).filter fun c => c.copy.isSome).foldl State.sentAbort s1).abortAsks (((c :: cs).filter fun c => c.copy.isNone).map CxlReq.pend)))
    ∧ (∀ p u own n, p.ask = some (u, own) → n < 8 → u < 32 →
        let x := s.warp p.team p.warp
        let s1 := s.askStop p.team p.warp (maskList (x.entry n).mask)
        (x.entry n).valid = true → (x.entry n).mask.getLsbD u = true → (∀ j, j ≠ n → (x.entry j).valid = true → (x.entry j).mask.getLsbD u = false) → (x.thread u).st = .pathed → x.isHandlerPath n = false →
        (s1.vdev (s1.team p.team).vdev).hvec ≠ 0 → s1.handlerLine (s1.team p.team).vdev (s1.team p.team).core = true → (Cells.get none s1.handlerBank (s1.team p.team).core).isSome = true →
          ∃ tr, (((s.abortAsks [p]).warp p.team p.warp).entry n).hold = .trap tr ∧ tr.cause = 0x28 ∧ tr.info = BitVec.ofNat 64 p.va ∧ tr.pc = (x.entry n).pc ∧ tr.mask = maskOf [u])
    ∧ (∀ port (g : BitVec 2), port < 8 → (s.link (8 + port)).state < 2 → 8 ≤ (s.link (8 + port)).retries → g ≠ 0 →
        ∃ t, exec (.rhawinRetrain port g) s = .next t ∧ (t.link (8 + port)).retries = 0 ∧ (t.link (8 + port)).good = g.setWidth 4
          ∧ (t.link (8 + port)).state = if g = 3 then 0 else 1)
    ∧ (∀ port, port < 8 → (s.link (8 + port)).state < 2 → 8 ≤ (s.link (8 + port)).retries → ∃ t, exec (.rhawinRetrain port 0) s = .next t ∧ (t.link (8 + port)).state = 3 ∧ (t.link (8 + port)).buffer = [])
    ∧ (∀ port peer n pa (bs : List Byte), port < 8 → peer < 1024 → n < 2 ^ 32 → bs ≠ [] → (s.link (8 + port)).state < 2 → s.chunkBusy pa = false → paSpace pa = .hbm → paSpace (pa + bs.length - 1) = .hbm → s.inCistern pa = false →
        s.inCistern (pa + bs.length - 1) = false →
        let q := Cells.get {} s.reqs (1024 + 8 * peer)
        let m : W32 := BitVec.ofNat 32 n
        (∀ r, q.covers m = true → q.kept.find? (fun x => x.1 == m) = some (m, r) → exec (.rhawinInbound port peer n pa bs) s = .next { s with answers := s.answers ++ [(1024 + 8 * peer, m, r)] })
        ∧ ((∀ k ∈ sectorsOf pa bs.length, s.reaches (port / 2) 19 (32 * k) = true) → (∀ k ∈ sectorsOf pa bs.length, k ∉ s.poison) →
            exec (.rhawinInbound port peer (2 ^ 32 + n) pa bs) s = .next { s with answers := s.answers ++ [(1024 + 8 * peer, m, readBytes s.mem pa bs.length)] })
        ∧ (q.covers m = false → (∀ k ∈ sectorsOf pa bs.length, s.reaches (port / 2) 19 (32 * k) = true) → (∀ k ∈ sectorsOf pa bs.length, k ∉ s.poison) →
          ∃ t, exec (.rhawinInbound port peer n pa bs) s = .next t ∧ t.answers = s.answers ++ [(1024 + 8 * peer, m, [])] ∧ readBytes t.mem pa bs.length = bs ∧ ∀ a, (a < pa ∨ pa + bs.length ≤ a) → readByte t.mem a = readByte s.mem a))

/-- R20, R75, R87, R435, R444, R445, R450, R451: BIND writes the record it binds, or its report; POWER_ON with a boot flash that fails a check leaves READY 0 and no die running, and with one that passes, each die having 18 clusters and the board writing no other image between them, READY is 1 and every die runs; POWER_EVAL, once its 10 µs are over, takes PLIM and FREQ as written, reports power, temperature and energy, steps F down by 100 MHz to at least 600 above the limit or at 105 °C, up by 100 towards FREQ where the power allows, and at 115 °C stops every clock; package power loss leaves the machine as at reset but for its boot flash and what the board writes there. -/
def Obligations.BindingAndPowerAct : Prop :=
  ∀ (s : State) d v (obj rec_ rep : W64) (att : Bool),
    let key := if att then some (s.die 0).fwdig else none
    (∀ o s', s.readObj d v obj.toNat = .ok (o, s') →
      ((s'.die 0).fwdig = (s.die 0).fwdig → ∀ bs, o.bind key = .ok bs → exec (.bind d v obj rec_ rep att) s = .next (s'.putBytes d v rec_.toNat bs))
      ∧ ((s'.die 0).fwdig = (s.die 0).fwdig → ∀ bs, o.bind key = .error bs → exec (.bind d v obj rec_ rep att) s = .next (s'.putBytes d v rep.toNat bs)))
    ∧ (∀ off item, s.readObj d v obj.toNat = .error (off, item) → exec (.bind d v obj rec_ rep att) s = .next (s.putBytes d v rep.toNat (faultReport 0x0101 item 0 off [])))
    ∧ ((s.bootstat = 0 ∨ s.powerLost = true) → (∀ j, Cells.get [] s.reflash j = []) → ∃ t, exec .powerOn s = .next t
        ∧ (∀ e, fwCheck s.flash = .error e → t.bootstat.getLsbD 0 = false ∧ ∀ j, j < 4 → (t.die j).inReset = true ∧ (t.die j).bootErr = e)
        ∧ (∀ x, fwCheck s.flash = .ok x → t.bootstat.getLsbD 0 = true ∧ t.powerLost = false ∧ ∀ j, j < 4 → (t.die j).inReset = false))
    ∧ (s.ns.toNat < s.nextEval → ∀ power temp, exec (.powerEval power temp) s = .next s)
    ∧ (∀ power temp, s.nextEval ≤ s.ns.toNat → let w := s.power
        let hot := w.plimNext < power ∨ 105 ≤ temp
        (115 ≤ temp → ∃ t, exec (.powerEval power temp) s = .next t ∧ t.power.trip = true ∧ t = { s with power := t.power, nextEval := s.nextEval + 10000 })
        ∧ (temp < 115 → ∃ t, exec (.powerEval power temp) s = .next t ∧ t = { s with power := t.power, nextEval := s.nextEval + 10000 } ∧ t.power.trip = w.trip ∧ t.power.plim = w.plimNext ∧ t.power.freq = w.freqNext
            ∧ t.power.pw = power % 65536 ∧ t.power.temp = temp ∧ t.power.energy = w.energy + BitVec.ofNat 64 (10 * power)
            ∧ t.power.f = (if hot then max (w.f - 100) 600 else if w.f < w.freqNext ∧ power * (w.f + 100) ≤ w.plimNext * w.f then w.f + 100 else if w.freqNext < w.f then w.freqNext else w.f)))
    ∧ (∃ t, exec .packagePowerLoss s = .next t ∧ t = { State.reset with flash := s.flash, reflash := s.reflash, agenda := s.agenda, tick := s.tick, free := s.free, powerLost := true })

/-- R435, R451: without clocks a step that neither restores nor removes power is the fault clocksStopped; a step that goes on leaves no issuer in the state, counts itself, and lets device time pass. -/
def Obligations.StepsSettleOrStop : Prop :=
  ∀ s : State,
    ((s.powerLost = true ∨ s.power.trip = true) → s.nextAction ≠ .ev .powerOn → s.nextAction ≠ .ev .packagePowerLoss → step s = .fault .clocksStopped)
    ∧ (s.powerLost = false → s.power.trip = false → ∀ t, step s = .next t → t.cur = {} ∧ ∃ u, s.begun.act s.nextAction = .next u ∧ t.tick = u.tick + 1 ∧ t.cyc = u.cyc + Config.elapsedCyc u.tick
        ∧ t.mem = u.mem ∧ t.tasks = u.tasks)

namespace Sys2Proof.Claims

/-! Forms with every field at rest: guard p7, register fields v0, everything else 0. -/

/-- v0. -/
def v0 : Spec := ⟨.v, 0⟩
/-- The guard that is always true. -/
def always : Guard := ⟨false, 7⟩
/-- Class A at rest. -/
def restA : AForm := { look := 0, grd := always, cls := 0, dst := v0, a := v0, b := v0, c := v0, imm := 0, mu := false, mo := false, bi := false, x20 := false, ty := .i32, fn := 0 }
/-- Class B at rest. -/
def restB : BForm := { look := 0, grd := always, dst := v0, a := v0, b := v0, tdisp := 0, mo := false, tr := false, mr := false, ej := false, tslot := 0, mdisp := 0, mslot := 0 }
/-- Class M at rest. -/
def restM : MForm := { look := 0, grd := always, cls := 0, dst := v0, a := v0, b := v0, c := v0, imm := 0, scope := .wp, order := .rlx, mu := false, mo := false, bi := false, iw := false, nv := 0, df := 0, rs := 0, retain := 0 }
/-- Class K at rest. -/
def restK : KForm := { grd := always, a := v0, b := v0, c := v0, imm := 0, mo := false, opx := 0, rsd := 0, rss := 0, tli := 0 }
/-- Class X at rest. -/
def restX : XForm := { look := 0, grd := always, cls := 0, dst := v0, a := v0, b := v0, c := v0, imm := 0, mo := false, x20 := false, ta := 0, tb := 0 }
/-- Class S at rest. -/
def restS : SForm := { look := 0, grd := always, dst := v0, a := v0, b := v0, c := v0, imm := 0, scope := .wp, order := .rlx, mo := false, bi := false, opd := 0 }
/-- A conservator form at rest. -/
def restN : NForm := { d := 0, a := 0, b := 0, c := 0, inc := false, ar := false, sub := 0, imm := 0 }

end Sys2Proof.Claims

/-! Encodings and steps. -/

/-- R126 to R132, R140: every well-formed instruction of the main set that encodes gives a 96-bit word that decodes to it, and every well-formed conservator instruction a 64-bit word that decodes to it; every row of the opcode map, every prefix and every conservator opcode has a word for each value of its fields, under the opcode and sub-op of its row. -/
def Obligations.DecodingUndoesEncoding : Prop :=
  (∀ i w, i.wf = true → encode i = some w → w < 2 ^ 96 ∧ decode w = .ok i)
  ∧ (∀ i w, i.wf = true → encodeCons i = some w → w < 2 ^ 64 ∧ decodeCons w = .ok i)
  ∧ (∀ o n sh, (o, n, sh) ∈ opcodeRows →
      let word (i : Instr) : Prop := ∃ w, encode i = some w ∧ (Raw.ofWord w).opc = o ∧ (Raw.ofWord w).sub = n
      match sh with
      | .A mk => ∀ f, word (mk f)
      | .B mk => ∀ f, word (mk f)
      | .M mk => ∀ f, word (mk f)
      | .K mk => ∀ f, word (mk f)
      | .X mk => ∀ f, word (mk f)
      | .S mk => ∀ f, word (mk f))
  ∧ (∀ a b c, ∃ w, encode (.pfxCl a b c) = some w ∧ w / 2 ^ 88 = 0xF0) ∧ (∀ a, ∃ w, encode (.pfxRg a) = some w ∧ w / 2 ^ 88 = 0xF1)
  ∧ ∀ o n i, consForm o n = some i → ∃ w, encodeCons i = some w ∧ w / 2 ^ 58 = o

/-- R140, R141, R387: a word that decodes is the encoding of a well-formed instruction, so that no two words mean the same one: reserved fields and encodings are refused. -/
def Obligations.EveryDecodedWordIsAnEncoding : Prop :=
  (∀ w i, w < 2 ^ 96 → decode w = .ok i → i.wf = true ∧ encode i = some w) ∧ ∀ w i, w < 2 ^ 64 → decodeCons w = .ok i → i.wf = true ∧ encodeCons i = some w

/-- The spec's own words decode to the instructions they stand for (R119, R143, R387 and the worked examples), and a word whose reserved field is not 0 is refused. -/
def Obligations.SpecWordsDecode : Prop :=
  (decode 0x2D00_7000_4000_0001_4000_0000 = .ok (.movi { restA with dst := ⟨.v, 1⟩, imm := 5 }))
  ∧ decode 0x1002_7000_8040_0000_C020_0000 = .ok (.iadd { restA with look := 2, dst := ⟨.v, 2⟩, a := ⟨.v, 1⟩, imm := 3, bi := true })
  ∧ decode 0x4302_20C1_0141_8100_0000_0000 = .ok (.fma { restA with look := 2, grd := ⟨false, 2⟩, cls := 3, dst := ⟨.v, 4⟩, a := ⟨.v, 5⟩, b := ⟨.v, 6⟩, c := ⟨.v, 4⟩ })
  ∧ decode 0x0700_7000_0000_0000_0000_0000 = .ok (.exit restA)
  ∧ decode 0x0200_7000_3040_0000_0004_6030 = .ok (.brc { restB with a := ⟨.x, 1⟩, ej := true, tslot := 3, mdisp := 1, mslot := 4 })
  ∧ decode 0x7000_7001_A041_4000_1801_8100 = .ok (.ld { restM with dst := ⟨.v, 6⟩, a := ⟨.k, 1⟩, b := ⟨.v, 5⟩, scope := .dv, nv := 1, df := 0x81 })
  ∧ decode 0x7100_70C0_0100_0208_2A20_0200 = .ok (.st { restM with cls := 3, a := ⟨.v, 4⟩, c := ⟨.v, 8⟩, imm := 32, scope := .rc, order := .rel, bi := true, df := 2 })
  ∧ decode 0x7800_7000_2362_A300_0000_A000 = .ok (.cpy { restK with a := ⟨.k, 13⟩, b := ⟨.k, 10⟩, c := ⟨.k, 12⟩, rsd := 5 })
  ∧ decode 0x8600_7080_1111_D0C0_0000_0100 = .ok (.mma { restX with cls := 2, a := ⟨.s, 4⟩, b := ⟨.s, 7⟩, c := ⟨.s, 3⟩, tb := 1 })
  ∧ decode 0x9000_1000_0000_0000_0C00_0000 = .ok (.fence { restS with grd := ⟨false, 1⟩, scope := .tm, order := .sc })
  ∧ decode 0x9300_1000_2080_0080_1200_8100 = .ok (.red .add { restM with grd := ⟨false, 1⟩, a := ⟨.k, 2⟩, c := ⟨.v, 2⟩, scope := .cl, order := .rel, df := 0x81 })
  ∧ decode 0xB000_7000_0000_0001_C000_0000 = .ok (.trap { restS with imm := 7 })
  ∧ decode 0xBA10_7011_0000_0001_C020_0000 = .ok (.rpqryWt { restS with dst := ⟨.s, 4⟩, imm := 7, bi := true })
  ∧ decode 0xF000_7000_0040_C000_0000_0000 = .ok (.pfxCl 1 3 0)
  ∧ decodeCons 0x0488_0208_0000_0000 = .ok (.nld { restN with d := 2, a := 2, inc := true, sub := 2 })
  ∧ decodeCons 0x147C_4800_0000_0000 = .ok (.nfma { restN with d := 1, a := 15, b := 1, c := 2 })
  ∧ decodeCons 0x3418_0000_FFFF_FFF8 = .ok (.nloop { restN with a := 6, imm := -8 })
  ∧ decode 0x0700_7000_0000_0000_0000_0001 = .error .reserved

/-- R123, R136, R149, R391: a step whose agenda names a ready path at an ordinary unit with no prefix and no pair executes the instruction that the slot decodes to, on the state in which the path issues from its slot in a cyc of its own, and then opens its window and settles; a step that names a ready conservator executes the instruction its store decodes to; a step that names an event executes that event. -/
def Obligations.StepRunsTheDecodedInstruction : Prop :=
  ∀ (s : State) rest (i : Instr), (s.powerLost || s.power.trip) = false →
    let s0 : State := { s with agenda := rest }
    let settled (o : Out) : Out := match o with | .next t => .next t.settle | o => o
    (∀ k w e line pte, s.agenda = .issue (.warp k w e) :: rest → s0.pathReady k w e = true →
        s0.parksAway k w e = false →
        let s1 := (s0.nextCyc (.warp k w e)).aged k w e
        let x := s1.warp k w
        let p := x.entry e
        let slot := p.pc.toNat % 8
        x.parkPath e = x → x.pendTrap e = none → p.valid = true → p.mask ≠ 0 →
        let s2 := (s1.atUnit (.warp k w e) p.pc (x.isHandlerPath e) p.age).modWarp k w fun x => x.modEntry e fun p => { p with age := 0 }
        s2.cLine p.pc = .ok (line, pte) → lineParityOk line = true → lineMalformed line = false → lineKind (lineWord line) = b2n (x.isHandlerPath e) →
        slot < 5 → isPrefixWord (lineSlot line slot) = false → (slot = 4 ∨ linePair (lineWord line) slot = false) → decode (lineSlot line slot) = .ok i → usesPrefixRegion i = false →
        let s3 := s2.cMark pte false
        let at_ : State := { s3 with cur := { s3.cur with npc := pcNext p.pc 1, ipc := BitVec.ofNat 64 (pcLine p.pc + slot) } }
        let old := at_.pathThreads.map fun t => (t, at_.lookOf t)
        (∀ y ∈ old, lookBad y.2 i none none = none) →
        step s = settled (match exec i at_ with | .next t => .next (if t.cur.stop then t else t.lookStep old i none) | o => o))
    ∧ (∀ c k, s.agenda = .issue (.cons c) :: rest → s0.consReady c = true → (s.cons c).task = some k → (s.cons c).pc < (s.task k).upd.code.length →
        decodeCons (Cells.get 0 (s.cons c).store (s.cons c).pc).toNat = .ok i → step s = settled (exec i { s0.nextCyc (.cons c) with cur := { agent := .cons c } }))
    ∧ (s.agenda = .ev i :: rest → step s = settled (exec i { s0 with cur := {} }))

/-- R5, R232, and the memory's one form (log 2): a step from a state whose byte memory is in canonical form leaves it so, whatever it does. -/
def Obligations.StepsKeepMemoryCanonical : Prop :=
  ∀ s t : State, Memory.wf s.mem = true → step s = .next t → Memory.wf t.mem = true

/-- R20, R149, R432, R445: after power-on reset memory lists nothing and is canonical, no die runs code: no team, rill context, update, task or pending access exists, READY is 0, SWTICK is 1 ms, the limits are 2,400 W and 1,800 MHz, and every link stands at full width; the values the spec does not give are 0 (log 3). -/
def Obligations.ResetLeavesTheSpecifiedState : Prop :=
  let s := State.reset
  Memory.wf s.mem = true ∧ s.mem = [] ∧ s.teams = [] ∧ s.rills = [] ∧ s.conss = [] ∧ s.tasks = [] ∧ s.pend = [] ∧ s.cxl = [] ∧ s.answers = [] ∧ s.poison = [] ∧ s.tags = [] ∧ s.tlb = [] ∧ s.opps = [] ∧ s.gallery = []
  ∧ s.bootstat = 0 ∧ s.csize = 0 ∧ s.clock = false ∧ s.swtick = 1000 ∧ s.power.plimNext = 2400 ∧ s.power.freqNext = 1800 ∧ s.power.trip = false ∧ s.powerLost = false ∧ s.stepAbt = 0 ∧ s.qctl = 0 ∧ s.preq = 0
  ∧ (∀ d, (s.die d).clpart = 0 ∧ (s.die d).tinvc = 0 ∧ (s.die d).galOpen = false ∧ (s.die d).flesc = 0 ∧ (s.die d).fslots = [] ∧ (s.die d).cur.guest = none ∧ ∀ q, Cells.get {} (s.die d).queues q = {})
  ∧ (∀ v, s.vdev v = {} ∧ s.rp v = {} ∧ ∀ l, ((s.vdev v).list l).lsz = 4 ∧ ((s.vdev v).list l).en = false) ∧ (∀ l, (s.link l).state = 0 ∧ (s.link l).good = 15) ∧ s.cur = {}

end
end

