-- ==== Sys2Proof/Laws/Cells.lean ====
section
/-! SUPPORT. Laws of sparse maps and of byte memory: what a read finds after a write, and that every operation keeps the canonical form. -/

namespace Sys2Proof.Machine

open Sys2Proof

variable {α : Type}

/-! Reads after updates. They hold of any list, canonical or not. -/

@[simp] theorem Cells.get_nil (d : α) (k : Nat) : Cells.get d [] k = d := rfl

theorem Cells.get_cons (d : α) (a : Nat) (x : α) (m : Cells α) (k : Nat) :
    Cells.get d ((a, x) :: m) k = if a = k then x else Cells.get d m k := rfl

@[simp] theorem Cells.get_erase_self (d : α) (m : Cells α) (k : Nat) : Cells.get d (Cells.erase m k) k = d := by
  induction m with
  | nil => rfl
  | cons c m ih => obtain ⟨a, x⟩ := c; by_cases h : a = k <;> simp [Cells.erase, Cells.get, h, ih]

theorem Cells.get_erase_ne (d : α) (m : Cells α) {k j : Nat} (h : j ≠ k) : Cells.get d (Cells.erase m k) j = Cells.get d m j := by
  induction m with
  | nil => rfl
  | cons c m ih =>
    obtain ⟨a, x⟩ := c
    by_cases ha : a = k
    · simp [Cells.erase, Cells.get, ha, ih, Ne.symm h]
    · simp [Cells.erase, Cells.get, ha, ih]

theorem Cells.get_insert_self (d : α) (m : Cells α) (k : Nat) (x : α) (h : ∀ c ∈ m, c.1 ≠ k) : Cells.get d (Cells.insert k x m) k = x := by
  induction m with
  | nil => simp [Cells.insert, Cells.get]
  | cons c m ih =>
    obtain ⟨a, y⟩ := c
    have ha : a ≠ k := h (a, y) (by simp)
    by_cases hk : k < a
    · simp [Cells.insert, hk, Cells.get]
    · simp [Cells.insert, hk, Cells.get, ha, ih fun c hc => h c (by simp [hc])]

theorem Cells.get_insert_ne (d : α) (m : Cells α) {k j : Nat} (x : α) (h : j ≠ k) : Cells.get d (Cells.insert k x m) j = Cells.get d m j := by
  induction m with
  | nil => simp [Cells.insert, Cells.get, Ne.symm h]
  | cons c m ih =>
    obtain ⟨a, y⟩ := c
    by_cases hk : k < a
    · simp [Cells.insert, hk, Cells.get, Ne.symm h]
    · simp [Cells.insert, hk, Cells.get, ih]

theorem Cells.not_mem_erase (m : Cells α) (k : Nat) : ∀ c ∈ Cells.erase m k, c.1 ≠ k := by
  induction m with
  | nil => simp [Cells.erase]
  | cons c m ih =>
    obtain ⟨a, x⟩ := c
    by_cases ha : a = k
    · simpa [Cells.erase, ha] using ih
    · intro c hc
      simp only [Cells.erase, ha, if_false, List.mem_cons] at hc
      rcases hc with rfl | hc
      · exact ha
      · exact ih c hc

theorem Cells.erase_eq_self (m : Cells α) (k : Nat) (h : ∀ c ∈ m, c.1 ≠ k) : Cells.erase m k = m := by
  induction m with
  | nil => rfl
  | cons c m ih =>
    obtain ⟨a, x⟩ := c
    have ha : a ≠ k := h (a, x) (by simp)
    rw [Cells.erase, if_neg ha, ih fun c hc => h c (by simp [hc])]

theorem Cells.erase_insert_self (m : Cells α) (k : Nat) (x : α) (h : ∀ c ∈ m, c.1 ≠ k) : Cells.erase (Cells.insert k x m) k = m := by
  induction m with
  | nil => simp [Cells.insert, Cells.erase]
  | cons c m ih =>
    obtain ⟨a, y⟩ := c
    have ha : a ≠ k := h (a, y) (by simp)
    by_cases hk : k < a
    · simp only [Cells.insert, if_pos hk, Cells.erase, if_true, if_neg ha]
      rw [Cells.erase_eq_self m k fun c hc => h c (by simp [hc])]
    · simp only [Cells.insert, if_neg hk, Cells.erase, if_neg ha]
      rw [ih fun c hc => h c (by simp [hc])]

section
variable [DecidableEq α]

@[simp] theorem Cells.get_set_self (d : α) (m : Cells α) (k : Nat) (x : α) : Cells.get d (Cells.set d m k x) k = x := by
  unfold Cells.set
  split
  · next h => simp [h]
  · exact Cells.get_insert_self d _ k x (Cells.not_mem_erase m k)

theorem Cells.get_set_ne (d : α) (m : Cells α) {k j : Nat} (x : α) (h : j ≠ k) : Cells.get d (Cells.set d m k x) j = Cells.get d m j := by
  unfold Cells.set
  split
  · exact Cells.get_erase_ne d m h
  · rw [Cells.get_insert_ne d _ x h, Cells.get_erase_ne d m h]

theorem Cells.get_set (d : α) (m : Cells α) (k j : Nat) (x : α) :
    Cells.get d (Cells.set d m k x) j = if j = k then x else Cells.get d m j := by
  by_cases h : j = k
  · subst h; simp
  · simp [h, Cells.get_set_ne d m x h]

theorem Cells.get_modify (d : α) (m : Cells α) (k j : Nat) (f : α → α) :
    Cells.get d (Cells.modify d m k f) j = if j = k then f (Cells.get d m k) else Cells.get d m j := Cells.get_set d m k j _

@[simp] theorem Cells.get_modify_self (d : α) (m : Cells α) (k : Nat) (f : α → α) :
    Cells.get d (Cells.modify d m k f) k = f (Cells.get d m k) := by simp [Cells.get_modify]

theorem Cells.get_modify_ne (d : α) (m : Cells α) {k j : Nat} (f : α → α) (h : j ≠ k) :
    Cells.get d (Cells.modify d m k f) j = Cells.get d m j := by simp [Cells.get_modify, h]

theorem Cells.erase_set_self (d : α) (m : Cells α) (k : Nat) (x : α) : Cells.erase (Cells.set d m k x) k = Cells.erase m k := by
  unfold Cells.set
  split
  · exact Cells.erase_eq_self _ k (Cells.not_mem_erase m k)
  · exact Cells.erase_insert_self _ k x (Cells.not_mem_erase m k)

/-- The second of two writes to one key stands alone. -/
theorem Cells.set_set (d : α) (m : Cells α) (k : Nat) (x y : α) : Cells.set d (Cells.set d m k x) k y = Cells.set d m k y := by
  show (if y = d then Cells.erase (Cells.set d m k x) k else Cells.insert k y (Cells.erase (Cells.set d m k x) k)) = _
  rw [Cells.erase_set_self]
  rfl

theorem Cells.modify_modify (d : α) (m : Cells α) (k : Nat) (f g : α → α) :
    Cells.modify d (Cells.modify d m k f) k g = Cells.modify d m k fun x => g (f x) := by
  unfold Cells.modify
  rw [Cells.get_set_self, Cells.set_set]

/-! The canonical form. -/

theorem Cells.wfFrom_mono (d : α) (m : Cells α) {lo lo' : Nat} (h : lo' ≤ lo) (hw : Cells.wfFrom d lo m = true) : Cells.wfFrom d lo' m = true := by
  cases m with
  | nil => rfl
  | cons c m =>
    obtain ⟨a, x⟩ := c
    simp only [Cells.wfFrom, Bool.and_eq_true, decide_eq_true_eq] at hw ⊢
    exact ⟨⟨by omega, hw.1.2⟩, hw.2⟩

theorem Cells.wfFrom_erase (d : α) (m : Cells α) (k lo : Nat) (hw : Cells.wfFrom d lo m = true) : Cells.wfFrom d lo (Cells.erase m k) = true := by
  induction m generalizing lo with
  | nil => rfl
  | cons c m ih =>
    obtain ⟨a, x⟩ := c
    simp only [Cells.wfFrom, Bool.and_eq_true, decide_eq_true_eq] at hw
    by_cases ha : a = k
    · simp only [Cells.erase, ha, if_true]
      exact ih lo (Cells.wfFrom_mono d m (by omega) hw.2)
    · simp only [Cells.erase, ha, if_false, Cells.wfFrom, Bool.and_eq_true, decide_eq_true_eq]
      exact ⟨hw.1, ih _ hw.2⟩

theorem Cells.wfFrom_insert (d : α) (m : Cells α) (k lo : Nat) (x : α) (hx : x ≠ d) (hlo : lo ≤ k) (hk : ∀ c ∈ m, c.1 ≠ k)
    (hw : Cells.wfFrom d lo m = true) : Cells.wfFrom d lo (Cells.insert k x m) = true := by
  induction m generalizing lo with
  | nil => simp [Cells.insert, Cells.wfFrom, hx, hlo]
  | cons c m ih =>
    obtain ⟨a, y⟩ := c
    have ha : a ≠ k := hk (a, y) (by simp)
    simp only [Cells.wfFrom, Bool.and_eq_true, decide_eq_true_eq] at hw
    by_cases h : k < a
    · simp only [Cells.insert, h, if_true, Cells.wfFrom, Bool.and_eq_true, decide_eq_true_eq]
      exact ⟨⟨hlo, hx⟩, ⟨by omega, hw.1.2⟩, hw.2⟩
    · simp only [Cells.insert, h, if_false, Cells.wfFrom, Bool.and_eq_true, decide_eq_true_eq]
      exact ⟨hw.1, ih _ (by omega) (fun c hc => hk c (by simp [hc])) hw.2⟩

/-- A write keeps the canonical form. -/
theorem Cells.wf_set (d : α) (m : Cells α) (k : Nat) (x : α) (hw : Cells.wf d m = true) : Cells.wf d (Cells.set d m k x) = true := by
  unfold Cells.set Cells.wf
  split
  · exact Cells.wfFrom_erase d m k 0 hw
  · next h => exact Cells.wfFrom_insert d _ k 0 x h (by omega) (Cells.not_mem_erase m k) (Cells.wfFrom_erase d m k 0 hw)

theorem Cells.wf_erase (d : α) (m : Cells α) (k : Nat) (hw : Cells.wf d m = true) : Cells.wf d (Cells.erase m k) = true :=
  Cells.wfFrom_erase d m k 0 hw

theorem Cells.wfFrom_filter (d : α) (p : Nat × α → Bool) (m : Cells α) (lo : Nat) (hw : Cells.wfFrom d lo m = true) :
    Cells.wfFrom d lo (m.filter p) = true := by
  induction m generalizing lo with
  | nil => rfl
  | cons c m ih =>
    obtain ⟨a, x⟩ := c
    simp only [Cells.wfFrom, Bool.and_eq_true, decide_eq_true_eq] at hw
    simp only [List.filter_cons]
    split
    · simp only [Cells.wfFrom, Bool.and_eq_true, decide_eq_true_eq]
      exact ⟨hw.1, ih _ hw.2⟩
    · exact ih lo (Cells.wfFrom_mono d m (by omega) hw.2)

/-- Entries taken out keep the canonical form. -/
theorem Cells.wf_filter (d : α) (p : Nat × α → Bool) (m : Cells α) (hw : Cells.wf d m = true) : Cells.wf d (m.filter p) = true :=
  Cells.wfFrom_filter d p m 0 hw

theorem Cells.get_of_lt (d : α) (m : Cells α) (k lo : Nat) (hk : k < lo) (hw : Cells.wfFrom d lo m = true) : Cells.get d m k = d := by
  induction m generalizing lo with
  | nil => rfl
  | cons c m ih =>
    obtain ⟨a, x⟩ := c
    simp only [Cells.wfFrom, Bool.and_eq_true, decide_eq_true_eq] at hw
    rw [Cells.get_cons, if_neg (by omega)]
    exact ih (a + 1) (by omega) hw.2

theorem Cells.ext_from (d : α) (m n : Cells α) (lo : Nat) (hm : Cells.wfFrom d lo m = true) (hn : Cells.wfFrom d lo n = true)
    (h : ∀ k, Cells.get d m k = Cells.get d n k) : m = n := by
  induction m generalizing n lo with
  | nil =>
    cases n with
    | nil => rfl
    | cons c n =>
      obtain ⟨a, x⟩ := c
      simp only [Cells.wfFrom, Bool.and_eq_true, decide_eq_true_eq] at hn
      have := h a
      simp [Cells.get] at this
      exact absurd this.symm hn.1.2
  | cons c m ih =>
    obtain ⟨a, x⟩ := c
    simp only [Cells.wfFrom, Bool.and_eq_true, decide_eq_true_eq] at hm
    cases n with
    | nil =>
      have := h a
      simp [Cells.get] at this
      exact absurd this hm.1.2
    | cons c' n =>
      obtain ⟨b, y⟩ := c'
      simp only [Cells.wfFrom, Bool.and_eq_true, decide_eq_true_eq] at hn
      have hab : a = b := by
        rcases Nat.lt_trichotomy a b with hl | he | hl
        · have := h a
          rw [Cells.get_cons, if_pos rfl, Cells.get_cons, if_neg (by omega), Cells.get_of_lt d n a (b + 1) (by omega) hn.2] at this
          exact absurd this hm.1.2
        · exact he
        · have := h b
          rw [Cells.get_cons, if_neg (by omega), Cells.get_cons, if_pos rfl, Cells.get_of_lt d m b (a + 1) (by omega) hm.2] at this
          exact absurd this.symm hn.1.2
      subst hab
      have hxy : x = y := by have := h a; simpa [Cells.get] using this
      subst hxy
      congr 1
      refine ih n (a + 1) hm.2 hn.2 fun k => ?_
      by_cases hk : k = a
      · subst hk
        rw [Cells.get_of_lt d m k (k + 1) (by omega) hm.2, Cells.get_of_lt d n k (k + 1) (by omega) hn.2]
      · have := h k
        simpa [Cells.get, Ne.symm hk] using this

/-- Maps in canonical form with the same values are equal data. -/
theorem Cells.ext (d : α) (m n : Cells α) (hm : Cells.wf d m = true) (hn : Cells.wf d n = true) (h : ∀ k, Cells.get d m k = Cells.get d n k) : m = n :=
  Cells.ext_from d m n 0 hm hn h

end

/-! Byte memory. -/

theorem readByte_writeByte (m : Cells Byte) (a b : Nat) (x : Byte) : readByte (writeByte m a x) b = if b = a then x else readByte m b :=
  Cells.get_set emptyByte m a b x

@[simp] theorem readByte_writeByte_self (m : Cells Byte) (a : Nat) (x : Byte) : readByte (writeByte m a x) a = x := by simp [readByte_writeByte]

theorem readByte_writeByte_ne (m : Cells Byte) {a b : Nat} (x : Byte) (h : b ≠ a) : readByte (writeByte m a x) b = readByte m b := by
  simp [readByte_writeByte, h]

theorem readByte_writeBytes (m : Cells Byte) (a b : Nat) (l : List Byte) :
    readByte (writeBytes m a l) b = if a ≤ b ∧ b < a + l.length then l.getD (b - a) 0 else readByte m b := by
  induction l generalizing m a with
  | nil => simp only [writeBytes, List.length_nil]; rw [if_neg (by omega)]
  | cons x l ih =>
    rw [writeBytes, ih]
    by_cases h : a + 1 ≤ b ∧ b < a + 1 + l.length
    · rw [if_pos h, if_pos (by simp only [List.length_cons]; omega)]
      have : b - a = (b - (a + 1)) + 1 := by omega
      rw [this, List.getD_cons_succ]
    · rw [if_neg h, readByte_writeByte]
      by_cases hb : b = a
      · subst hb; simp
      · rw [if_neg hb, if_neg (by simp only [List.length_cons]; omega)]

/-- A write leaves every byte outside its range as it was. -/
theorem readByte_writeBytes_out (m : Cells Byte) (a b : Nat) (l : List Byte) (h : b < a ∨ a + l.length ≤ b) :
    readByte (writeBytes m a l) b = readByte m b := by rw [readByte_writeBytes, if_neg (by omega)]

@[simp] theorem readBytes_length (m : Cells Byte) (a n : Nat) : (readBytes m a n).length = n := by
  induction n generalizing a with
  | zero => rfl
  | succ n ih => simp [readBytes, ih]

theorem readBytes_getD (m : Cells Byte) (a n i : Nat) (h : i < n) : (readBytes m a n).getD i 0 = readByte m (a + i) := by
  induction n generalizing a i with
  | zero => omega
  | succ n ih =>
    cases i with
    | zero => simp [readBytes]
    | succ i => rw [readBytes, List.getD_cons_succ, ih (a + 1) i (by omega)]; congr 1; omega

/-- A read returns what was just written there. -/
theorem readBytes_writeBytes_self (m : Cells Byte) (a : Nat) (l : List Byte) : readBytes (writeBytes m a l) a l.length = l := by
  apply List.ext_getElem (by simp)
  intro i h1 h2
  have := readBytes_getD (writeBytes m a l) a l.length i h2
  rw [readByte_writeBytes, if_pos (by omega)] at this
  simp only [Nat.add_sub_cancel_left] at this
  rw [List.getD_eq_getElem _ _ h1, List.getD_eq_getElem _ _ h2] at this
  exact this

theorem readBytes_writeBytes_out (m : Cells Byte) (a b n : Nat) (l : List Byte) (h : b + n ≤ a ∨ a + l.length ≤ b) :
    readBytes (writeBytes m a l) b n = readBytes m b n := by
  induction n generalizing b with
  | zero => rfl
  | succ n ih => simp only [readBytes]; rw [readByte_writeBytes_out m a b l (by omega), ih (b + 1) (by omega)]

theorem Memory.wf_writeByte (m : Cells Byte) (a : Nat) (x : Byte) (h : Memory.wf m = true) : Memory.wf (writeByte m a x) = true :=
  Cells.wf_set emptyByte m a x h

theorem Memory.wf_writeBytes (m : Cells Byte) (a : Nat) (l : List Byte) (h : Memory.wf m = true) : Memory.wf (writeBytes m a l) = true := by
  induction l generalizing m a with
  | nil => exact h
  | cons x l ih => exact ih _ _ (Memory.wf_writeByte m a x h)

theorem Memory.wf_filter (m : Cells Byte) (p : Nat × Byte → Bool) (h : Memory.wf m = true) : Memory.wf (m.filter p) = true :=
  Cells.wf_filter emptyByte p m h

/-! Bytes of numbers. -/

@[simp] theorem leBytes_length (n x : Nat) : (leBytes n x).length = n := by
  induction n generalizing x with
  | zero => rfl
  | succ n ih => simp [leBytes, ih]

/-- The bytes of a number give it back, modulo their count (R5). -/
theorem leNat_leBytes (n x : Nat) : leNat (leBytes n x) = x % 256 ^ n := by
  induction n generalizing x with
  | zero => simp [leBytes, leNat, Nat.mod_one]
  | succ n ih =>
    simp only [leBytes, leNat, ih, BitVec.toNat_ofNat, show 2 ^ 8 = 256 from rfl]
    rw [Nat.pow_succ, Nat.mul_comm (256 ^ n) 256, Nat.mod_mul]

end Sys2Proof.Machine
end

