-- ==== Sys2Proof/Laws/Encoding.lean ====
section
/-! SUPPORT. Encodings: the fields of a form read back as the form, the fields of a word as the word, and what decodeRaw needs to answer an instruction. -/

namespace Sys2Proof

/-! Parts of a word. -/

theorem natBit_bool (b : Bool) : natBit b.toNat 0 = b := by cases b <;> rfl

theorem Spec.ofNat_toNat (s : Spec) : Spec.ofNat s.toNat = s := by
  rcases s with ⟨f, i⟩
  have h := i.isLt
  have e (n : Nat) : BitVec.ofNat 6 ((n * 64 + i.toNat) % 64) = i := by apply BitVec.eq_of_toNat_eq; simp; omega
  have d (n : Nat) (hn : n < 4) : (n * 64 + i.toNat) / 64 % 4 = n := by omega
  cases f
  · have := d 0 (by omega); have := e 0; simp_all [Spec.ofNat, Spec.toNat]
  · have := d 1 (by omega); have := e 1; simp_all [Spec.ofNat, Spec.toNat]
  · have := d 2 (by omega); have := e 2; simp_all [Spec.ofNat, Spec.toNat]
  · have := d 3 (by omega); have := e 3; simp_all [Spec.ofNat, Spec.toNat]

theorem Spec.toNat_lt (s : Spec) : s.toNat < 256 := by
  rcases s with ⟨f, i⟩
  have := i.isLt
  cases f <;> simp only [Spec.toNat] <;> omega

theorem Guard.ofNat_toNat (g : Guard) : Guard.ofNat g.toNat = g := by
  rcases g with ⟨n, i⟩
  have h := i.isLt
  have e : BitVec.ofNat 3 ((n.toNat * 8 + i.toNat) % 8) = i := by apply BitVec.eq_of_toNat_eq; simp; omega
  cases n
  · have : i.toNat / 8 % 2 = 0 := by omega
    simp_all [Guard.ofNat, Guard.toNat]
  · have : (8 + i.toNat) / 8 % 2 = 1 := by omega
    simp_all [Guard.ofNat, Guard.toNat]

theorem Guard.toNat_lt (g : Guard) : g.toNat < 16 := by
  rcases g with ⟨n, i⟩
  have := i.isLt
  cases n <;> simp only [Guard.toNat, Bool.toNat_false, Bool.toNat_true] <;> omega

theorem IType.ofNat_code (t : IType) : IType.ofNat? t.code = some t := by cases t <;> rfl
theorem IType.code_lt (t : IType) : t.code < 8 := by cases t <;> decide
theorem Scope.ofNat_code (s : Scope) : Scope.ofNat? s.code = some s := by cases s <;> rfl
theorem Scope.code_lt (s : Scope) : s.code < 6 := by cases s <;> decide
theorem Order.ofNat_code (s : Order) : Order.ofNat? s.code = some s := by cases s <;> rfl
theorem Order.code_lt (s : Order) : s.code < 5 := by cases s <;> decide

/-! Words. -/

/-- Every field fits its place. -/
structure Raw.Fits (r : Raw) : Prop where
  opc : r.opc < 256
  sub : r.sub < 16
  look : r.look < 16
  grd : r.grd < 16
  cls : r.cls < 64
  dst : r.dst < 256
  a : r.a < 256
  b : r.b < 256
  c : r.c < 256
  imm : r.imm < 256
  sco : r.sco < 64
  md : r.md < 256
  fsp : r.fsp < 65536

theorem Raw.ofWord_toWord (r : Raw) (h : r.Fits) : Raw.ofWord r.toWord = r := by
  obtain ⟨opc, sub, look, grd, cls, dst, a, b, c, imm, sco, md, fsp⟩ := r
  obtain ⟨_, _, _, _, _, _, _, _, _, _, _, _, _⟩ := h
  simp only [Raw.ofWord, Raw.toWord, Raw.mk.injEq] at *
  refine ⟨?_, ?_, ?_, ?_, ?_, ?_, ?_, ?_, ?_, ?_, ?_, ?_, ?_⟩ <;> omega

theorem Raw.toWord_lt (r : Raw) (h : r.Fits) : r.toWord < 2 ^ 96 := by
  obtain ⟨_, _, _, _, _, _, _, _, _, _, _, _, _⟩ := h
  simp only [Raw.toWord]; omega

theorem Raw.toWord_ofWord (w : Nat) (h : w < 2 ^ 96) : (Raw.ofWord w).toWord = w := by
  have e16 : w = w / 2 ^ 16 * 2 ^ 16 + w % 65536 := by omega
  have e24 : w / 2 ^ 16 = w / 2 ^ 24 * 256 + w / 2 ^ 16 % 256 := by omega
  have e30 : w / 2 ^ 24 = w / 2 ^ 30 * 64 + w / 2 ^ 24 % 64 := by omega
  have e38 : w / 2 ^ 30 = w / 2 ^ 38 * 256 + w / 2 ^ 30 % 256 := by omega
  have e46 : w / 2 ^ 38 = w / 2 ^ 46 * 256 + w / 2 ^ 38 % 256 := by omega
  have e54 : w / 2 ^ 46 = w / 2 ^ 54 * 256 + w / 2 ^ 46 % 256 := by omega
  have e62 : w / 2 ^ 54 = w / 2 ^ 62 * 256 + w / 2 ^ 54 % 256 := by omega
  have e70 : w / 2 ^ 62 = w / 2 ^ 70 * 256 + w / 2 ^ 62 % 256 := by omega
  have e76 : w / 2 ^ 70 = w / 2 ^ 76 * 64 + w / 2 ^ 70 % 64 := by omega
  have e80 : w / 2 ^ 76 = w / 2 ^ 80 * 16 + w / 2 ^ 76 % 16 := by omega
  have e84 : w / 2 ^ 80 = w / 2 ^ 84 * 16 + w / 2 ^ 80 % 16 := by omega
  have e88 : w / 2 ^ 84 = w / 2 ^ 88 * 16 + w / 2 ^ 84 % 16 := by omega
  have top : w / 2 ^ 88 % 256 = w / 2 ^ 88 := by omega
  simp only [Raw.ofWord, Raw.toWord, top]
  generalize w / 2 ^ 16 = q16 at *
  generalize w / 2 ^ 24 = q24 at *
  generalize w / 2 ^ 30 = q30 at *
  generalize w / 2 ^ 38 = q38 at *
  generalize w / 2 ^ 46 = q46 at *
  generalize w / 2 ^ 54 = q54 at *
  generalize w / 2 ^ 62 = q62 at *
  generalize w / 2 ^ 70 = q70 at *
  generalize w / 2 ^ 76 = q76 at *
  generalize w / 2 ^ 80 = q80 at *
  generalize w / 2 ^ 84 = q84 at *
  generalize w / 2 ^ 88 = q88 at *
  generalize w % 65536 = r at *
  generalize q16 % 256 = r16 at *
  generalize q24 % 64 = r24 at *
  generalize q30 % 256 = r30 at *
  generalize q38 % 256 = r38 at *
  generalize q46 % 256 = r46 at *
  generalize q54 % 256 = r54 at *
  generalize q62 % 256 = r62 at *
  generalize q70 % 64 = r70 at *
  generalize q76 % 16 = r76 at *
  generalize q80 % 16 = r80 at *
  generalize q84 % 16 = r84 at *
  omega

/-! Forms. -/

/-- A bit field of a sum, as the vector it came from. -/
theorem BitVec.ofNat_field {n : Nat} (x : BitVec n) (w k : Nat) (h : w / k % 2 ^ n = x.toNat) : BitVec.ofNat n (w / k) = x := by
  apply BitVec.eq_of_toNat_eq; simpa using h

/-- The same of the lowest bits. -/
theorem BitVec.ofNat_low {n : Nat} (x : BitVec n) (w : Nat) (h : w % 2 ^ n = x.toNat) : BitVec.ofNat n w = x := by
  apply BitVec.eq_of_toNat_eq; simpa using h

/-- Bit k of a byte, as the flag it came from. -/
theorem natBit_eq (b : Bool) (w k : Nat) (h : w / 2 ^ k % 2 = b.toNat) : natBit w k = b := by
  cases b <;> simp_all [natBit]

theorem AForm.ofRaw_toRaw (f : AForm) (o s : Nat) : AForm.ofRaw (f.toRaw o s) = some f := by
  rcases f with ⟨look, grd, cls, dst, a, b, c, imm, mu, mo, bi, x20, ty, fn⟩
  have := ty.code_lt
  have hf := fn.isLt
  have h1 : (ty.code * 4096 + fn.toNat * 256) / 4096 % 16 = ty.code := by omega
  have h2 : BitVec.ofNat 4 ((ty.code * 4096 + fn.toNat * 256) / 256) = fn := BitVec.ofNat_field _ _ _ (by omega)
  have h3 : (ty.code * 4096 + fn.toNat * 256) % 256 = 0 := by omega
  simp only [AForm.ofRaw, AForm.toRaw, h1, h2, h3, IType.ofNat_code, Spec.ofNat_toNat, Guard.ofNat_toNat, BitVec.ofNat_toNat, BitVec.setWidth_eq]
  cases mu <;> cases mo <;> cases bi <;> cases x20 <;> simp [natBit]

theorem BForm.ofRaw_toRaw (f : BForm) (o s : Nat) : BForm.ofRaw (f.toRaw o s) = some f := by
  rcases f with ⟨look, grd, dst, a, b, tdisp, mo, tr, mr, ej, tslot, mdisp, mslot⟩
  have := tslot.isLt; have := mdisp.isLt; have := mslot.isLt
  have h1 : BitVec.ofNat 3 ((tslot.toNat * 8192 + mdisp.toNat * 32 + mslot.toNat * 4) / 8192) = tslot := BitVec.ofNat_field _ _ _ (by omega)
  have h2 : BitVec.ofNat 8 ((tslot.toNat * 8192 + mdisp.toNat * 32 + mslot.toNat * 4) / 32) = mdisp := BitVec.ofNat_field _ _ _ (by omega)
  have h3 : BitVec.ofNat 3 ((tslot.toNat * 8192 + mdisp.toNat * 32 + mslot.toNat * 4) / 4) = mslot := BitVec.ofNat_field _ _ _ (by omega)
  have h4 : (tslot.toNat * 8192 + mdisp.toNat * 32 + mslot.toNat * 4) % 4 = 0 := by omega
  simp only [BForm.ofRaw, BForm.toRaw, h1, h2, h3, h4, Spec.ofNat_toNat, Guard.ofNat_toNat, BitVec.ofNat_toNat, BitVec.setWidth_eq]
  cases mo <;> cases tr <;> cases mr <;> cases ej <;> simp [natBit]

theorem MForm.ofRaw_toRaw (f : MForm) (o s : Nat) : MForm.ofRaw (f.toRaw o s) = some f := by
  rcases f with ⟨look, grd, cls, dst, a, b, c, imm, scope, order, mu, mo, bi, iw, nv, df, rs, retain⟩
  have := df.isLt; have := rs.isLt; have := retain.isLt; have := nv.isLt; have := scope.code_lt; have := order.code_lt
  have h1 : BitVec.ofNat 8 ((df.toNat * 256 + rs.toNat * 32 + retain.toNat * 8) / 256) = df := BitVec.ofNat_field _ _ _ (by omega)
  have h2 : BitVec.ofNat 3 ((df.toNat * 256 + rs.toNat * 32 + retain.toNat * 8) / 32) = rs := BitVec.ofNat_field _ _ _ (by omega)
  have h3 : BitVec.ofNat 2 ((df.toNat * 256 + rs.toNat * 32 + retain.toNat * 8) / 8) = retain := BitVec.ofNat_field _ _ _ (by omega)
  have h4 : (df.toNat * 256 + rs.toNat * 32 + retain.toNat * 8) % 8 = 0 := by omega
  have h5 : (scope.code * 8 + order.code) / 8 % 8 = scope.code := by omega
  have h6 : (scope.code * 8 + order.code) % 8 = order.code := by omega
  have flags (k : Nat) (hk : 2 ≤ k) (m : Nat) : natBit (4 * m + nv.toNat) k = natBit m (k - 2) := by
    obtain ⟨j, rfl⟩ : ∃ j, k = j + 2 := ⟨k - 2, by omega⟩
    have : (4 * m + nv.toNat) / 2 ^ (j + 2) = m / 2 ^ j := by rw [pow_succ, pow_succ, mul_assoc, mul_comm (2 ^ j), ← Nat.div_div_eq_div_mul]; congr 1; omega
    simp [natBit, this]
  have e : mu.toNat * 128 + mo.toNat * 64 + bi.toNat * 32 + iw.toNat * 16 + nv.toNat = 4 * (mu.toNat * 32 + mo.toNat * 16 + bi.toNat * 8 + iw.toNat * 4) + nv.toNat := by ring
  have h7 : BitVec.ofNat 2 (4 * (mu.toNat * 32 + mo.toNat * 16 + bi.toNat * 8 + iw.toNat * 4) + nv.toNat) = nv := BitVec.ofNat_low _ _ (by omega)
  simp only [MForm.ofRaw, MForm.toRaw, e, h1, h2, h3, h4, h5, h6, h7, flags 7 (by omega), flags 6 (by omega), flags 5 (by omega), flags 4 (by omega), flags 3 (by omega), flags 2 (by omega),
    Scope.ofNat_code, Order.ofNat_code, Spec.ofNat_toNat, Guard.ofNat_toNat, BitVec.ofNat_toNat, BitVec.setWidth_eq]
  cases mu <;> cases mo <;> cases bi <;> cases iw <;> simp [natBit]

theorem KForm.ofRaw_toRaw (f : KForm) (o s : Nat) : KForm.ofRaw (f.toRaw o s) = some f := by
  rcases f with ⟨grd, a, b, c, imm, mo, opx, rsd, rss, tli⟩
  have := opx.isLt; have := rsd.isLt; have := rss.isLt; have := tli.isLt
  have h1 : BitVec.ofNat 3 ((rsd.toNat * 8192 + rss.toNat * 1024 + tli.toNat * 128) / 8192) = rsd := BitVec.ofNat_field _ _ _ (by omega)
  have h2 : BitVec.ofNat 3 ((rsd.toNat * 8192 + rss.toNat * 1024 + tli.toNat * 128) / 1024) = rss := BitVec.ofNat_field _ _ _ (by omega)
  have h3 : BitVec.ofNat 3 ((rsd.toNat * 8192 + rss.toNat * 1024 + tli.toNat * 128) / 128) = tli := BitVec.ofNat_field _ _ _ (by omega)
  have h4 : (rsd.toNat * 8192 + rss.toNat * 1024 + tli.toNat * 128) % 128 = 0 := by omega
  have h5 : BitVec.ofNat 5 (mo.toNat * 64 + opx.toNat) = opx := BitVec.ofNat_low _ _ (by cases mo <;> simp <;> omega)
  have h6 : natBit (mo.toNat * 64 + opx.toNat) 6 = mo := natBit_eq _ _ _ (by cases mo <;> simp <;> omega)
  have h7 : natBit (mo.toNat * 64 + opx.toNat) 7 = false := natBit_eq _ _ _ (by cases mo <;> simp <;> omega)
  have h8 : natBit (mo.toNat * 64 + opx.toNat) 5 = false := natBit_eq _ _ _ (by cases mo <;> simp <;> omega)
  simp [KForm.ofRaw, KForm.toRaw, h1, h2, h3, h4, h5, h6, h7, h8, Spec.ofNat_toNat, Guard.ofNat_toNat]

theorem XForm.ofRaw_toRaw (f : XForm) (o s : Nat) : XForm.ofRaw (f.toRaw o s) = some f := by
  rcases f with ⟨look, grd, cls, dst, a, b, c, imm, mo, x20, ta, tb⟩
  have := ta.isLt; have := tb.isLt
  have h1 : BitVec.ofNat 4 ((ta.toNat * 4096 + tb.toNat * 256) / 4096) = ta := BitVec.ofNat_field _ _ _ (by omega)
  have h2 : BitVec.ofNat 4 ((ta.toNat * 4096 + tb.toNat * 256) / 256) = tb := BitVec.ofNat_field _ _ _ (by omega)
  have h3 : (ta.toNat * 4096 + tb.toNat * 256) % 256 = 0 := by omega
  simp only [XForm.ofRaw, XForm.toRaw, h1, h2, h3, Spec.ofNat_toNat, Guard.ofNat_toNat, BitVec.ofNat_toNat, BitVec.setWidth_eq]
  cases mo <;> cases x20 <;> simp [natBit]

theorem SForm.ofRaw_toRaw (f : SForm) (o s : Nat) : SForm.ofRaw (f.toRaw o s) = some f := by
  rcases f with ⟨look, grd, dst, a, b, c, imm, scope, order, mo, bi, opd⟩
  have := scope.code_lt; have := order.code_lt
  have h5 : (scope.code * 8 + order.code) / 8 % 8 = scope.code := by omega
  have h6 : (scope.code * 8 + order.code) % 8 = order.code := by omega
  simp only [SForm.ofRaw, SForm.toRaw, h5, h6, Scope.ofNat_code, Order.ofNat_code, Spec.ofNat_toNat, Guard.ofNat_toNat, BitVec.ofNat_toNat, BitVec.setWidth_eq]
  cases mo <;> cases bi <;> simp [natBit]

/-! decodeRaw. -/

/-- A row's form that reads as a well-formed instruction is what the fields decode to. -/
theorem decodeRaw_of_row {r : Raw} {i : Instr} (sh : Shape) (h0 : r.opc ≠ 0xF0) (h1 : r.opc ≠ 0xF1) (hf : findRow r.opc r.sub opcodeRows = some sh) (hr : sh.read r = some i)
    (hw : i.wf = true) : decodeRaw r = .ok i := by
  simp [decodeRaw, h0, h1, hf, hr, hw]

/-- A class A row's form decodes to its constructor. -/
theorem decodeRaw_A {mk : AForm → Instr} {f : AForm} {o n : Nat} (h0 : o ≠ 0xF0) (h1 : o ≠ 0xF1) (hf : findRow o n opcodeRows = some (.A mk)) (hw : (mk f).wf = true) :
    decodeRaw (f.toRaw o n) = .ok (mk f) :=
  decodeRaw_of_row (.A mk) h0 h1 hf (congrArg (Option.map mk) (AForm.ofRaw_toRaw f o n)) hw

/-- A class B row's form decodes to its constructor. -/
theorem decodeRaw_B {mk : BForm → Instr} {f : BForm} {o n : Nat} (h0 : o ≠ 0xF0) (h1 : o ≠ 0xF1) (hf : findRow o n opcodeRows = some (.B mk)) (hw : (mk f).wf = true) :
    decodeRaw (f.toRaw o n) = .ok (mk f) :=
  decodeRaw_of_row (.B mk) h0 h1 hf (congrArg (Option.map mk) (BForm.ofRaw_toRaw f o n)) hw

/-- A class M row's form decodes to its constructor. -/
theorem decodeRaw_M {mk : MForm → Instr} {f : MForm} {o n : Nat} (h0 : o ≠ 0xF0) (h1 : o ≠ 0xF1) (hf : findRow o n opcodeRows = some (.M mk)) (hw : (mk f).wf = true) :
    decodeRaw (f.toRaw o n) = .ok (mk f) :=
  decodeRaw_of_row (.M mk) h0 h1 hf (congrArg (Option.map mk) (MForm.ofRaw_toRaw f o n)) hw

/-- A class K row's form decodes to its constructor. -/
theorem decodeRaw_K {mk : KForm → Instr} {f : KForm} {o n : Nat} (h0 : o ≠ 0xF0) (h1 : o ≠ 0xF1) (hf : findRow o n opcodeRows = some (.K mk)) (hw : (mk f).wf = true) :
    decodeRaw (f.toRaw o n) = .ok (mk f) :=
  decodeRaw_of_row (.K mk) h0 h1 hf (congrArg (Option.map mk) (KForm.ofRaw_toRaw f o n)) hw

/-- A class X row's form decodes to its constructor. -/
theorem decodeRaw_X {mk : XForm → Instr} {f : XForm} {o n : Nat} (h0 : o ≠ 0xF0) (h1 : o ≠ 0xF1) (hf : findRow o n opcodeRows = some (.X mk)) (hw : (mk f).wf = true) :
    decodeRaw (f.toRaw o n) = .ok (mk f) :=
  decodeRaw_of_row (.X mk) h0 h1 hf (congrArg (Option.map mk) (XForm.ofRaw_toRaw f o n)) hw

/-- A class S row's form decodes to its constructor. -/
theorem decodeRaw_S {mk : SForm → Instr} {f : SForm} {o n : Nat} (h0 : o ≠ 0xF0) (h1 : o ≠ 0xF1) (hf : findRow o n opcodeRows = some (.S mk)) (hw : (mk f).wf = true) :
    decodeRaw (f.toRaw o n) = .ok (mk f) :=
  decodeRaw_of_row (.S mk) h0 h1 hf (congrArg (Option.map mk) (SForm.ofRaw_toRaw f o n)) hw

theorem decodeRaw_of_cl {r : Raw} {i : Instr} (h0 : r.opc = 0xF0) (hr : pfxClOfRaw r = some i) (hw : i.wf = true) : decodeRaw r = .ok i := by
  simp [decodeRaw, h0, hr, hw]

theorem decodeRaw_of_rg {r : Raw} {i : Instr} (h1 : r.opc = 0xF1) (hr : pfxRgOfRaw r = some i) (hw : i.wf = true) : decodeRaw r = .ok i := by
  simp [decodeRaw, h1, hr, hw]

theorem decodeRaw_pfxCl {ca cb cc : BitVec 6} {r : Raw} (h : (Instr.pfxCl ca cb cc).toRaw = some r) : decodeRaw r = .ok (.pfxCl ca cb cc) := by
  simp only [Instr.toRaw, Option.some.injEq] at h
  subst h
  have := ca.isLt; have := cb.isLt; have := cc.isLt
  refine decodeRaw_of_cl rfl ?_ rfl
  simp only [pfxClOfRaw, BitVec.ofNat_toNat, BitVec.setWidth_eq]
  rw [if_pos]
  simp only [Raw.mk.injEq, true_and, and_true]
  omega

theorem decodeRaw_pfxRg {a : Spec} {r : Raw} (h : (Instr.pfxRg a).toRaw = some r) (hw : (Instr.pfxRg a).wf = true) : decodeRaw r = .ok (.pfxRg a) := by
  simp only [Instr.toRaw, Option.some.injEq] at h
  subst h
  exact decodeRaw_of_rg rfl (by simp [pfxRgOfRaw, Spec.ofNat_toNat]) hw

end Sys2Proof
end

