-- ==== Sys2Proof/Laws/State.lean ====
section
/-! SUPPORT. Each update of one unit of the state: the fields it leaves as they were, one lemma a field, and what each unit reads as after it. -/

namespace Sys2Proof.Machine

open Sys2Proof

variable (s : State)

/-! modTeam. -/

@[simp] theorem State.modTeam_agenda (k : Nat) (f : Team → Team) : (s.modTeam k f).agenda = s.agenda := rfl
@[simp] theorem State.modTeam_turn (k : Nat) (f : Team → Team) : (s.modTeam k f).turn = s.turn := rfl
@[simp] theorem State.modTeam_tick (k : Nat) (f : Team → Team) : (s.modTeam k f).tick = s.tick := rfl
@[simp] theorem State.modTeam_cyc (k : Nat) (f : Team → Team) : (s.modTeam k f).cyc = s.cyc := rfl
@[simp] theorem State.modTeam_ns (k : Nat) (f : Team → Team) : (s.modTeam k f).ns = s.ns := rfl
@[simp] theorem State.modTeam_free (k : Nat) (f : Team → Team) : (s.modTeam k f).free = s.free := rfl
@[simp] theorem State.modTeam_cur (k : Nat) (f : Team → Team) : (s.modTeam k f).cur = s.cur := rfl
@[simp] theorem State.modTeam_mem (k : Nat) (f : Team → Team) : (s.modTeam k f).mem = s.mem := rfl
@[simp] theorem State.modTeam_gallery (k : Nat) (f : Team → Team) : (s.modTeam k f).gallery = s.gallery := rfl
@[simp] theorem State.modTeam_poison (k : Nat) (f : Team → Team) : (s.modTeam k f).poison = s.poison := rfl
@[simp] theorem State.modTeam_pend (k : Nat) (f : Team → Team) : (s.modTeam k f).pend = s.pend := rfl
@[simp] theorem State.modTeam_tags (k : Nat) (f : Team → Team) : (s.modTeam k f).tags = s.tags := rfl
@[simp] theorem State.modTeam_tlb (k : Nat) (f : Team → Team) : (s.modTeam k f).tlb = s.tlb := rfl
@[simp] theorem State.modTeam_nextPage (k : Nat) (f : Team → Team) : (s.modTeam k f).nextPage = s.nextPage := rfl
@[simp] theorem State.modTeam_nextTeam (k : Nat) (f : Team → Team) : (s.modTeam k f).nextTeam = s.nextTeam := rfl
@[simp] theorem State.modTeam_handlerBank (k : Nat) (f : Team → Team) : (s.modTeam k f).handlerBank = s.handlerBank := rfl
@[simp] theorem State.modTeam_lastIssue (k : Nat) (f : Team → Team) : (s.modTeam k f).lastIssue = s.lastIssue := rfl
@[simp] theorem State.modTeam_slotCyc (k : Nat) (f : Team → Team) : (s.modTeam k f).slotCyc = s.slotCyc := rfl
@[simp] theorem State.modTeam_rills (k : Nat) (f : Team → Team) : (s.modTeam k f).rills = s.rills := rfl
@[simp] theorem State.modTeam_engines (k : Nat) (f : Team → Team) : (s.modTeam k f).engines = s.engines := rfl
@[simp] theorem State.modTeam_tasks (k : Nat) (f : Team → Team) : (s.modTeam k f).tasks = s.tasks := rfl
@[simp] theorem State.modTeam_nextOrder (k : Nat) (f : Team → Team) : (s.modTeam k f).nextOrder = s.nextOrder := rfl
@[simp] theorem State.modTeam_opps (k : Nat) (f : Team → Team) : (s.modTeam k f).opps = s.opps := rfl
@[simp] theorem State.modTeam_vdevs (k : Nat) (f : Team → Team) : (s.modTeam k f).vdevs = s.vdevs := rfl
@[simp] theorem State.modTeam_parts (k : Nat) (f : Team → Team) : (s.modTeam k f).parts = s.parts := rfl
@[simp] theorem State.modTeam_dies (k : Nat) (f : Team → Team) : (s.modTeam k f).dies = s.dies := rfl
@[simp] theorem State.modTeam_stks (k : Nat) (f : Team → Team) : (s.modTeam k f).stks = s.stks := rfl
@[simp] theorem State.modTeam_rpoints (k : Nat) (f : Team → Team) : (s.modTeam k f).rpoints = s.rpoints := rfl
@[simp] theorem State.modTeam_conss (k : Nat) (f : Team → Team) : (s.modTeam k f).conss = s.conss := rfl
@[simp] theorem State.modTeam_csize (k : Nat) (f : Team → Team) : (s.modTeam k f).csize = s.csize := rfl
@[simp] theorem State.modTeam_clock (k : Nat) (f : Team → Team) : (s.modTeam k f).clock = s.clock := rfl
@[simp] theorem State.modTeam_stepAbt (k : Nat) (f : Team → Team) : (s.modTeam k f).stepAbt = s.stepAbt := rfl
@[simp] theorem State.modTeam_preq (k : Nat) (f : Team → Team) : (s.modTeam k f).preq = s.preq := rfl
@[simp] theorem State.modTeam_swtick (k : Nat) (f : Team → Team) : (s.modTeam k f).swtick = s.swtick := rfl
@[simp] theorem State.modTeam_nextTick (k : Nat) (f : Team → Team) : (s.modTeam k f).nextTick = s.nextTick := rfl
@[simp] theorem State.modTeam_nextEval (k : Nat) (f : Team → Team) : (s.modTeam k f).nextEval = s.nextEval := rfl
@[simp] theorem State.modTeam_qctl (k : Nat) (f : Team → Team) : (s.modTeam k f).qctl = s.qctl := rfl
@[simp] theorem State.modTeam_qaddr (k : Nat) (f : Team → Team) : (s.modTeam k f).qaddr = s.qaddr := rfl
@[simp] theorem State.modTeam_qsize (k : Nat) (f : Team → Team) : (s.modTeam k f).qsize = s.qsize := rfl
@[simp] theorem State.modTeam_hdm (k : Nat) (f : Team → Team) : (s.modTeam k f).hdm = s.hdm := rfl
@[simp] theorem State.modTeam_hostLines (k : Nat) (f : Team → Team) : (s.modTeam k f).hostLines = s.hostLines := rfl
@[simp] theorem State.modTeam_cxl (k : Nat) (f : Team → Team) : (s.modTeam k f).cxl = s.cxl := rfl
@[simp] theorem State.modTeam_cxlNext (k : Nat) (f : Team → Team) : (s.modTeam k f).cxlNext = s.cxlNext := rfl
@[simp] theorem State.modTeam_snoops (k : Nat) (f : Team → Team) : (s.modTeam k f).snoops = s.snoops := rfl
@[simp] theorem State.modTeam_hostReads (k : Nat) (f : Team → Team) : (s.modTeam k f).hostReads = s.hostReads := rfl
@[simp] theorem State.modTeam_msix (k : Nat) (f : Team → Team) : (s.modTeam k f).msix = s.msix := rfl
@[simp] theorem State.modTeam_links (k : Nat) (f : Team → Team) : (s.modTeam k f).links = s.links := rfl
@[simp] theorem State.modTeam_reqs (k : Nat) (f : Team → Team) : (s.modTeam k f).reqs = s.reqs := rfl
@[simp] theorem State.modTeam_answers (k : Nat) (f : Team → Team) : (s.modTeam k f).answers = s.answers := rfl
@[simp] theorem State.modTeam_rhwnode (k : Nat) (f : Team → Team) : (s.modTeam k f).rhwnode = s.rhwnode := rfl
@[simp] theorem State.modTeam_power (k : Nat) (f : Team → Team) : (s.modTeam k f).power = s.power := rfl
@[simp] theorem State.modTeam_bootstat (k : Nat) (f : Team → Team) : (s.modTeam k f).bootstat = s.bootstat := rfl
@[simp] theorem State.modTeam_identity (k : Nat) (f : Team → Team) : (s.modTeam k f).identity = s.identity := rfl
@[simp] theorem State.modTeam_flash (k : Nat) (f : Team → Team) : (s.modTeam k f).flash = s.flash := rfl
@[simp] theorem State.modTeam_reflash (k : Nat) (f : Team → Team) : (s.modTeam k f).reflash = s.reflash := rfl
@[simp] theorem State.modTeam_powerLost (k : Nat) (f : Team → Team) : (s.modTeam k f).powerLost = s.powerLost := rfl

/-! modRill. -/

@[simp] theorem State.modRill_agenda (k : Nat) (f : Rill → Rill) : (s.modRill k f).agenda = s.agenda := rfl
@[simp] theorem State.modRill_turn (k : Nat) (f : Rill → Rill) : (s.modRill k f).turn = s.turn := rfl
@[simp] theorem State.modRill_tick (k : Nat) (f : Rill → Rill) : (s.modRill k f).tick = s.tick := rfl
@[simp] theorem State.modRill_cyc (k : Nat) (f : Rill → Rill) : (s.modRill k f).cyc = s.cyc := rfl
@[simp] theorem State.modRill_ns (k : Nat) (f : Rill → Rill) : (s.modRill k f).ns = s.ns := rfl
@[simp] theorem State.modRill_free (k : Nat) (f : Rill → Rill) : (s.modRill k f).free = s.free := rfl
@[simp] theorem State.modRill_cur (k : Nat) (f : Rill → Rill) : (s.modRill k f).cur = s.cur := rfl
@[simp] theorem State.modRill_mem (k : Nat) (f : Rill → Rill) : (s.modRill k f).mem = s.mem := rfl
@[simp] theorem State.modRill_gallery (k : Nat) (f : Rill → Rill) : (s.modRill k f).gallery = s.gallery := rfl
@[simp] theorem State.modRill_poison (k : Nat) (f : Rill → Rill) : (s.modRill k f).poison = s.poison := rfl
@[simp] theorem State.modRill_pend (k : Nat) (f : Rill → Rill) : (s.modRill k f).pend = s.pend := rfl
@[simp] theorem State.modRill_tags (k : Nat) (f : Rill → Rill) : (s.modRill k f).tags = s.tags := rfl
@[simp] theorem State.modRill_tlb (k : Nat) (f : Rill → Rill) : (s.modRill k f).tlb = s.tlb := rfl
@[simp] theorem State.modRill_nextPage (k : Nat) (f : Rill → Rill) : (s.modRill k f).nextPage = s.nextPage := rfl
@[simp] theorem State.modRill_teams (k : Nat) (f : Rill → Rill) : (s.modRill k f).teams = s.teams := rfl
@[simp] theorem State.modRill_nextTeam (k : Nat) (f : Rill → Rill) : (s.modRill k f).nextTeam = s.nextTeam := rfl
@[simp] theorem State.modRill_handlerBank (k : Nat) (f : Rill → Rill) : (s.modRill k f).handlerBank = s.handlerBank := rfl
@[simp] theorem State.modRill_lastIssue (k : Nat) (f : Rill → Rill) : (s.modRill k f).lastIssue = s.lastIssue := rfl
@[simp] theorem State.modRill_slotCyc (k : Nat) (f : Rill → Rill) : (s.modRill k f).slotCyc = s.slotCyc := rfl
@[simp] theorem State.modRill_engines (k : Nat) (f : Rill → Rill) : (s.modRill k f).engines = s.engines := rfl
@[simp] theorem State.modRill_tasks (k : Nat) (f : Rill → Rill) : (s.modRill k f).tasks = s.tasks := rfl
@[simp] theorem State.modRill_nextOrder (k : Nat) (f : Rill → Rill) : (s.modRill k f).nextOrder = s.nextOrder := rfl
@[simp] theorem State.modRill_opps (k : Nat) (f : Rill → Rill) : (s.modRill k f).opps = s.opps := rfl
@[simp] theorem State.modRill_vdevs (k : Nat) (f : Rill → Rill) : (s.modRill k f).vdevs = s.vdevs := rfl
@[simp] theorem State.modRill_parts (k : Nat) (f : Rill → Rill) : (s.modRill k f).parts = s.parts := rfl
@[simp] theorem State.modRill_dies (k : Nat) (f : Rill → Rill) : (s.modRill k f).dies = s.dies := rfl
@[simp] theorem State.modRill_stks (k : Nat) (f : Rill → Rill) : (s.modRill k f).stks = s.stks := rfl
@[simp] theorem State.modRill_rpoints (k : Nat) (f : Rill → Rill) : (s.modRill k f).rpoints = s.rpoints := rfl
@[simp] theorem State.modRill_conss (k : Nat) (f : Rill → Rill) : (s.modRill k f).conss = s.conss := rfl
@[simp] theorem State.modRill_csize (k : Nat) (f : Rill → Rill) : (s.modRill k f).csize = s.csize := rfl
@[simp] theorem State.modRill_clock (k : Nat) (f : Rill → Rill) : (s.modRill k f).clock = s.clock := rfl
@[simp] theorem State.modRill_stepAbt (k : Nat) (f : Rill → Rill) : (s.modRill k f).stepAbt = s.stepAbt := rfl
@[simp] theorem State.modRill_preq (k : Nat) (f : Rill → Rill) : (s.modRill k f).preq = s.preq := rfl
@[simp] theorem State.modRill_swtick (k : Nat) (f : Rill → Rill) : (s.modRill k f).swtick = s.swtick := rfl
@[simp] theorem State.modRill_nextTick (k : Nat) (f : Rill → Rill) : (s.modRill k f).nextTick = s.nextTick := rfl
@[simp] theorem State.modRill_nextEval (k : Nat) (f : Rill → Rill) : (s.modRill k f).nextEval = s.nextEval := rfl
@[simp] theorem State.modRill_qctl (k : Nat) (f : Rill → Rill) : (s.modRill k f).qctl = s.qctl := rfl
@[simp] theorem State.modRill_qaddr (k : Nat) (f : Rill → Rill) : (s.modRill k f).qaddr = s.qaddr := rfl
@[simp] theorem State.modRill_qsize (k : Nat) (f : Rill → Rill) : (s.modRill k f).qsize = s.qsize := rfl
@[simp] theorem State.modRill_hdm (k : Nat) (f : Rill → Rill) : (s.modRill k f).hdm = s.hdm := rfl
@[simp] theorem State.modRill_hostLines (k : Nat) (f : Rill → Rill) : (s.modRill k f).hostLines = s.hostLines := rfl
@[simp] theorem State.modRill_cxl (k : Nat) (f : Rill → Rill) : (s.modRill k f).cxl = s.cxl := rfl
@[simp] theorem State.modRill_cxlNext (k : Nat) (f : Rill → Rill) : (s.modRill k f).cxlNext = s.cxlNext := rfl
@[simp] theorem State.modRill_snoops (k : Nat) (f : Rill → Rill) : (s.modRill k f).snoops = s.snoops := rfl
@[simp] theorem State.modRill_hostReads (k : Nat) (f : Rill → Rill) : (s.modRill k f).hostReads = s.hostReads := rfl
@[simp] theorem State.modRill_msix (k : Nat) (f : Rill → Rill) : (s.modRill k f).msix = s.msix := rfl
@[simp] theorem State.modRill_links (k : Nat) (f : Rill → Rill) : (s.modRill k f).links = s.links := rfl
@[simp] theorem State.modRill_reqs (k : Nat) (f : Rill → Rill) : (s.modRill k f).reqs = s.reqs := rfl
@[simp] theorem State.modRill_answers (k : Nat) (f : Rill → Rill) : (s.modRill k f).answers = s.answers := rfl
@[simp] theorem State.modRill_rhwnode (k : Nat) (f : Rill → Rill) : (s.modRill k f).rhwnode = s.rhwnode := rfl
@[simp] theorem State.modRill_power (k : Nat) (f : Rill → Rill) : (s.modRill k f).power = s.power := rfl
@[simp] theorem State.modRill_bootstat (k : Nat) (f : Rill → Rill) : (s.modRill k f).bootstat = s.bootstat := rfl
@[simp] theorem State.modRill_identity (k : Nat) (f : Rill → Rill) : (s.modRill k f).identity = s.identity := rfl
@[simp] theorem State.modRill_flash (k : Nat) (f : Rill → Rill) : (s.modRill k f).flash = s.flash := rfl
@[simp] theorem State.modRill_reflash (k : Nat) (f : Rill → Rill) : (s.modRill k f).reflash = s.reflash := rfl
@[simp] theorem State.modRill_powerLost (k : Nat) (f : Rill → Rill) : (s.modRill k f).powerLost = s.powerLost := rfl

/-! modDie. -/

@[simp] theorem State.modDie_agenda (k : Nat) (f : Die → Die) : (s.modDie k f).agenda = s.agenda := rfl
@[simp] theorem State.modDie_turn (k : Nat) (f : Die → Die) : (s.modDie k f).turn = s.turn := rfl
@[simp] theorem State.modDie_tick (k : Nat) (f : Die → Die) : (s.modDie k f).tick = s.tick := rfl
@[simp] theorem State.modDie_cyc (k : Nat) (f : Die → Die) : (s.modDie k f).cyc = s.cyc := rfl
@[simp] theorem State.modDie_ns (k : Nat) (f : Die → Die) : (s.modDie k f).ns = s.ns := rfl
@[simp] theorem State.modDie_free (k : Nat) (f : Die → Die) : (s.modDie k f).free = s.free := rfl
@[simp] theorem State.modDie_cur (k : Nat) (f : Die → Die) : (s.modDie k f).cur = s.cur := rfl
@[simp] theorem State.modDie_mem (k : Nat) (f : Die → Die) : (s.modDie k f).mem = s.mem := rfl
@[simp] theorem State.modDie_gallery (k : Nat) (f : Die → Die) : (s.modDie k f).gallery = s.gallery := rfl
@[simp] theorem State.modDie_poison (k : Nat) (f : Die → Die) : (s.modDie k f).poison = s.poison := rfl
@[simp] theorem State.modDie_pend (k : Nat) (f : Die → Die) : (s.modDie k f).pend = s.pend := rfl
@[simp] theorem State.modDie_tags (k : Nat) (f : Die → Die) : (s.modDie k f).tags = s.tags := rfl
@[simp] theorem State.modDie_tlb (k : Nat) (f : Die → Die) : (s.modDie k f).tlb = s.tlb := rfl
@[simp] theorem State.modDie_nextPage (k : Nat) (f : Die → Die) : (s.modDie k f).nextPage = s.nextPage := rfl
@[simp] theorem State.modDie_teams (k : Nat) (f : Die → Die) : (s.modDie k f).teams = s.teams := rfl
@[simp] theorem State.modDie_nextTeam (k : Nat) (f : Die → Die) : (s.modDie k f).nextTeam = s.nextTeam := rfl
@[simp] theorem State.modDie_handlerBank (k : Nat) (f : Die → Die) : (s.modDie k f).handlerBank = s.handlerBank := rfl
@[simp] theorem State.modDie_lastIssue (k : Nat) (f : Die → Die) : (s.modDie k f).lastIssue = s.lastIssue := rfl
@[simp] theorem State.modDie_slotCyc (k : Nat) (f : Die → Die) : (s.modDie k f).slotCyc = s.slotCyc := rfl
@[simp] theorem State.modDie_rills (k : Nat) (f : Die → Die) : (s.modDie k f).rills = s.rills := rfl
@[simp] theorem State.modDie_engines (k : Nat) (f : Die → Die) : (s.modDie k f).engines = s.engines := rfl
@[simp] theorem State.modDie_tasks (k : Nat) (f : Die → Die) : (s.modDie k f).tasks = s.tasks := rfl
@[simp] theorem State.modDie_nextOrder (k : Nat) (f : Die → Die) : (s.modDie k f).nextOrder = s.nextOrder := rfl
@[simp] theorem State.modDie_opps (k : Nat) (f : Die → Die) : (s.modDie k f).opps = s.opps := rfl
@[simp] theorem State.modDie_vdevs (k : Nat) (f : Die → Die) : (s.modDie k f).vdevs = s.vdevs := rfl
@[simp] theorem State.modDie_parts (k : Nat) (f : Die → Die) : (s.modDie k f).parts = s.parts := rfl
@[simp] theorem State.modDie_stks (k : Nat) (f : Die → Die) : (s.modDie k f).stks = s.stks := rfl
@[simp] theorem State.modDie_rpoints (k : Nat) (f : Die → Die) : (s.modDie k f).rpoints = s.rpoints := rfl
@[simp] theorem State.modDie_conss (k : Nat) (f : Die → Die) : (s.modDie k f).conss = s.conss := rfl
@[simp] theorem State.modDie_csize (k : Nat) (f : Die → Die) : (s.modDie k f).csize = s.csize := rfl
@[simp] theorem State.modDie_clock (k : Nat) (f : Die → Die) : (s.modDie k f).clock = s.clock := rfl
@[simp] theorem State.modDie_stepAbt (k : Nat) (f : Die → Die) : (s.modDie k f).stepAbt = s.stepAbt := rfl
@[simp] theorem State.modDie_preq (k : Nat) (f : Die → Die) : (s.modDie k f).preq = s.preq := rfl
@[simp] theorem State.modDie_swtick (k : Nat) (f : Die → Die) : (s.modDie k f).swtick = s.swtick := rfl
@[simp] theorem State.modDie_nextTick (k : Nat) (f : Die → Die) : (s.modDie k f).nextTick = s.nextTick := rfl
@[simp] theorem State.modDie_nextEval (k : Nat) (f : Die → Die) : (s.modDie k f).nextEval = s.nextEval := rfl
@[simp] theorem State.modDie_qctl (k : Nat) (f : Die → Die) : (s.modDie k f).qctl = s.qctl := rfl
@[simp] theorem State.modDie_qaddr (k : Nat) (f : Die → Die) : (s.modDie k f).qaddr = s.qaddr := rfl
@[simp] theorem State.modDie_qsize (k : Nat) (f : Die → Die) : (s.modDie k f).qsize = s.qsize := rfl
@[simp] theorem State.modDie_hdm (k : Nat) (f : Die → Die) : (s.modDie k f).hdm = s.hdm := rfl
@[simp] theorem State.modDie_hostLines (k : Nat) (f : Die → Die) : (s.modDie k f).hostLines = s.hostLines := rfl
@[simp] theorem State.modDie_cxl (k : Nat) (f : Die → Die) : (s.modDie k f).cxl = s.cxl := rfl
@[simp] theorem State.modDie_cxlNext (k : Nat) (f : Die → Die) : (s.modDie k f).cxlNext = s.cxlNext := rfl
@[simp] theorem State.modDie_snoops (k : Nat) (f : Die → Die) : (s.modDie k f).snoops = s.snoops := rfl
@[simp] theorem State.modDie_hostReads (k : Nat) (f : Die → Die) : (s.modDie k f).hostReads = s.hostReads := rfl
@[simp] theorem State.modDie_msix (k : Nat) (f : Die → Die) : (s.modDie k f).msix = s.msix := rfl
@[simp] theorem State.modDie_links (k : Nat) (f : Die → Die) : (s.modDie k f).links = s.links := rfl
@[simp] theorem State.modDie_reqs (k : Nat) (f : Die → Die) : (s.modDie k f).reqs = s.reqs := rfl
@[simp] theorem State.modDie_answers (k : Nat) (f : Die → Die) : (s.modDie k f).answers = s.answers := rfl
@[simp] theorem State.modDie_rhwnode (k : Nat) (f : Die → Die) : (s.modDie k f).rhwnode = s.rhwnode := rfl
@[simp] theorem State.modDie_power (k : Nat) (f : Die → Die) : (s.modDie k f).power = s.power := rfl
@[simp] theorem State.modDie_bootstat (k : Nat) (f : Die → Die) : (s.modDie k f).bootstat = s.bootstat := rfl
@[simp] theorem State.modDie_identity (k : Nat) (f : Die → Die) : (s.modDie k f).identity = s.identity := rfl
@[simp] theorem State.modDie_flash (k : Nat) (f : Die → Die) : (s.modDie k f).flash = s.flash := rfl
@[simp] theorem State.modDie_reflash (k : Nat) (f : Die → Die) : (s.modDie k f).reflash = s.reflash := rfl
@[simp] theorem State.modDie_powerLost (k : Nat) (f : Die → Die) : (s.modDie k f).powerLost = s.powerLost := rfl

/-! modVdev. -/

@[simp] theorem State.modVdev_agenda (k : Nat) (f : Vdev → Vdev) : (s.modVdev k f).agenda = s.agenda := rfl
@[simp] theorem State.modVdev_turn (k : Nat) (f : Vdev → Vdev) : (s.modVdev k f).turn = s.turn := rfl
@[simp] theorem State.modVdev_tick (k : Nat) (f : Vdev → Vdev) : (s.modVdev k f).tick = s.tick := rfl
@[simp] theorem State.modVdev_cyc (k : Nat) (f : Vdev → Vdev) : (s.modVdev k f).cyc = s.cyc := rfl
@[simp] theorem State.modVdev_ns (k : Nat) (f : Vdev → Vdev) : (s.modVdev k f).ns = s.ns := rfl
@[simp] theorem State.modVdev_free (k : Nat) (f : Vdev → Vdev) : (s.modVdev k f).free = s.free := rfl
@[simp] theorem State.modVdev_cur (k : Nat) (f : Vdev → Vdev) : (s.modVdev k f).cur = s.cur := rfl
@[simp] theorem State.modVdev_mem (k : Nat) (f : Vdev → Vdev) : (s.modVdev k f).mem = s.mem := rfl
@[simp] theorem State.modVdev_gallery (k : Nat) (f : Vdev → Vdev) : (s.modVdev k f).gallery = s.gallery := rfl
@[simp] theorem State.modVdev_poison (k : Nat) (f : Vdev → Vdev) : (s.modVdev k f).poison = s.poison := rfl
@[simp] theorem State.modVdev_pend (k : Nat) (f : Vdev → Vdev) : (s.modVdev k f).pend = s.pend := rfl
@[simp] theorem State.modVdev_tags (k : Nat) (f : Vdev → Vdev) : (s.modVdev k f).tags = s.tags := rfl
@[simp] theorem State.modVdev_tlb (k : Nat) (f : Vdev → Vdev) : (s.modVdev k f).tlb = s.tlb := rfl
@[simp] theorem State.modVdev_nextPage (k : Nat) (f : Vdev → Vdev) : (s.modVdev k f).nextPage = s.nextPage := rfl
@[simp] theorem State.modVdev_teams (k : Nat) (f : Vdev → Vdev) : (s.modVdev k f).teams = s.teams := rfl
@[simp] theorem State.modVdev_nextTeam (k : Nat) (f : Vdev → Vdev) : (s.modVdev k f).nextTeam = s.nextTeam := rfl
@[simp] theorem State.modVdev_handlerBank (k : Nat) (f : Vdev → Vdev) : (s.modVdev k f).handlerBank = s.handlerBank := rfl
@[simp] theorem State.modVdev_lastIssue (k : Nat) (f : Vdev → Vdev) : (s.modVdev k f).lastIssue = s.lastIssue := rfl
@[simp] theorem State.modVdev_slotCyc (k : Nat) (f : Vdev → Vdev) : (s.modVdev k f).slotCyc = s.slotCyc := rfl
@[simp] theorem State.modVdev_rills (k : Nat) (f : Vdev → Vdev) : (s.modVdev k f).rills = s.rills := rfl
@[simp] theorem State.modVdev_engines (k : Nat) (f : Vdev → Vdev) : (s.modVdev k f).engines = s.engines := rfl
@[simp] theorem State.modVdev_tasks (k : Nat) (f : Vdev → Vdev) : (s.modVdev k f).tasks = s.tasks := rfl
@[simp] theorem State.modVdev_nextOrder (k : Nat) (f : Vdev → Vdev) : (s.modVdev k f).nextOrder = s.nextOrder := rfl
@[simp] theorem State.modVdev_opps (k : Nat) (f : Vdev → Vdev) : (s.modVdev k f).opps = s.opps := rfl
@[simp] theorem State.modVdev_parts (k : Nat) (f : Vdev → Vdev) : (s.modVdev k f).parts = s.parts := rfl
@[simp] theorem State.modVdev_dies (k : Nat) (f : Vdev → Vdev) : (s.modVdev k f).dies = s.dies := rfl
@[simp] theorem State.modVdev_stks (k : Nat) (f : Vdev → Vdev) : (s.modVdev k f).stks = s.stks := rfl
@[simp] theorem State.modVdev_rpoints (k : Nat) (f : Vdev → Vdev) : (s.modVdev k f).rpoints = s.rpoints := rfl
@[simp] theorem State.modVdev_conss (k : Nat) (f : Vdev → Vdev) : (s.modVdev k f).conss = s.conss := rfl
@[simp] theorem State.modVdev_csize (k : Nat) (f : Vdev → Vdev) : (s.modVdev k f).csize = s.csize := rfl
@[simp] theorem State.modVdev_clock (k : Nat) (f : Vdev → Vdev) : (s.modVdev k f).clock = s.clock := rfl
@[simp] theorem State.modVdev_stepAbt (k : Nat) (f : Vdev → Vdev) : (s.modVdev k f).stepAbt = s.stepAbt := rfl
@[simp] theorem State.modVdev_preq (k : Nat) (f : Vdev → Vdev) : (s.modVdev k f).preq = s.preq := rfl
@[simp] theorem State.modVdev_swtick (k : Nat) (f : Vdev → Vdev) : (s.modVdev k f).swtick = s.swtick := rfl
@[simp] theorem State.modVdev_nextTick (k : Nat) (f : Vdev → Vdev) : (s.modVdev k f).nextTick = s.nextTick := rfl
@[simp] theorem State.modVdev_nextEval (k : Nat) (f : Vdev → Vdev) : (s.modVdev k f).nextEval = s.nextEval := rfl
@[simp] theorem State.modVdev_qctl (k : Nat) (f : Vdev → Vdev) : (s.modVdev k f).qctl = s.qctl := rfl
@[simp] theorem State.modVdev_qaddr (k : Nat) (f : Vdev → Vdev) : (s.modVdev k f).qaddr = s.qaddr := rfl
@[simp] theorem State.modVdev_qsize (k : Nat) (f : Vdev → Vdev) : (s.modVdev k f).qsize = s.qsize := rfl
@[simp] theorem State.modVdev_hdm (k : Nat) (f : Vdev → Vdev) : (s.modVdev k f).hdm = s.hdm := rfl
@[simp] theorem State.modVdev_hostLines (k : Nat) (f : Vdev → Vdev) : (s.modVdev k f).hostLines = s.hostLines := rfl
@[simp] theorem State.modVdev_cxl (k : Nat) (f : Vdev → Vdev) : (s.modVdev k f).cxl = s.cxl := rfl
@[simp] theorem State.modVdev_cxlNext (k : Nat) (f : Vdev → Vdev) : (s.modVdev k f).cxlNext = s.cxlNext := rfl
@[simp] theorem State.modVdev_snoops (k : Nat) (f : Vdev → Vdev) : (s.modVdev k f).snoops = s.snoops := rfl
@[simp] theorem State.modVdev_hostReads (k : Nat) (f : Vdev → Vdev) : (s.modVdev k f).hostReads = s.hostReads := rfl
@[simp] theorem State.modVdev_msix (k : Nat) (f : Vdev → Vdev) : (s.modVdev k f).msix = s.msix := rfl
@[simp] theorem State.modVdev_links (k : Nat) (f : Vdev → Vdev) : (s.modVdev k f).links = s.links := rfl
@[simp] theorem State.modVdev_reqs (k : Nat) (f : Vdev → Vdev) : (s.modVdev k f).reqs = s.reqs := rfl
@[simp] theorem State.modVdev_answers (k : Nat) (f : Vdev → Vdev) : (s.modVdev k f).answers = s.answers := rfl
@[simp] theorem State.modVdev_rhwnode (k : Nat) (f : Vdev → Vdev) : (s.modVdev k f).rhwnode = s.rhwnode := rfl
@[simp] theorem State.modVdev_power (k : Nat) (f : Vdev → Vdev) : (s.modVdev k f).power = s.power := rfl
@[simp] theorem State.modVdev_bootstat (k : Nat) (f : Vdev → Vdev) : (s.modVdev k f).bootstat = s.bootstat := rfl
@[simp] theorem State.modVdev_identity (k : Nat) (f : Vdev → Vdev) : (s.modVdev k f).identity = s.identity := rfl
@[simp] theorem State.modVdev_flash (k : Nat) (f : Vdev → Vdev) : (s.modVdev k f).flash = s.flash := rfl
@[simp] theorem State.modVdev_reflash (k : Nat) (f : Vdev → Vdev) : (s.modVdev k f).reflash = s.reflash := rfl
@[simp] theorem State.modVdev_powerLost (k : Nat) (f : Vdev → Vdev) : (s.modVdev k f).powerLost = s.powerLost := rfl

/-! modTask. -/

@[simp] theorem State.modTask_agenda (k : Nat) (f : Task → Task) : (s.modTask k f).agenda = s.agenda := rfl
@[simp] theorem State.modTask_turn (k : Nat) (f : Task → Task) : (s.modTask k f).turn = s.turn := rfl
@[simp] theorem State.modTask_tick (k : Nat) (f : Task → Task) : (s.modTask k f).tick = s.tick := rfl
@[simp] theorem State.modTask_cyc (k : Nat) (f : Task → Task) : (s.modTask k f).cyc = s.cyc := rfl
@[simp] theorem State.modTask_ns (k : Nat) (f : Task → Task) : (s.modTask k f).ns = s.ns := rfl
@[simp] theorem State.modTask_free (k : Nat) (f : Task → Task) : (s.modTask k f).free = s.free := rfl
@[simp] theorem State.modTask_cur (k : Nat) (f : Task → Task) : (s.modTask k f).cur = s.cur := rfl
@[simp] theorem State.modTask_mem (k : Nat) (f : Task → Task) : (s.modTask k f).mem = s.mem := rfl
@[simp] theorem State.modTask_gallery (k : Nat) (f : Task → Task) : (s.modTask k f).gallery = s.gallery := rfl
@[simp] theorem State.modTask_poison (k : Nat) (f : Task → Task) : (s.modTask k f).poison = s.poison := rfl
@[simp] theorem State.modTask_pend (k : Nat) (f : Task → Task) : (s.modTask k f).pend = s.pend := rfl
@[simp] theorem State.modTask_tags (k : Nat) (f : Task → Task) : (s.modTask k f).tags = s.tags := rfl
@[simp] theorem State.modTask_tlb (k : Nat) (f : Task → Task) : (s.modTask k f).tlb = s.tlb := rfl
@[simp] theorem State.modTask_nextPage (k : Nat) (f : Task → Task) : (s.modTask k f).nextPage = s.nextPage := rfl
@[simp] theorem State.modTask_teams (k : Nat) (f : Task → Task) : (s.modTask k f).teams = s.teams := rfl
@[simp] theorem State.modTask_nextTeam (k : Nat) (f : Task → Task) : (s.modTask k f).nextTeam = s.nextTeam := rfl
@[simp] theorem State.modTask_handlerBank (k : Nat) (f : Task → Task) : (s.modTask k f).handlerBank = s.handlerBank := rfl
@[simp] theorem State.modTask_lastIssue (k : Nat) (f : Task → Task) : (s.modTask k f).lastIssue = s.lastIssue := rfl
@[simp] theorem State.modTask_slotCyc (k : Nat) (f : Task → Task) : (s.modTask k f).slotCyc = s.slotCyc := rfl
@[simp] theorem State.modTask_rills (k : Nat) (f : Task → Task) : (s.modTask k f).rills = s.rills := rfl
@[simp] theorem State.modTask_engines (k : Nat) (f : Task → Task) : (s.modTask k f).engines = s.engines := rfl
@[simp] theorem State.modTask_nextOrder (k : Nat) (f : Task → Task) : (s.modTask k f).nextOrder = s.nextOrder := rfl
@[simp] theorem State.modTask_opps (k : Nat) (f : Task → Task) : (s.modTask k f).opps = s.opps := rfl
@[simp] theorem State.modTask_vdevs (k : Nat) (f : Task → Task) : (s.modTask k f).vdevs = s.vdevs := rfl
@[simp] theorem State.modTask_parts (k : Nat) (f : Task → Task) : (s.modTask k f).parts = s.parts := rfl
@[simp] theorem State.modTask_dies (k : Nat) (f : Task → Task) : (s.modTask k f).dies = s.dies := rfl
@[simp] theorem State.modTask_stks (k : Nat) (f : Task → Task) : (s.modTask k f).stks = s.stks := rfl
@[simp] theorem State.modTask_rpoints (k : Nat) (f : Task → Task) : (s.modTask k f).rpoints = s.rpoints := rfl
@[simp] theorem State.modTask_conss (k : Nat) (f : Task → Task) : (s.modTask k f).conss = s.conss := rfl
@[simp] theorem State.modTask_csize (k : Nat) (f : Task → Task) : (s.modTask k f).csize = s.csize := rfl
@[simp] theorem State.modTask_clock (k : Nat) (f : Task → Task) : (s.modTask k f).clock = s.clock := rfl
@[simp] theorem State.modTask_stepAbt (k : Nat) (f : Task → Task) : (s.modTask k f).stepAbt = s.stepAbt := rfl
@[simp] theorem State.modTask_preq (k : Nat) (f : Task → Task) : (s.modTask k f).preq = s.preq := rfl
@[simp] theorem State.modTask_swtick (k : Nat) (f : Task → Task) : (s.modTask k f).swtick = s.swtick := rfl
@[simp] theorem State.modTask_nextTick (k : Nat) (f : Task → Task) : (s.modTask k f).nextTick = s.nextTick := rfl
@[simp] theorem State.modTask_nextEval (k : Nat) (f : Task → Task) : (s.modTask k f).nextEval = s.nextEval := rfl
@[simp] theorem State.modTask_qctl (k : Nat) (f : Task → Task) : (s.modTask k f).qctl = s.qctl := rfl
@[simp] theorem State.modTask_qaddr (k : Nat) (f : Task → Task) : (s.modTask k f).qaddr = s.qaddr := rfl
@[simp] theorem State.modTask_qsize (k : Nat) (f : Task → Task) : (s.modTask k f).qsize = s.qsize := rfl
@[simp] theorem State.modTask_hdm (k : Nat) (f : Task → Task) : (s.modTask k f).hdm = s.hdm := rfl
@[simp] theorem State.modTask_hostLines (k : Nat) (f : Task → Task) : (s.modTask k f).hostLines = s.hostLines := rfl
@[simp] theorem State.modTask_cxl (k : Nat) (f : Task → Task) : (s.modTask k f).cxl = s.cxl := rfl
@[simp] theorem State.modTask_cxlNext (k : Nat) (f : Task → Task) : (s.modTask k f).cxlNext = s.cxlNext := rfl
@[simp] theorem State.modTask_snoops (k : Nat) (f : Task → Task) : (s.modTask k f).snoops = s.snoops := rfl
@[simp] theorem State.modTask_hostReads (k : Nat) (f : Task → Task) : (s.modTask k f).hostReads = s.hostReads := rfl
@[simp] theorem State.modTask_msix (k : Nat) (f : Task → Task) : (s.modTask k f).msix = s.msix := rfl
@[simp] theorem State.modTask_links (k : Nat) (f : Task → Task) : (s.modTask k f).links = s.links := rfl
@[simp] theorem State.modTask_reqs (k : Nat) (f : Task → Task) : (s.modTask k f).reqs = s.reqs := rfl
@[simp] theorem State.modTask_answers (k : Nat) (f : Task → Task) : (s.modTask k f).answers = s.answers := rfl
@[simp] theorem State.modTask_rhwnode (k : Nat) (f : Task → Task) : (s.modTask k f).rhwnode = s.rhwnode := rfl
@[simp] theorem State.modTask_power (k : Nat) (f : Task → Task) : (s.modTask k f).power = s.power := rfl
@[simp] theorem State.modTask_bootstat (k : Nat) (f : Task → Task) : (s.modTask k f).bootstat = s.bootstat := rfl
@[simp] theorem State.modTask_identity (k : Nat) (f : Task → Task) : (s.modTask k f).identity = s.identity := rfl
@[simp] theorem State.modTask_flash (k : Nat) (f : Task → Task) : (s.modTask k f).flash = s.flash := rfl
@[simp] theorem State.modTask_reflash (k : Nat) (f : Task → Task) : (s.modTask k f).reflash = s.reflash := rfl
@[simp] theorem State.modTask_powerLost (k : Nat) (f : Task → Task) : (s.modTask k f).powerLost = s.powerLost := rfl

/-! modStk. -/

@[simp] theorem State.modStk_agenda (k : Nat) (f : Stack → Stack) : (s.modStk k f).agenda = s.agenda := rfl
@[simp] theorem State.modStk_turn (k : Nat) (f : Stack → Stack) : (s.modStk k f).turn = s.turn := rfl
@[simp] theorem State.modStk_tick (k : Nat) (f : Stack → Stack) : (s.modStk k f).tick = s.tick := rfl
@[simp] theorem State.modStk_cyc (k : Nat) (f : Stack → Stack) : (s.modStk k f).cyc = s.cyc := rfl
@[simp] theorem State.modStk_ns (k : Nat) (f : Stack → Stack) : (s.modStk k f).ns = s.ns := rfl
@[simp] theorem State.modStk_free (k : Nat) (f : Stack → Stack) : (s.modStk k f).free = s.free := rfl
@[simp] theorem State.modStk_cur (k : Nat) (f : Stack → Stack) : (s.modStk k f).cur = s.cur := rfl
@[simp] theorem State.modStk_mem (k : Nat) (f : Stack → Stack) : (s.modStk k f).mem = s.mem := rfl
@[simp] theorem State.modStk_gallery (k : Nat) (f : Stack → Stack) : (s.modStk k f).gallery = s.gallery := rfl
@[simp] theorem State.modStk_poison (k : Nat) (f : Stack → Stack) : (s.modStk k f).poison = s.poison := rfl
@[simp] theorem State.modStk_pend (k : Nat) (f : Stack → Stack) : (s.modStk k f).pend = s.pend := rfl
@[simp] theorem State.modStk_tags (k : Nat) (f : Stack → Stack) : (s.modStk k f).tags = s.tags := rfl
@[simp] theorem State.modStk_tlb (k : Nat) (f : Stack → Stack) : (s.modStk k f).tlb = s.tlb := rfl
@[simp] theorem State.modStk_nextPage (k : Nat) (f : Stack → Stack) : (s.modStk k f).nextPage = s.nextPage := rfl
@[simp] theorem State.modStk_teams (k : Nat) (f : Stack → Stack) : (s.modStk k f).teams = s.teams := rfl
@[simp] theorem State.modStk_nextTeam (k : Nat) (f : Stack → Stack) : (s.modStk k f).nextTeam = s.nextTeam := rfl
@[simp] theorem State.modStk_handlerBank (k : Nat) (f : Stack → Stack) : (s.modStk k f).handlerBank = s.handlerBank := rfl
@[simp] theorem State.modStk_lastIssue (k : Nat) (f : Stack → Stack) : (s.modStk k f).lastIssue = s.lastIssue := rfl
@[simp] theorem State.modStk_slotCyc (k : Nat) (f : Stack → Stack) : (s.modStk k f).slotCyc = s.slotCyc := rfl
@[simp] theorem State.modStk_rills (k : Nat) (f : Stack → Stack) : (s.modStk k f).rills = s.rills := rfl
@[simp] theorem State.modStk_engines (k : Nat) (f : Stack → Stack) : (s.modStk k f).engines = s.engines := rfl
@[simp] theorem State.modStk_tasks (k : Nat) (f : Stack → Stack) : (s.modStk k f).tasks = s.tasks := rfl
@[simp] theorem State.modStk_nextOrder (k : Nat) (f : Stack → Stack) : (s.modStk k f).nextOrder = s.nextOrder := rfl
@[simp] theorem State.modStk_opps (k : Nat) (f : Stack → Stack) : (s.modStk k f).opps = s.opps := rfl
@[simp] theorem State.modStk_vdevs (k : Nat) (f : Stack → Stack) : (s.modStk k f).vdevs = s.vdevs := rfl
@[simp] theorem State.modStk_parts (k : Nat) (f : Stack → Stack) : (s.modStk k f).parts = s.parts := rfl
@[simp] theorem State.modStk_dies (k : Nat) (f : Stack → Stack) : (s.modStk k f).dies = s.dies := rfl
@[simp] theorem State.modStk_rpoints (k : Nat) (f : Stack → Stack) : (s.modStk k f).rpoints = s.rpoints := rfl
@[simp] theorem State.modStk_conss (k : Nat) (f : Stack → Stack) : (s.modStk k f).conss = s.conss := rfl
@[simp] theorem State.modStk_csize (k : Nat) (f : Stack → Stack) : (s.modStk k f).csize = s.csize := rfl
@[simp] theorem State.modStk_clock (k : Nat) (f : Stack → Stack) : (s.modStk k f).clock = s.clock := rfl
@[simp] theorem State.modStk_stepAbt (k : Nat) (f : Stack → Stack) : (s.modStk k f).stepAbt = s.stepAbt := rfl
@[simp] theorem State.modStk_preq (k : Nat) (f : Stack → Stack) : (s.modStk k f).preq = s.preq := rfl
@[simp] theorem State.modStk_swtick (k : Nat) (f : Stack → Stack) : (s.modStk k f).swtick = s.swtick := rfl
@[simp] theorem State.modStk_nextTick (k : Nat) (f : Stack → Stack) : (s.modStk k f).nextTick = s.nextTick := rfl
@[simp] theorem State.modStk_nextEval (k : Nat) (f : Stack → Stack) : (s.modStk k f).nextEval = s.nextEval := rfl
@[simp] theorem State.modStk_qctl (k : Nat) (f : Stack → Stack) : (s.modStk k f).qctl = s.qctl := rfl
@[simp] theorem State.modStk_qaddr (k : Nat) (f : Stack → Stack) : (s.modStk k f).qaddr = s.qaddr := rfl
@[simp] theorem State.modStk_qsize (k : Nat) (f : Stack → Stack) : (s.modStk k f).qsize = s.qsize := rfl
@[simp] theorem State.modStk_hdm (k : Nat) (f : Stack → Stack) : (s.modStk k f).hdm = s.hdm := rfl
@[simp] theorem State.modStk_hostLines (k : Nat) (f : Stack → Stack) : (s.modStk k f).hostLines = s.hostLines := rfl
@[simp] theorem State.modStk_cxl (k : Nat) (f : Stack → Stack) : (s.modStk k f).cxl = s.cxl := rfl
@[simp] theorem State.modStk_cxlNext (k : Nat) (f : Stack → Stack) : (s.modStk k f).cxlNext = s.cxlNext := rfl
@[simp] theorem State.modStk_snoops (k : Nat) (f : Stack → Stack) : (s.modStk k f).snoops = s.snoops := rfl
@[simp] theorem State.modStk_hostReads (k : Nat) (f : Stack → Stack) : (s.modStk k f).hostReads = s.hostReads := rfl
@[simp] theorem State.modStk_msix (k : Nat) (f : Stack → Stack) : (s.modStk k f).msix = s.msix := rfl
@[simp] theorem State.modStk_links (k : Nat) (f : Stack → Stack) : (s.modStk k f).links = s.links := rfl
@[simp] theorem State.modStk_reqs (k : Nat) (f : Stack → Stack) : (s.modStk k f).reqs = s.reqs := rfl
@[simp] theorem State.modStk_answers (k : Nat) (f : Stack → Stack) : (s.modStk k f).answers = s.answers := rfl
@[simp] theorem State.modStk_rhwnode (k : Nat) (f : Stack → Stack) : (s.modStk k f).rhwnode = s.rhwnode := rfl
@[simp] theorem State.modStk_power (k : Nat) (f : Stack → Stack) : (s.modStk k f).power = s.power := rfl
@[simp] theorem State.modStk_bootstat (k : Nat) (f : Stack → Stack) : (s.modStk k f).bootstat = s.bootstat := rfl
@[simp] theorem State.modStk_identity (k : Nat) (f : Stack → Stack) : (s.modStk k f).identity = s.identity := rfl
@[simp] theorem State.modStk_flash (k : Nat) (f : Stack → Stack) : (s.modStk k f).flash = s.flash := rfl
@[simp] theorem State.modStk_reflash (k : Nat) (f : Stack → Stack) : (s.modStk k f).reflash = s.reflash := rfl
@[simp] theorem State.modStk_powerLost (k : Nat) (f : Stack → Stack) : (s.modStk k f).powerLost = s.powerLost := rfl

/-! modRp. -/

@[simp] theorem State.modRp_agenda (k : Nat) (f : RPoint → RPoint) : (s.modRp k f).agenda = s.agenda := rfl
@[simp] theorem State.modRp_turn (k : Nat) (f : RPoint → RPoint) : (s.modRp k f).turn = s.turn := rfl
@[simp] theorem State.modRp_tick (k : Nat) (f : RPoint → RPoint) : (s.modRp k f).tick = s.tick := rfl
@[simp] theorem State.modRp_cyc (k : Nat) (f : RPoint → RPoint) : (s.modRp k f).cyc = s.cyc := rfl
@[simp] theorem State.modRp_ns (k : Nat) (f : RPoint → RPoint) : (s.modRp k f).ns = s.ns := rfl
@[simp] theorem State.modRp_free (k : Nat) (f : RPoint → RPoint) : (s.modRp k f).free = s.free := rfl
@[simp] theorem State.modRp_cur (k : Nat) (f : RPoint → RPoint) : (s.modRp k f).cur = s.cur := rfl
@[simp] theorem State.modRp_mem (k : Nat) (f : RPoint → RPoint) : (s.modRp k f).mem = s.mem := rfl
@[simp] theorem State.modRp_gallery (k : Nat) (f : RPoint → RPoint) : (s.modRp k f).gallery = s.gallery := rfl
@[simp] theorem State.modRp_poison (k : Nat) (f : RPoint → RPoint) : (s.modRp k f).poison = s.poison := rfl
@[simp] theorem State.modRp_pend (k : Nat) (f : RPoint → RPoint) : (s.modRp k f).pend = s.pend := rfl
@[simp] theorem State.modRp_tags (k : Nat) (f : RPoint → RPoint) : (s.modRp k f).tags = s.tags := rfl
@[simp] theorem State.modRp_tlb (k : Nat) (f : RPoint → RPoint) : (s.modRp k f).tlb = s.tlb := rfl
@[simp] theorem State.modRp_nextPage (k : Nat) (f : RPoint → RPoint) : (s.modRp k f).nextPage = s.nextPage := rfl
@[simp] theorem State.modRp_teams (k : Nat) (f : RPoint → RPoint) : (s.modRp k f).teams = s.teams := rfl
@[simp] theorem State.modRp_nextTeam (k : Nat) (f : RPoint → RPoint) : (s.modRp k f).nextTeam = s.nextTeam := rfl
@[simp] theorem State.modRp_handlerBank (k : Nat) (f : RPoint → RPoint) : (s.modRp k f).handlerBank = s.handlerBank := rfl
@[simp] theorem State.modRp_lastIssue (k : Nat) (f : RPoint → RPoint) : (s.modRp k f).lastIssue = s.lastIssue := rfl
@[simp] theorem State.modRp_slotCyc (k : Nat) (f : RPoint → RPoint) : (s.modRp k f).slotCyc = s.slotCyc := rfl
@[simp] theorem State.modRp_rills (k : Nat) (f : RPoint → RPoint) : (s.modRp k f).rills = s.rills := rfl
@[simp] theorem State.modRp_engines (k : Nat) (f : RPoint → RPoint) : (s.modRp k f).engines = s.engines := rfl
@[simp] theorem State.modRp_tasks (k : Nat) (f : RPoint → RPoint) : (s.modRp k f).tasks = s.tasks := rfl
@[simp] theorem State.modRp_nextOrder (k : Nat) (f : RPoint → RPoint) : (s.modRp k f).nextOrder = s.nextOrder := rfl
@[simp] theorem State.modRp_opps (k : Nat) (f : RPoint → RPoint) : (s.modRp k f).opps = s.opps := rfl
@[simp] theorem State.modRp_vdevs (k : Nat) (f : RPoint → RPoint) : (s.modRp k f).vdevs = s.vdevs := rfl
@[simp] theorem State.modRp_parts (k : Nat) (f : RPoint → RPoint) : (s.modRp k f).parts = s.parts := rfl
@[simp] theorem State.modRp_dies (k : Nat) (f : RPoint → RPoint) : (s.modRp k f).dies = s.dies := rfl
@[simp] theorem State.modRp_stks (k : Nat) (f : RPoint → RPoint) : (s.modRp k f).stks = s.stks := rfl
@[simp] theorem State.modRp_conss (k : Nat) (f : RPoint → RPoint) : (s.modRp k f).conss = s.conss := rfl
@[simp] theorem State.modRp_csize (k : Nat) (f : RPoint → RPoint) : (s.modRp k f).csize = s.csize := rfl
@[simp] theorem State.modRp_clock (k : Nat) (f : RPoint → RPoint) : (s.modRp k f).clock = s.clock := rfl
@[simp] theorem State.modRp_stepAbt (k : Nat) (f : RPoint → RPoint) : (s.modRp k f).stepAbt = s.stepAbt := rfl
@[simp] theorem State.modRp_preq (k : Nat) (f : RPoint → RPoint) : (s.modRp k f).preq = s.preq := rfl
@[simp] theorem State.modRp_swtick (k : Nat) (f : RPoint → RPoint) : (s.modRp k f).swtick = s.swtick := rfl
@[simp] theorem State.modRp_nextTick (k : Nat) (f : RPoint → RPoint) : (s.modRp k f).nextTick = s.nextTick := rfl
@[simp] theorem State.modRp_nextEval (k : Nat) (f : RPoint → RPoint) : (s.modRp k f).nextEval = s.nextEval := rfl
@[simp] theorem State.modRp_qctl (k : Nat) (f : RPoint → RPoint) : (s.modRp k f).qctl = s.qctl := rfl
@[simp] theorem State.modRp_qaddr (k : Nat) (f : RPoint → RPoint) : (s.modRp k f).qaddr = s.qaddr := rfl
@[simp] theorem State.modRp_qsize (k : Nat) (f : RPoint → RPoint) : (s.modRp k f).qsize = s.qsize := rfl
@[simp] theorem State.modRp_hdm (k : Nat) (f : RPoint → RPoint) : (s.modRp k f).hdm = s.hdm := rfl
@[simp] theorem State.modRp_hostLines (k : Nat) (f : RPoint → RPoint) : (s.modRp k f).hostLines = s.hostLines := rfl
@[simp] theorem State.modRp_cxl (k : Nat) (f : RPoint → RPoint) : (s.modRp k f).cxl = s.cxl := rfl
@[simp] theorem State.modRp_cxlNext (k : Nat) (f : RPoint → RPoint) : (s.modRp k f).cxlNext = s.cxlNext := rfl
@[simp] theorem State.modRp_snoops (k : Nat) (f : RPoint → RPoint) : (s.modRp k f).snoops = s.snoops := rfl
@[simp] theorem State.modRp_hostReads (k : Nat) (f : RPoint → RPoint) : (s.modRp k f).hostReads = s.hostReads := rfl
@[simp] theorem State.modRp_msix (k : Nat) (f : RPoint → RPoint) : (s.modRp k f).msix = s.msix := rfl
@[simp] theorem State.modRp_links (k : Nat) (f : RPoint → RPoint) : (s.modRp k f).links = s.links := rfl
@[simp] theorem State.modRp_reqs (k : Nat) (f : RPoint → RPoint) : (s.modRp k f).reqs = s.reqs := rfl
@[simp] theorem State.modRp_answers (k : Nat) (f : RPoint → RPoint) : (s.modRp k f).answers = s.answers := rfl
@[simp] theorem State.modRp_rhwnode (k : Nat) (f : RPoint → RPoint) : (s.modRp k f).rhwnode = s.rhwnode := rfl
@[simp] theorem State.modRp_power (k : Nat) (f : RPoint → RPoint) : (s.modRp k f).power = s.power := rfl
@[simp] theorem State.modRp_bootstat (k : Nat) (f : RPoint → RPoint) : (s.modRp k f).bootstat = s.bootstat := rfl
@[simp] theorem State.modRp_identity (k : Nat) (f : RPoint → RPoint) : (s.modRp k f).identity = s.identity := rfl
@[simp] theorem State.modRp_flash (k : Nat) (f : RPoint → RPoint) : (s.modRp k f).flash = s.flash := rfl
@[simp] theorem State.modRp_reflash (k : Nat) (f : RPoint → RPoint) : (s.modRp k f).reflash = s.reflash := rfl
@[simp] theorem State.modRp_powerLost (k : Nat) (f : RPoint → RPoint) : (s.modRp k f).powerLost = s.powerLost := rfl

/-! modCons. -/

@[simp] theorem State.modCons_agenda (k : Nat) (f : Cons → Cons) : (s.modCons k f).agenda = s.agenda := rfl
@[simp] theorem State.modCons_turn (k : Nat) (f : Cons → Cons) : (s.modCons k f).turn = s.turn := rfl
@[simp] theorem State.modCons_tick (k : Nat) (f : Cons → Cons) : (s.modCons k f).tick = s.tick := rfl
@[simp] theorem State.modCons_cyc (k : Nat) (f : Cons → Cons) : (s.modCons k f).cyc = s.cyc := rfl
@[simp] theorem State.modCons_ns (k : Nat) (f : Cons → Cons) : (s.modCons k f).ns = s.ns := rfl
@[simp] theorem State.modCons_free (k : Nat) (f : Cons → Cons) : (s.modCons k f).free = s.free := rfl
@[simp] theorem State.modCons_cur (k : Nat) (f : Cons → Cons) : (s.modCons k f).cur = s.cur := rfl
@[simp] theorem State.modCons_mem (k : Nat) (f : Cons → Cons) : (s.modCons k f).mem = s.mem := rfl
@[simp] theorem State.modCons_gallery (k : Nat) (f : Cons → Cons) : (s.modCons k f).gallery = s.gallery := rfl
@[simp] theorem State.modCons_poison (k : Nat) (f : Cons → Cons) : (s.modCons k f).poison = s.poison := rfl
@[simp] theorem State.modCons_pend (k : Nat) (f : Cons → Cons) : (s.modCons k f).pend = s.pend := rfl
@[simp] theorem State.modCons_tags (k : Nat) (f : Cons → Cons) : (s.modCons k f).tags = s.tags := rfl
@[simp] theorem State.modCons_tlb (k : Nat) (f : Cons → Cons) : (s.modCons k f).tlb = s.tlb := rfl
@[simp] theorem State.modCons_nextPage (k : Nat) (f : Cons → Cons) : (s.modCons k f).nextPage = s.nextPage := rfl
@[simp] theorem State.modCons_teams (k : Nat) (f : Cons → Cons) : (s.modCons k f).teams = s.teams := rfl
@[simp] theorem State.modCons_nextTeam (k : Nat) (f : Cons → Cons) : (s.modCons k f).nextTeam = s.nextTeam := rfl
@[simp] theorem State.modCons_handlerBank (k : Nat) (f : Cons → Cons) : (s.modCons k f).handlerBank = s.handlerBank := rfl
@[simp] theorem State.modCons_lastIssue (k : Nat) (f : Cons → Cons) : (s.modCons k f).lastIssue = s.lastIssue := rfl
@[simp] theorem State.modCons_slotCyc (k : Nat) (f : Cons → Cons) : (s.modCons k f).slotCyc = s.slotCyc := rfl
@[simp] theorem State.modCons_rills (k : Nat) (f : Cons → Cons) : (s.modCons k f).rills = s.rills := rfl
@[simp] theorem State.modCons_engines (k : Nat) (f : Cons → Cons) : (s.modCons k f).engines = s.engines := rfl
@[simp] theorem State.modCons_tasks (k : Nat) (f : Cons → Cons) : (s.modCons k f).tasks = s.tasks := rfl
@[simp] theorem State.modCons_nextOrder (k : Nat) (f : Cons → Cons) : (s.modCons k f).nextOrder = s.nextOrder := rfl
@[simp] theorem State.modCons_opps (k : Nat) (f : Cons → Cons) : (s.modCons k f).opps = s.opps := rfl
@[simp] theorem State.modCons_vdevs (k : Nat) (f : Cons → Cons) : (s.modCons k f).vdevs = s.vdevs := rfl
@[simp] theorem State.modCons_parts (k : Nat) (f : Cons → Cons) : (s.modCons k f).parts = s.parts := rfl
@[simp] theorem State.modCons_dies (k : Nat) (f : Cons → Cons) : (s.modCons k f).dies = s.dies := rfl
@[simp] theorem State.modCons_stks (k : Nat) (f : Cons → Cons) : (s.modCons k f).stks = s.stks := rfl
@[simp] theorem State.modCons_rpoints (k : Nat) (f : Cons → Cons) : (s.modCons k f).rpoints = s.rpoints := rfl
@[simp] theorem State.modCons_csize (k : Nat) (f : Cons → Cons) : (s.modCons k f).csize = s.csize := rfl
@[simp] theorem State.modCons_clock (k : Nat) (f : Cons → Cons) : (s.modCons k f).clock = s.clock := rfl
@[simp] theorem State.modCons_stepAbt (k : Nat) (f : Cons → Cons) : (s.modCons k f).stepAbt = s.stepAbt := rfl
@[simp] theorem State.modCons_preq (k : Nat) (f : Cons → Cons) : (s.modCons k f).preq = s.preq := rfl
@[simp] theorem State.modCons_swtick (k : Nat) (f : Cons → Cons) : (s.modCons k f).swtick = s.swtick := rfl
@[simp] theorem State.modCons_nextTick (k : Nat) (f : Cons → Cons) : (s.modCons k f).nextTick = s.nextTick := rfl
@[simp] theorem State.modCons_nextEval (k : Nat) (f : Cons → Cons) : (s.modCons k f).nextEval = s.nextEval := rfl
@[simp] theorem State.modCons_qctl (k : Nat) (f : Cons → Cons) : (s.modCons k f).qctl = s.qctl := rfl
@[simp] theorem State.modCons_qaddr (k : Nat) (f : Cons → Cons) : (s.modCons k f).qaddr = s.qaddr := rfl
@[simp] theorem State.modCons_qsize (k : Nat) (f : Cons → Cons) : (s.modCons k f).qsize = s.qsize := rfl
@[simp] theorem State.modCons_hdm (k : Nat) (f : Cons → Cons) : (s.modCons k f).hdm = s.hdm := rfl
@[simp] theorem State.modCons_hostLines (k : Nat) (f : Cons → Cons) : (s.modCons k f).hostLines = s.hostLines := rfl
@[simp] theorem State.modCons_cxl (k : Nat) (f : Cons → Cons) : (s.modCons k f).cxl = s.cxl := rfl
@[simp] theorem State.modCons_cxlNext (k : Nat) (f : Cons → Cons) : (s.modCons k f).cxlNext = s.cxlNext := rfl
@[simp] theorem State.modCons_snoops (k : Nat) (f : Cons → Cons) : (s.modCons k f).snoops = s.snoops := rfl
@[simp] theorem State.modCons_hostReads (k : Nat) (f : Cons → Cons) : (s.modCons k f).hostReads = s.hostReads := rfl
@[simp] theorem State.modCons_msix (k : Nat) (f : Cons → Cons) : (s.modCons k f).msix = s.msix := rfl
@[simp] theorem State.modCons_links (k : Nat) (f : Cons → Cons) : (s.modCons k f).links = s.links := rfl
@[simp] theorem State.modCons_reqs (k : Nat) (f : Cons → Cons) : (s.modCons k f).reqs = s.reqs := rfl
@[simp] theorem State.modCons_answers (k : Nat) (f : Cons → Cons) : (s.modCons k f).answers = s.answers := rfl
@[simp] theorem State.modCons_rhwnode (k : Nat) (f : Cons → Cons) : (s.modCons k f).rhwnode = s.rhwnode := rfl
@[simp] theorem State.modCons_power (k : Nat) (f : Cons → Cons) : (s.modCons k f).power = s.power := rfl
@[simp] theorem State.modCons_bootstat (k : Nat) (f : Cons → Cons) : (s.modCons k f).bootstat = s.bootstat := rfl
@[simp] theorem State.modCons_identity (k : Nat) (f : Cons → Cons) : (s.modCons k f).identity = s.identity := rfl
@[simp] theorem State.modCons_flash (k : Nat) (f : Cons → Cons) : (s.modCons k f).flash = s.flash := rfl
@[simp] theorem State.modCons_reflash (k : Nat) (f : Cons → Cons) : (s.modCons k f).reflash = s.reflash := rfl
@[simp] theorem State.modCons_powerLost (k : Nat) (f : Cons → Cons) : (s.modCons k f).powerLost = s.powerLost := rfl

/-! modEngine. -/

@[simp] theorem State.modEngine_agenda (k : Nat) (f : Engine → Engine) : (s.modEngine k f).agenda = s.agenda := rfl
@[simp] theorem State.modEngine_turn (k : Nat) (f : Engine → Engine) : (s.modEngine k f).turn = s.turn := rfl
@[simp] theorem State.modEngine_tick (k : Nat) (f : Engine → Engine) : (s.modEngine k f).tick = s.tick := rfl
@[simp] theorem State.modEngine_cyc (k : Nat) (f : Engine → Engine) : (s.modEngine k f).cyc = s.cyc := rfl
@[simp] theorem State.modEngine_ns (k : Nat) (f : Engine → Engine) : (s.modEngine k f).ns = s.ns := rfl
@[simp] theorem State.modEngine_free (k : Nat) (f : Engine → Engine) : (s.modEngine k f).free = s.free := rfl
@[simp] theorem State.modEngine_cur (k : Nat) (f : Engine → Engine) : (s.modEngine k f).cur = s.cur := rfl
@[simp] theorem State.modEngine_mem (k : Nat) (f : Engine → Engine) : (s.modEngine k f).mem = s.mem := rfl
@[simp] theorem State.modEngine_gallery (k : Nat) (f : Engine → Engine) : (s.modEngine k f).gallery = s.gallery := rfl
@[simp] theorem State.modEngine_poison (k : Nat) (f : Engine → Engine) : (s.modEngine k f).poison = s.poison := rfl
@[simp] theorem State.modEngine_pend (k : Nat) (f : Engine → Engine) : (s.modEngine k f).pend = s.pend := rfl
@[simp] theorem State.modEngine_tags (k : Nat) (f : Engine → Engine) : (s.modEngine k f).tags = s.tags := rfl
@[simp] theorem State.modEngine_tlb (k : Nat) (f : Engine → Engine) : (s.modEngine k f).tlb = s.tlb := rfl
@[simp] theorem State.modEngine_nextPage (k : Nat) (f : Engine → Engine) : (s.modEngine k f).nextPage = s.nextPage := rfl
@[simp] theorem State.modEngine_teams (k : Nat) (f : Engine → Engine) : (s.modEngine k f).teams = s.teams := rfl
@[simp] theorem State.modEngine_nextTeam (k : Nat) (f : Engine → Engine) : (s.modEngine k f).nextTeam = s.nextTeam := rfl
@[simp] theorem State.modEngine_handlerBank (k : Nat) (f : Engine → Engine) : (s.modEngine k f).handlerBank = s.handlerBank := rfl
@[simp] theorem State.modEngine_lastIssue (k : Nat) (f : Engine → Engine) : (s.modEngine k f).lastIssue = s.lastIssue := rfl
@[simp] theorem State.modEngine_slotCyc (k : Nat) (f : Engine → Engine) : (s.modEngine k f).slotCyc = s.slotCyc := rfl
@[simp] theorem State.modEngine_rills (k : Nat) (f : Engine → Engine) : (s.modEngine k f).rills = s.rills := rfl
@[simp] theorem State.modEngine_tasks (k : Nat) (f : Engine → Engine) : (s.modEngine k f).tasks = s.tasks := rfl
@[simp] theorem State.modEngine_nextOrder (k : Nat) (f : Engine → Engine) : (s.modEngine k f).nextOrder = s.nextOrder := rfl
@[simp] theorem State.modEngine_opps (k : Nat) (f : Engine → Engine) : (s.modEngine k f).opps = s.opps := rfl
@[simp] theorem State.modEngine_vdevs (k : Nat) (f : Engine → Engine) : (s.modEngine k f).vdevs = s.vdevs := rfl
@[simp] theorem State.modEngine_parts (k : Nat) (f : Engine → Engine) : (s.modEngine k f).parts = s.parts := rfl
@[simp] theorem State.modEngine_dies (k : Nat) (f : Engine → Engine) : (s.modEngine k f).dies = s.dies := rfl
@[simp] theorem State.modEngine_stks (k : Nat) (f : Engine → Engine) : (s.modEngine k f).stks = s.stks := rfl
@[simp] theorem State.modEngine_rpoints (k : Nat) (f : Engine → Engine) : (s.modEngine k f).rpoints = s.rpoints := rfl
@[simp] theorem State.modEngine_conss (k : Nat) (f : Engine → Engine) : (s.modEngine k f).conss = s.conss := rfl
@[simp] theorem State.modEngine_csize (k : Nat) (f : Engine → Engine) : (s.modEngine k f).csize = s.csize := rfl
@[simp] theorem State.modEngine_clock (k : Nat) (f : Engine → Engine) : (s.modEngine k f).clock = s.clock := rfl
@[simp] theorem State.modEngine_stepAbt (k : Nat) (f : Engine → Engine) : (s.modEngine k f).stepAbt = s.stepAbt := rfl
@[simp] theorem State.modEngine_preq (k : Nat) (f : Engine → Engine) : (s.modEngine k f).preq = s.preq := rfl
@[simp] theorem State.modEngine_swtick (k : Nat) (f : Engine → Engine) : (s.modEngine k f).swtick = s.swtick := rfl
@[simp] theorem State.modEngine_nextTick (k : Nat) (f : Engine → Engine) : (s.modEngine k f).nextTick = s.nextTick := rfl
@[simp] theorem State.modEngine_nextEval (k : Nat) (f : Engine → Engine) : (s.modEngine k f).nextEval = s.nextEval := rfl
@[simp] theorem State.modEngine_qctl (k : Nat) (f : Engine → Engine) : (s.modEngine k f).qctl = s.qctl := rfl
@[simp] theorem State.modEngine_qaddr (k : Nat) (f : Engine → Engine) : (s.modEngine k f).qaddr = s.qaddr := rfl
@[simp] theorem State.modEngine_qsize (k : Nat) (f : Engine → Engine) : (s.modEngine k f).qsize = s.qsize := rfl
@[simp] theorem State.modEngine_hdm (k : Nat) (f : Engine → Engine) : (s.modEngine k f).hdm = s.hdm := rfl
@[simp] theorem State.modEngine_hostLines (k : Nat) (f : Engine → Engine) : (s.modEngine k f).hostLines = s.hostLines := rfl
@[simp] theorem State.modEngine_cxl (k : Nat) (f : Engine → Engine) : (s.modEngine k f).cxl = s.cxl := rfl
@[simp] theorem State.modEngine_cxlNext (k : Nat) (f : Engine → Engine) : (s.modEngine k f).cxlNext = s.cxlNext := rfl
@[simp] theorem State.modEngine_snoops (k : Nat) (f : Engine → Engine) : (s.modEngine k f).snoops = s.snoops := rfl
@[simp] theorem State.modEngine_hostReads (k : Nat) (f : Engine → Engine) : (s.modEngine k f).hostReads = s.hostReads := rfl
@[simp] theorem State.modEngine_msix (k : Nat) (f : Engine → Engine) : (s.modEngine k f).msix = s.msix := rfl
@[simp] theorem State.modEngine_links (k : Nat) (f : Engine → Engine) : (s.modEngine k f).links = s.links := rfl
@[simp] theorem State.modEngine_reqs (k : Nat) (f : Engine → Engine) : (s.modEngine k f).reqs = s.reqs := rfl
@[simp] theorem State.modEngine_answers (k : Nat) (f : Engine → Engine) : (s.modEngine k f).answers = s.answers := rfl
@[simp] theorem State.modEngine_rhwnode (k : Nat) (f : Engine → Engine) : (s.modEngine k f).rhwnode = s.rhwnode := rfl
@[simp] theorem State.modEngine_power (k : Nat) (f : Engine → Engine) : (s.modEngine k f).power = s.power := rfl
@[simp] theorem State.modEngine_bootstat (k : Nat) (f : Engine → Engine) : (s.modEngine k f).bootstat = s.bootstat := rfl
@[simp] theorem State.modEngine_identity (k : Nat) (f : Engine → Engine) : (s.modEngine k f).identity = s.identity := rfl
@[simp] theorem State.modEngine_flash (k : Nat) (f : Engine → Engine) : (s.modEngine k f).flash = s.flash := rfl
@[simp] theorem State.modEngine_reflash (k : Nat) (f : Engine → Engine) : (s.modEngine k f).reflash = s.reflash := rfl
@[simp] theorem State.modEngine_powerLost (k : Nat) (f : Engine → Engine) : (s.modEngine k f).powerLost = s.powerLost := rfl

/-! modLink. -/

@[simp] theorem State.modLink_agenda (k : Nat) (f : LinkEnd → LinkEnd) : (s.modLink k f).agenda = s.agenda := rfl
@[simp] theorem State.modLink_turn (k : Nat) (f : LinkEnd → LinkEnd) : (s.modLink k f).turn = s.turn := rfl
@[simp] theorem State.modLink_tick (k : Nat) (f : LinkEnd → LinkEnd) : (s.modLink k f).tick = s.tick := rfl
@[simp] theorem State.modLink_cyc (k : Nat) (f : LinkEnd → LinkEnd) : (s.modLink k f).cyc = s.cyc := rfl
@[simp] theorem State.modLink_ns (k : Nat) (f : LinkEnd → LinkEnd) : (s.modLink k f).ns = s.ns := rfl
@[simp] theorem State.modLink_free (k : Nat) (f : LinkEnd → LinkEnd) : (s.modLink k f).free = s.free := rfl
@[simp] theorem State.modLink_cur (k : Nat) (f : LinkEnd → LinkEnd) : (s.modLink k f).cur = s.cur := rfl
@[simp] theorem State.modLink_mem (k : Nat) (f : LinkEnd → LinkEnd) : (s.modLink k f).mem = s.mem := rfl
@[simp] theorem State.modLink_gallery (k : Nat) (f : LinkEnd → LinkEnd) : (s.modLink k f).gallery = s.gallery := rfl
@[simp] theorem State.modLink_poison (k : Nat) (f : LinkEnd → LinkEnd) : (s.modLink k f).poison = s.poison := rfl
@[simp] theorem State.modLink_pend (k : Nat) (f : LinkEnd → LinkEnd) : (s.modLink k f).pend = s.pend := rfl
@[simp] theorem State.modLink_tags (k : Nat) (f : LinkEnd → LinkEnd) : (s.modLink k f).tags = s.tags := rfl
@[simp] theorem State.modLink_tlb (k : Nat) (f : LinkEnd → LinkEnd) : (s.modLink k f).tlb = s.tlb := rfl
@[simp] theorem State.modLink_nextPage (k : Nat) (f : LinkEnd → LinkEnd) : (s.modLink k f).nextPage = s.nextPage := rfl
@[simp] theorem State.modLink_teams (k : Nat) (f : LinkEnd → LinkEnd) : (s.modLink k f).teams = s.teams := rfl
@[simp] theorem State.modLink_nextTeam (k : Nat) (f : LinkEnd → LinkEnd) : (s.modLink k f).nextTeam = s.nextTeam := rfl
@[simp] theorem State.modLink_handlerBank (k : Nat) (f : LinkEnd → LinkEnd) : (s.modLink k f).handlerBank = s.handlerBank := rfl
@[simp] theorem State.modLink_lastIssue (k : Nat) (f : LinkEnd → LinkEnd) : (s.modLink k f).lastIssue = s.lastIssue := rfl
@[simp] theorem State.modLink_slotCyc (k : Nat) (f : LinkEnd → LinkEnd) : (s.modLink k f).slotCyc = s.slotCyc := rfl
@[simp] theorem State.modLink_rills (k : Nat) (f : LinkEnd → LinkEnd) : (s.modLink k f).rills = s.rills := rfl
@[simp] theorem State.modLink_engines (k : Nat) (f : LinkEnd → LinkEnd) : (s.modLink k f).engines = s.engines := rfl
@[simp] theorem State.modLink_tasks (k : Nat) (f : LinkEnd → LinkEnd) : (s.modLink k f).tasks = s.tasks := rfl
@[simp] theorem State.modLink_nextOrder (k : Nat) (f : LinkEnd → LinkEnd) : (s.modLink k f).nextOrder = s.nextOrder := rfl
@[simp] theorem State.modLink_opps (k : Nat) (f : LinkEnd → LinkEnd) : (s.modLink k f).opps = s.opps := rfl
@[simp] theorem State.modLink_vdevs (k : Nat) (f : LinkEnd → LinkEnd) : (s.modLink k f).vdevs = s.vdevs := rfl
@[simp] theorem State.modLink_parts (k : Nat) (f : LinkEnd → LinkEnd) : (s.modLink k f).parts = s.parts := rfl
@[simp] theorem State.modLink_dies (k : Nat) (f : LinkEnd → LinkEnd) : (s.modLink k f).dies = s.dies := rfl
@[simp] theorem State.modLink_stks (k : Nat) (f : LinkEnd → LinkEnd) : (s.modLink k f).stks = s.stks := rfl
@[simp] theorem State.modLink_rpoints (k : Nat) (f : LinkEnd → LinkEnd) : (s.modLink k f).rpoints = s.rpoints := rfl
@[simp] theorem State.modLink_conss (k : Nat) (f : LinkEnd → LinkEnd) : (s.modLink k f).conss = s.conss := rfl
@[simp] theorem State.modLink_csize (k : Nat) (f : LinkEnd → LinkEnd) : (s.modLink k f).csize = s.csize := rfl
@[simp] theorem State.modLink_clock (k : Nat) (f : LinkEnd → LinkEnd) : (s.modLink k f).clock = s.clock := rfl
@[simp] theorem State.modLink_stepAbt (k : Nat) (f : LinkEnd → LinkEnd) : (s.modLink k f).stepAbt = s.stepAbt := rfl
@[simp] theorem State.modLink_preq (k : Nat) (f : LinkEnd → LinkEnd) : (s.modLink k f).preq = s.preq := rfl
@[simp] theorem State.modLink_swtick (k : Nat) (f : LinkEnd → LinkEnd) : (s.modLink k f).swtick = s.swtick := rfl
@[simp] theorem State.modLink_nextTick (k : Nat) (f : LinkEnd → LinkEnd) : (s.modLink k f).nextTick = s.nextTick := rfl
@[simp] theorem State.modLink_nextEval (k : Nat) (f : LinkEnd → LinkEnd) : (s.modLink k f).nextEval = s.nextEval := rfl
@[simp] theorem State.modLink_qctl (k : Nat) (f : LinkEnd → LinkEnd) : (s.modLink k f).qctl = s.qctl := rfl
@[simp] theorem State.modLink_qaddr (k : Nat) (f : LinkEnd → LinkEnd) : (s.modLink k f).qaddr = s.qaddr := rfl
@[simp] theorem State.modLink_qsize (k : Nat) (f : LinkEnd → LinkEnd) : (s.modLink k f).qsize = s.qsize := rfl
@[simp] theorem State.modLink_hdm (k : Nat) (f : LinkEnd → LinkEnd) : (s.modLink k f).hdm = s.hdm := rfl
@[simp] theorem State.modLink_hostLines (k : Nat) (f : LinkEnd → LinkEnd) : (s.modLink k f).hostLines = s.hostLines := rfl
@[simp] theorem State.modLink_cxl (k : Nat) (f : LinkEnd → LinkEnd) : (s.modLink k f).cxl = s.cxl := rfl
@[simp] theorem State.modLink_cxlNext (k : Nat) (f : LinkEnd → LinkEnd) : (s.modLink k f).cxlNext = s.cxlNext := rfl
@[simp] theorem State.modLink_snoops (k : Nat) (f : LinkEnd → LinkEnd) : (s.modLink k f).snoops = s.snoops := rfl
@[simp] theorem State.modLink_hostReads (k : Nat) (f : LinkEnd → LinkEnd) : (s.modLink k f).hostReads = s.hostReads := rfl
@[simp] theorem State.modLink_msix (k : Nat) (f : LinkEnd → LinkEnd) : (s.modLink k f).msix = s.msix := rfl
@[simp] theorem State.modLink_reqs (k : Nat) (f : LinkEnd → LinkEnd) : (s.modLink k f).reqs = s.reqs := rfl
@[simp] theorem State.modLink_answers (k : Nat) (f : LinkEnd → LinkEnd) : (s.modLink k f).answers = s.answers := rfl
@[simp] theorem State.modLink_rhwnode (k : Nat) (f : LinkEnd → LinkEnd) : (s.modLink k f).rhwnode = s.rhwnode := rfl
@[simp] theorem State.modLink_power (k : Nat) (f : LinkEnd → LinkEnd) : (s.modLink k f).power = s.power := rfl
@[simp] theorem State.modLink_bootstat (k : Nat) (f : LinkEnd → LinkEnd) : (s.modLink k f).bootstat = s.bootstat := rfl
@[simp] theorem State.modLink_identity (k : Nat) (f : LinkEnd → LinkEnd) : (s.modLink k f).identity = s.identity := rfl
@[simp] theorem State.modLink_flash (k : Nat) (f : LinkEnd → LinkEnd) : (s.modLink k f).flash = s.flash := rfl
@[simp] theorem State.modLink_reflash (k : Nat) (f : LinkEnd → LinkEnd) : (s.modLink k f).reflash = s.reflash := rfl
@[simp] theorem State.modLink_powerLost (k : Nat) (f : LinkEnd → LinkEnd) : (s.modLink k f).powerLost = s.powerLost := rfl

/-! modPart. -/

@[simp] theorem State.modPart_agenda (k : Nat) (f : Part → Part) : (s.modPart k f).agenda = s.agenda := rfl
@[simp] theorem State.modPart_turn (k : Nat) (f : Part → Part) : (s.modPart k f).turn = s.turn := rfl
@[simp] theorem State.modPart_tick (k : Nat) (f : Part → Part) : (s.modPart k f).tick = s.tick := rfl
@[simp] theorem State.modPart_cyc (k : Nat) (f : Part → Part) : (s.modPart k f).cyc = s.cyc := rfl
@[simp] theorem State.modPart_ns (k : Nat) (f : Part → Part) : (s.modPart k f).ns = s.ns := rfl
@[simp] theorem State.modPart_free (k : Nat) (f : Part → Part) : (s.modPart k f).free = s.free := rfl
@[simp] theorem State.modPart_cur (k : Nat) (f : Part → Part) : (s.modPart k f).cur = s.cur := rfl
@[simp] theorem State.modPart_mem (k : Nat) (f : Part → Part) : (s.modPart k f).mem = s.mem := rfl
@[simp] theorem State.modPart_gallery (k : Nat) (f : Part → Part) : (s.modPart k f).gallery = s.gallery := rfl
@[simp] theorem State.modPart_poison (k : Nat) (f : Part → Part) : (s.modPart k f).poison = s.poison := rfl
@[simp] theorem State.modPart_pend (k : Nat) (f : Part → Part) : (s.modPart k f).pend = s.pend := rfl
@[simp] theorem State.modPart_tags (k : Nat) (f : Part → Part) : (s.modPart k f).tags = s.tags := rfl
@[simp] theorem State.modPart_tlb (k : Nat) (f : Part → Part) : (s.modPart k f).tlb = s.tlb := rfl
@[simp] theorem State.modPart_nextPage (k : Nat) (f : Part → Part) : (s.modPart k f).nextPage = s.nextPage := rfl
@[simp] theorem State.modPart_teams (k : Nat) (f : Part → Part) : (s.modPart k f).teams = s.teams := rfl
@[simp] theorem State.modPart_nextTeam (k : Nat) (f : Part → Part) : (s.modPart k f).nextTeam = s.nextTeam := rfl
@[simp] theorem State.modPart_handlerBank (k : Nat) (f : Part → Part) : (s.modPart k f).handlerBank = s.handlerBank := rfl
@[simp] theorem State.modPart_lastIssue (k : Nat) (f : Part → Part) : (s.modPart k f).lastIssue = s.lastIssue := rfl
@[simp] theorem State.modPart_slotCyc (k : Nat) (f : Part → Part) : (s.modPart k f).slotCyc = s.slotCyc := rfl
@[simp] theorem State.modPart_rills (k : Nat) (f : Part → Part) : (s.modPart k f).rills = s.rills := rfl
@[simp] theorem State.modPart_engines (k : Nat) (f : Part → Part) : (s.modPart k f).engines = s.engines := rfl
@[simp] theorem State.modPart_tasks (k : Nat) (f : Part → Part) : (s.modPart k f).tasks = s.tasks := rfl
@[simp] theorem State.modPart_nextOrder (k : Nat) (f : Part → Part) : (s.modPart k f).nextOrder = s.nextOrder := rfl
@[simp] theorem State.modPart_opps (k : Nat) (f : Part → Part) : (s.modPart k f).opps = s.opps := rfl
@[simp] theorem State.modPart_vdevs (k : Nat) (f : Part → Part) : (s.modPart k f).vdevs = s.vdevs := rfl
@[simp] theorem State.modPart_dies (k : Nat) (f : Part → Part) : (s.modPart k f).dies = s.dies := rfl
@[simp] theorem State.modPart_stks (k : Nat) (f : Part → Part) : (s.modPart k f).stks = s.stks := rfl
@[simp] theorem State.modPart_rpoints (k : Nat) (f : Part → Part) : (s.modPart k f).rpoints = s.rpoints := rfl
@[simp] theorem State.modPart_conss (k : Nat) (f : Part → Part) : (s.modPart k f).conss = s.conss := rfl
@[simp] theorem State.modPart_csize (k : Nat) (f : Part → Part) : (s.modPart k f).csize = s.csize := rfl
@[simp] theorem State.modPart_clock (k : Nat) (f : Part → Part) : (s.modPart k f).clock = s.clock := rfl
@[simp] theorem State.modPart_stepAbt (k : Nat) (f : Part → Part) : (s.modPart k f).stepAbt = s.stepAbt := rfl
@[simp] theorem State.modPart_preq (k : Nat) (f : Part → Part) : (s.modPart k f).preq = s.preq := rfl
@[simp] theorem State.modPart_swtick (k : Nat) (f : Part → Part) : (s.modPart k f).swtick = s.swtick := rfl
@[simp] theorem State.modPart_nextTick (k : Nat) (f : Part → Part) : (s.modPart k f).nextTick = s.nextTick := rfl
@[simp] theorem State.modPart_nextEval (k : Nat) (f : Part → Part) : (s.modPart k f).nextEval = s.nextEval := rfl
@[simp] theorem State.modPart_qctl (k : Nat) (f : Part → Part) : (s.modPart k f).qctl = s.qctl := rfl
@[simp] theorem State.modPart_qaddr (k : Nat) (f : Part → Part) : (s.modPart k f).qaddr = s.qaddr := rfl
@[simp] theorem State.modPart_qsize (k : Nat) (f : Part → Part) : (s.modPart k f).qsize = s.qsize := rfl
@[simp] theorem State.modPart_hdm (k : Nat) (f : Part → Part) : (s.modPart k f).hdm = s.hdm := rfl
@[simp] theorem State.modPart_hostLines (k : Nat) (f : Part → Part) : (s.modPart k f).hostLines = s.hostLines := rfl
@[simp] theorem State.modPart_cxl (k : Nat) (f : Part → Part) : (s.modPart k f).cxl = s.cxl := rfl
@[simp] theorem State.modPart_cxlNext (k : Nat) (f : Part → Part) : (s.modPart k f).cxlNext = s.cxlNext := rfl
@[simp] theorem State.modPart_snoops (k : Nat) (f : Part → Part) : (s.modPart k f).snoops = s.snoops := rfl
@[simp] theorem State.modPart_hostReads (k : Nat) (f : Part → Part) : (s.modPart k f).hostReads = s.hostReads := rfl
@[simp] theorem State.modPart_msix (k : Nat) (f : Part → Part) : (s.modPart k f).msix = s.msix := rfl
@[simp] theorem State.modPart_links (k : Nat) (f : Part → Part) : (s.modPart k f).links = s.links := rfl
@[simp] theorem State.modPart_reqs (k : Nat) (f : Part → Part) : (s.modPart k f).reqs = s.reqs := rfl
@[simp] theorem State.modPart_answers (k : Nat) (f : Part → Part) : (s.modPart k f).answers = s.answers := rfl
@[simp] theorem State.modPart_rhwnode (k : Nat) (f : Part → Part) : (s.modPart k f).rhwnode = s.rhwnode := rfl
@[simp] theorem State.modPart_power (k : Nat) (f : Part → Part) : (s.modPart k f).power = s.power := rfl
@[simp] theorem State.modPart_bootstat (k : Nat) (f : Part → Part) : (s.modPart k f).bootstat = s.bootstat := rfl
@[simp] theorem State.modPart_identity (k : Nat) (f : Part → Part) : (s.modPart k f).identity = s.identity := rfl
@[simp] theorem State.modPart_flash (k : Nat) (f : Part → Part) : (s.modPart k f).flash = s.flash := rfl
@[simp] theorem State.modPart_reflash (k : Nat) (f : Part → Part) : (s.modPart k f).reflash = s.reflash := rfl
@[simp] theorem State.modPart_powerLost (k : Nat) (f : Part → Part) : (s.modPart k f).powerLost = s.powerLost := rfl

/-! modWarp. -/

@[simp] theorem State.modWarp_agenda (k w : Nat) (f : Warp → Warp) : (s.modWarp k w f).agenda = s.agenda := rfl
@[simp] theorem State.modWarp_turn (k w : Nat) (f : Warp → Warp) : (s.modWarp k w f).turn = s.turn := rfl
@[simp] theorem State.modWarp_tick (k w : Nat) (f : Warp → Warp) : (s.modWarp k w f).tick = s.tick := rfl
@[simp] theorem State.modWarp_cyc (k w : Nat) (f : Warp → Warp) : (s.modWarp k w f).cyc = s.cyc := rfl
@[simp] theorem State.modWarp_ns (k w : Nat) (f : Warp → Warp) : (s.modWarp k w f).ns = s.ns := rfl
@[simp] theorem State.modWarp_free (k w : Nat) (f : Warp → Warp) : (s.modWarp k w f).free = s.free := rfl
@[simp] theorem State.modWarp_cur (k w : Nat) (f : Warp → Warp) : (s.modWarp k w f).cur = s.cur := rfl
@[simp] theorem State.modWarp_mem (k w : Nat) (f : Warp → Warp) : (s.modWarp k w f).mem = s.mem := rfl
@[simp] theorem State.modWarp_gallery (k w : Nat) (f : Warp → Warp) : (s.modWarp k w f).gallery = s.gallery := rfl
@[simp] theorem State.modWarp_poison (k w : Nat) (f : Warp → Warp) : (s.modWarp k w f).poison = s.poison := rfl
@[simp] theorem State.modWarp_pend (k w : Nat) (f : Warp → Warp) : (s.modWarp k w f).pend = s.pend := rfl
@[simp] theorem State.modWarp_tags (k w : Nat) (f : Warp → Warp) : (s.modWarp k w f).tags = s.tags := rfl
@[simp] theorem State.modWarp_tlb (k w : Nat) (f : Warp → Warp) : (s.modWarp k w f).tlb = s.tlb := rfl
@[simp] theorem State.modWarp_nextPage (k w : Nat) (f : Warp → Warp) : (s.modWarp k w f).nextPage = s.nextPage := rfl
@[simp] theorem State.modWarp_nextTeam (k w : Nat) (f : Warp → Warp) : (s.modWarp k w f).nextTeam = s.nextTeam := rfl
@[simp] theorem State.modWarp_handlerBank (k w : Nat) (f : Warp → Warp) : (s.modWarp k w f).handlerBank = s.handlerBank := rfl
@[simp] theorem State.modWarp_lastIssue (k w : Nat) (f : Warp → Warp) : (s.modWarp k w f).lastIssue = s.lastIssue := rfl
@[simp] theorem State.modWarp_slotCyc (k w : Nat) (f : Warp → Warp) : (s.modWarp k w f).slotCyc = s.slotCyc := rfl
@[simp] theorem State.modWarp_rills (k w : Nat) (f : Warp → Warp) : (s.modWarp k w f).rills = s.rills := rfl
@[simp] theorem State.modWarp_engines (k w : Nat) (f : Warp → Warp) : (s.modWarp k w f).engines = s.engines := rfl
@[simp] theorem State.modWarp_tasks (k w : Nat) (f : Warp → Warp) : (s.modWarp k w f).tasks = s.tasks := rfl
@[simp] theorem State.modWarp_nextOrder (k w : Nat) (f : Warp → Warp) : (s.modWarp k w f).nextOrder = s.nextOrder := rfl
@[simp] theorem State.modWarp_opps (k w : Nat) (f : Warp → Warp) : (s.modWarp k w f).opps = s.opps := rfl
@[simp] theorem State.modWarp_vdevs (k w : Nat) (f : Warp → Warp) : (s.modWarp k w f).vdevs = s.vdevs := rfl
@[simp] theorem State.modWarp_parts (k w : Nat) (f : Warp → Warp) : (s.modWarp k w f).parts = s.parts := rfl
@[simp] theorem State.modWarp_dies (k w : Nat) (f : Warp → Warp) : (s.modWarp k w f).dies = s.dies := rfl
@[simp] theorem State.modWarp_stks (k w : Nat) (f : Warp → Warp) : (s.modWarp k w f).stks = s.stks := rfl
@[simp] theorem State.modWarp_rpoints (k w : Nat) (f : Warp → Warp) : (s.modWarp k w f).rpoints = s.rpoints := rfl
@[simp] theorem State.modWarp_conss (k w : Nat) (f : Warp → Warp) : (s.modWarp k w f).conss = s.conss := rfl
@[simp] theorem State.modWarp_csize (k w : Nat) (f : Warp → Warp) : (s.modWarp k w f).csize = s.csize := rfl
@[simp] theorem State.modWarp_clock (k w : Nat) (f : Warp → Warp) : (s.modWarp k w f).clock = s.clock := rfl
@[simp] theorem State.modWarp_stepAbt (k w : Nat) (f : Warp → Warp) : (s.modWarp k w f).stepAbt = s.stepAbt := rfl
@[simp] theorem State.modWarp_preq (k w : Nat) (f : Warp → Warp) : (s.modWarp k w f).preq = s.preq := rfl
@[simp] theorem State.modWarp_swtick (k w : Nat) (f : Warp → Warp) : (s.modWarp k w f).swtick = s.swtick := rfl
@[simp] theorem State.modWarp_nextTick (k w : Nat) (f : Warp → Warp) : (s.modWarp k w f).nextTick = s.nextTick := rfl
@[simp] theorem State.modWarp_nextEval (k w : Nat) (f : Warp → Warp) : (s.modWarp k w f).nextEval = s.nextEval := rfl
@[simp] theorem State.modWarp_qctl (k w : Nat) (f : Warp → Warp) : (s.modWarp k w f).qctl = s.qctl := rfl
@[simp] theorem State.modWarp_qaddr (k w : Nat) (f : Warp → Warp) : (s.modWarp k w f).qaddr = s.qaddr := rfl
@[simp] theorem State.modWarp_qsize (k w : Nat) (f : Warp → Warp) : (s.modWarp k w f).qsize = s.qsize := rfl
@[simp] theorem State.modWarp_hdm (k w : Nat) (f : Warp → Warp) : (s.modWarp k w f).hdm = s.hdm := rfl
@[simp] theorem State.modWarp_hostLines (k w : Nat) (f : Warp → Warp) : (s.modWarp k w f).hostLines = s.hostLines := rfl
@[simp] theorem State.modWarp_cxl (k w : Nat) (f : Warp → Warp) : (s.modWarp k w f).cxl = s.cxl := rfl
@[simp] theorem State.modWarp_cxlNext (k w : Nat) (f : Warp → Warp) : (s.modWarp k w f).cxlNext = s.cxlNext := rfl
@[simp] theorem State.modWarp_snoops (k w : Nat) (f : Warp → Warp) : (s.modWarp k w f).snoops = s.snoops := rfl
@[simp] theorem State.modWarp_hostReads (k w : Nat) (f : Warp → Warp) : (s.modWarp k w f).hostReads = s.hostReads := rfl
@[simp] theorem State.modWarp_msix (k w : Nat) (f : Warp → Warp) : (s.modWarp k w f).msix = s.msix := rfl
@[simp] theorem State.modWarp_links (k w : Nat) (f : Warp → Warp) : (s.modWarp k w f).links = s.links := rfl
@[simp] theorem State.modWarp_reqs (k w : Nat) (f : Warp → Warp) : (s.modWarp k w f).reqs = s.reqs := rfl
@[simp] theorem State.modWarp_answers (k w : Nat) (f : Warp → Warp) : (s.modWarp k w f).answers = s.answers := rfl
@[simp] theorem State.modWarp_rhwnode (k w : Nat) (f : Warp → Warp) : (s.modWarp k w f).rhwnode = s.rhwnode := rfl
@[simp] theorem State.modWarp_power (k w : Nat) (f : Warp → Warp) : (s.modWarp k w f).power = s.power := rfl
@[simp] theorem State.modWarp_bootstat (k w : Nat) (f : Warp → Warp) : (s.modWarp k w f).bootstat = s.bootstat := rfl
@[simp] theorem State.modWarp_identity (k w : Nat) (f : Warp → Warp) : (s.modWarp k w f).identity = s.identity := rfl
@[simp] theorem State.modWarp_flash (k w : Nat) (f : Warp → Warp) : (s.modWarp k w f).flash = s.flash := rfl
@[simp] theorem State.modWarp_reflash (k w : Nat) (f : Warp → Warp) : (s.modWarp k w f).reflash = s.reflash := rfl
@[simp] theorem State.modWarp_powerLost (k w : Nat) (f : Warp → Warp) : (s.modWarp k w f).powerLost = s.powerLost := rfl

/-! modTl. -/

@[simp] theorem State.modTl_agenda (k n : Nat) (f : Tl → Tl) : (s.modTl k n f).agenda = s.agenda := rfl
@[simp] theorem State.modTl_turn (k n : Nat) (f : Tl → Tl) : (s.modTl k n f).turn = s.turn := rfl
@[simp] theorem State.modTl_tick (k n : Nat) (f : Tl → Tl) : (s.modTl k n f).tick = s.tick := rfl
@[simp] theorem State.modTl_cyc (k n : Nat) (f : Tl → Tl) : (s.modTl k n f).cyc = s.cyc := rfl
@[simp] theorem State.modTl_ns (k n : Nat) (f : Tl → Tl) : (s.modTl k n f).ns = s.ns := rfl
@[simp] theorem State.modTl_free (k n : Nat) (f : Tl → Tl) : (s.modTl k n f).free = s.free := rfl
@[simp] theorem State.modTl_cur (k n : Nat) (f : Tl → Tl) : (s.modTl k n f).cur = s.cur := rfl
@[simp] theorem State.modTl_mem (k n : Nat) (f : Tl → Tl) : (s.modTl k n f).mem = s.mem := rfl
@[simp] theorem State.modTl_gallery (k n : Nat) (f : Tl → Tl) : (s.modTl k n f).gallery = s.gallery := rfl
@[simp] theorem State.modTl_poison (k n : Nat) (f : Tl → Tl) : (s.modTl k n f).poison = s.poison := rfl
@[simp] theorem State.modTl_pend (k n : Nat) (f : Tl → Tl) : (s.modTl k n f).pend = s.pend := rfl
@[simp] theorem State.modTl_tags (k n : Nat) (f : Tl → Tl) : (s.modTl k n f).tags = s.tags := rfl
@[simp] theorem State.modTl_tlb (k n : Nat) (f : Tl → Tl) : (s.modTl k n f).tlb = s.tlb := rfl
@[simp] theorem State.modTl_nextPage (k n : Nat) (f : Tl → Tl) : (s.modTl k n f).nextPage = s.nextPage := rfl
@[simp] theorem State.modTl_nextTeam (k n : Nat) (f : Tl → Tl) : (s.modTl k n f).nextTeam = s.nextTeam := rfl
@[simp] theorem State.modTl_handlerBank (k n : Nat) (f : Tl → Tl) : (s.modTl k n f).handlerBank = s.handlerBank := rfl
@[simp] theorem State.modTl_lastIssue (k n : Nat) (f : Tl → Tl) : (s.modTl k n f).lastIssue = s.lastIssue := rfl
@[simp] theorem State.modTl_slotCyc (k n : Nat) (f : Tl → Tl) : (s.modTl k n f).slotCyc = s.slotCyc := rfl
@[simp] theorem State.modTl_rills (k n : Nat) (f : Tl → Tl) : (s.modTl k n f).rills = s.rills := rfl
@[simp] theorem State.modTl_engines (k n : Nat) (f : Tl → Tl) : (s.modTl k n f).engines = s.engines := rfl
@[simp] theorem State.modTl_tasks (k n : Nat) (f : Tl → Tl) : (s.modTl k n f).tasks = s.tasks := rfl
@[simp] theorem State.modTl_nextOrder (k n : Nat) (f : Tl → Tl) : (s.modTl k n f).nextOrder = s.nextOrder := rfl
@[simp] theorem State.modTl_opps (k n : Nat) (f : Tl → Tl) : (s.modTl k n f).opps = s.opps := rfl
@[simp] theorem State.modTl_vdevs (k n : Nat) (f : Tl → Tl) : (s.modTl k n f).vdevs = s.vdevs := rfl
@[simp] theorem State.modTl_parts (k n : Nat) (f : Tl → Tl) : (s.modTl k n f).parts = s.parts := rfl
@[simp] theorem State.modTl_dies (k n : Nat) (f : Tl → Tl) : (s.modTl k n f).dies = s.dies := rfl
@[simp] theorem State.modTl_stks (k n : Nat) (f : Tl → Tl) : (s.modTl k n f).stks = s.stks := rfl
@[simp] theorem State.modTl_rpoints (k n : Nat) (f : Tl → Tl) : (s.modTl k n f).rpoints = s.rpoints := rfl
@[simp] theorem State.modTl_conss (k n : Nat) (f : Tl → Tl) : (s.modTl k n f).conss = s.conss := rfl
@[simp] theorem State.modTl_csize (k n : Nat) (f : Tl → Tl) : (s.modTl k n f).csize = s.csize := rfl
@[simp] theorem State.modTl_clock (k n : Nat) (f : Tl → Tl) : (s.modTl k n f).clock = s.clock := rfl
@[simp] theorem State.modTl_stepAbt (k n : Nat) (f : Tl → Tl) : (s.modTl k n f).stepAbt = s.stepAbt := rfl
@[simp] theorem State.modTl_preq (k n : Nat) (f : Tl → Tl) : (s.modTl k n f).preq = s.preq := rfl
@[simp] theorem State.modTl_swtick (k n : Nat) (f : Tl → Tl) : (s.modTl k n f).swtick = s.swtick := rfl
@[simp] theorem State.modTl_nextTick (k n : Nat) (f : Tl → Tl) : (s.modTl k n f).nextTick = s.nextTick := rfl
@[simp] theorem State.modTl_nextEval (k n : Nat) (f : Tl → Tl) : (s.modTl k n f).nextEval = s.nextEval := rfl
@[simp] theorem State.modTl_qctl (k n : Nat) (f : Tl → Tl) : (s.modTl k n f).qctl = s.qctl := rfl
@[simp] theorem State.modTl_qaddr (k n : Nat) (f : Tl → Tl) : (s.modTl k n f).qaddr = s.qaddr := rfl
@[simp] theorem State.modTl_qsize (k n : Nat) (f : Tl → Tl) : (s.modTl k n f).qsize = s.qsize := rfl
@[simp] theorem State.modTl_hdm (k n : Nat) (f : Tl → Tl) : (s.modTl k n f).hdm = s.hdm := rfl
@[simp] theorem State.modTl_hostLines (k n : Nat) (f : Tl → Tl) : (s.modTl k n f).hostLines = s.hostLines := rfl
@[simp] theorem State.modTl_cxl (k n : Nat) (f : Tl → Tl) : (s.modTl k n f).cxl = s.cxl := rfl
@[simp] theorem State.modTl_cxlNext (k n : Nat) (f : Tl → Tl) : (s.modTl k n f).cxlNext = s.cxlNext := rfl
@[simp] theorem State.modTl_snoops (k n : Nat) (f : Tl → Tl) : (s.modTl k n f).snoops = s.snoops := rfl
@[simp] theorem State.modTl_hostReads (k n : Nat) (f : Tl → Tl) : (s.modTl k n f).hostReads = s.hostReads := rfl
@[simp] theorem State.modTl_msix (k n : Nat) (f : Tl → Tl) : (s.modTl k n f).msix = s.msix := rfl
@[simp] theorem State.modTl_links (k n : Nat) (f : Tl → Tl) : (s.modTl k n f).links = s.links := rfl
@[simp] theorem State.modTl_reqs (k n : Nat) (f : Tl → Tl) : (s.modTl k n f).reqs = s.reqs := rfl
@[simp] theorem State.modTl_answers (k n : Nat) (f : Tl → Tl) : (s.modTl k n f).answers = s.answers := rfl
@[simp] theorem State.modTl_rhwnode (k n : Nat) (f : Tl → Tl) : (s.modTl k n f).rhwnode = s.rhwnode := rfl
@[simp] theorem State.modTl_power (k n : Nat) (f : Tl → Tl) : (s.modTl k n f).power = s.power := rfl
@[simp] theorem State.modTl_bootstat (k n : Nat) (f : Tl → Tl) : (s.modTl k n f).bootstat = s.bootstat := rfl
@[simp] theorem State.modTl_identity (k n : Nat) (f : Tl → Tl) : (s.modTl k n f).identity = s.identity := rfl
@[simp] theorem State.modTl_flash (k n : Nat) (f : Tl → Tl) : (s.modTl k n f).flash = s.flash := rfl
@[simp] theorem State.modTl_reflash (k n : Nat) (f : Tl → Tl) : (s.modTl k n f).reflash = s.reflash := rfl
@[simp] theorem State.modTl_powerLost (k n : Nat) (f : Tl → Tl) : (s.modTl k n f).powerLost = s.powerLost := rfl

/-! modLaunch. -/

@[simp] theorem State.modLaunch_agenda (k : Nat) (f : Launch → Launch) : (s.modLaunch k f).agenda = s.agenda := rfl
@[simp] theorem State.modLaunch_turn (k : Nat) (f : Launch → Launch) : (s.modLaunch k f).turn = s.turn := rfl
@[simp] theorem State.modLaunch_tick (k : Nat) (f : Launch → Launch) : (s.modLaunch k f).tick = s.tick := rfl
@[simp] theorem State.modLaunch_cyc (k : Nat) (f : Launch → Launch) : (s.modLaunch k f).cyc = s.cyc := rfl
@[simp] theorem State.modLaunch_ns (k : Nat) (f : Launch → Launch) : (s.modLaunch k f).ns = s.ns := rfl
@[simp] theorem State.modLaunch_free (k : Nat) (f : Launch → Launch) : (s.modLaunch k f).free = s.free := rfl
@[simp] theorem State.modLaunch_cur (k : Nat) (f : Launch → Launch) : (s.modLaunch k f).cur = s.cur := rfl
@[simp] theorem State.modLaunch_mem (k : Nat) (f : Launch → Launch) : (s.modLaunch k f).mem = s.mem := rfl
@[simp] theorem State.modLaunch_gallery (k : Nat) (f : Launch → Launch) : (s.modLaunch k f).gallery = s.gallery := rfl
@[simp] theorem State.modLaunch_poison (k : Nat) (f : Launch → Launch) : (s.modLaunch k f).poison = s.poison := rfl
@[simp] theorem State.modLaunch_pend (k : Nat) (f : Launch → Launch) : (s.modLaunch k f).pend = s.pend := rfl
@[simp] theorem State.modLaunch_tags (k : Nat) (f : Launch → Launch) : (s.modLaunch k f).tags = s.tags := rfl
@[simp] theorem State.modLaunch_tlb (k : Nat) (f : Launch → Launch) : (s.modLaunch k f).tlb = s.tlb := rfl
@[simp] theorem State.modLaunch_nextPage (k : Nat) (f : Launch → Launch) : (s.modLaunch k f).nextPage = s.nextPage := rfl
@[simp] theorem State.modLaunch_teams (k : Nat) (f : Launch → Launch) : (s.modLaunch k f).teams = s.teams := rfl
@[simp] theorem State.modLaunch_nextTeam (k : Nat) (f : Launch → Launch) : (s.modLaunch k f).nextTeam = s.nextTeam := rfl
@[simp] theorem State.modLaunch_handlerBank (k : Nat) (f : Launch → Launch) : (s.modLaunch k f).handlerBank = s.handlerBank := rfl
@[simp] theorem State.modLaunch_lastIssue (k : Nat) (f : Launch → Launch) : (s.modLaunch k f).lastIssue = s.lastIssue := rfl
@[simp] theorem State.modLaunch_slotCyc (k : Nat) (f : Launch → Launch) : (s.modLaunch k f).slotCyc = s.slotCyc := rfl
@[simp] theorem State.modLaunch_rills (k : Nat) (f : Launch → Launch) : (s.modLaunch k f).rills = s.rills := rfl
@[simp] theorem State.modLaunch_engines (k : Nat) (f : Launch → Launch) : (s.modLaunch k f).engines = s.engines := rfl
@[simp] theorem State.modLaunch_nextOrder (k : Nat) (f : Launch → Launch) : (s.modLaunch k f).nextOrder = s.nextOrder := rfl
@[simp] theorem State.modLaunch_opps (k : Nat) (f : Launch → Launch) : (s.modLaunch k f).opps = s.opps := rfl
@[simp] theorem State.modLaunch_vdevs (k : Nat) (f : Launch → Launch) : (s.modLaunch k f).vdevs = s.vdevs := rfl
@[simp] theorem State.modLaunch_parts (k : Nat) (f : Launch → Launch) : (s.modLaunch k f).parts = s.parts := rfl
@[simp] theorem State.modLaunch_dies (k : Nat) (f : Launch → Launch) : (s.modLaunch k f).dies = s.dies := rfl
@[simp] theorem State.modLaunch_stks (k : Nat) (f : Launch → Launch) : (s.modLaunch k f).stks = s.stks := rfl
@[simp] theorem State.modLaunch_rpoints (k : Nat) (f : Launch → Launch) : (s.modLaunch k f).rpoints = s.rpoints := rfl
@[simp] theorem State.modLaunch_conss (k : Nat) (f : Launch → Launch) : (s.modLaunch k f).conss = s.conss := rfl
@[simp] theorem State.modLaunch_csize (k : Nat) (f : Launch → Launch) : (s.modLaunch k f).csize = s.csize := rfl
@[simp] theorem State.modLaunch_clock (k : Nat) (f : Launch → Launch) : (s.modLaunch k f).clock = s.clock := rfl
@[simp] theorem State.modLaunch_stepAbt (k : Nat) (f : Launch → Launch) : (s.modLaunch k f).stepAbt = s.stepAbt := rfl
@[simp] theorem State.modLaunch_preq (k : Nat) (f : Launch → Launch) : (s.modLaunch k f).preq = s.preq := rfl
@[simp] theorem State.modLaunch_swtick (k : Nat) (f : Launch → Launch) : (s.modLaunch k f).swtick = s.swtick := rfl
@[simp] theorem State.modLaunch_nextTick (k : Nat) (f : Launch → Launch) : (s.modLaunch k f).nextTick = s.nextTick := rfl
@[simp] theorem State.modLaunch_nextEval (k : Nat) (f : Launch → Launch) : (s.modLaunch k f).nextEval = s.nextEval := rfl
@[simp] theorem State.modLaunch_qctl (k : Nat) (f : Launch → Launch) : (s.modLaunch k f).qctl = s.qctl := rfl
@[simp] theorem State.modLaunch_qaddr (k : Nat) (f : Launch → Launch) : (s.modLaunch k f).qaddr = s.qaddr := rfl
@[simp] theorem State.modLaunch_qsize (k : Nat) (f : Launch → Launch) : (s.modLaunch k f).qsize = s.qsize := rfl
@[simp] theorem State.modLaunch_hdm (k : Nat) (f : Launch → Launch) : (s.modLaunch k f).hdm = s.hdm := rfl
@[simp] theorem State.modLaunch_hostLines (k : Nat) (f : Launch → Launch) : (s.modLaunch k f).hostLines = s.hostLines := rfl
@[simp] theorem State.modLaunch_cxl (k : Nat) (f : Launch → Launch) : (s.modLaunch k f).cxl = s.cxl := rfl
@[simp] theorem State.modLaunch_cxlNext (k : Nat) (f : Launch → Launch) : (s.modLaunch k f).cxlNext = s.cxlNext := rfl
@[simp] theorem State.modLaunch_snoops (k : Nat) (f : Launch → Launch) : (s.modLaunch k f).snoops = s.snoops := rfl
@[simp] theorem State.modLaunch_hostReads (k : Nat) (f : Launch → Launch) : (s.modLaunch k f).hostReads = s.hostReads := rfl
@[simp] theorem State.modLaunch_msix (k : Nat) (f : Launch → Launch) : (s.modLaunch k f).msix = s.msix := rfl
@[simp] theorem State.modLaunch_links (k : Nat) (f : Launch → Launch) : (s.modLaunch k f).links = s.links := rfl
@[simp] theorem State.modLaunch_reqs (k : Nat) (f : Launch → Launch) : (s.modLaunch k f).reqs = s.reqs := rfl
@[simp] theorem State.modLaunch_answers (k : Nat) (f : Launch → Launch) : (s.modLaunch k f).answers = s.answers := rfl
@[simp] theorem State.modLaunch_rhwnode (k : Nat) (f : Launch → Launch) : (s.modLaunch k f).rhwnode = s.rhwnode := rfl
@[simp] theorem State.modLaunch_power (k : Nat) (f : Launch → Launch) : (s.modLaunch k f).power = s.power := rfl
@[simp] theorem State.modLaunch_bootstat (k : Nat) (f : Launch → Launch) : (s.modLaunch k f).bootstat = s.bootstat := rfl
@[simp] theorem State.modLaunch_identity (k : Nat) (f : Launch → Launch) : (s.modLaunch k f).identity = s.identity := rfl
@[simp] theorem State.modLaunch_flash (k : Nat) (f : Launch → Launch) : (s.modLaunch k f).flash = s.flash := rfl
@[simp] theorem State.modLaunch_reflash (k : Nat) (f : Launch → Launch) : (s.modLaunch k f).reflash = s.reflash := rfl
@[simp] theorem State.modLaunch_powerLost (k : Nat) (f : Launch → Launch) : (s.modLaunch k f).powerLost = s.powerLost := rfl

/-! modUpd. -/

@[simp] theorem State.modUpd_agenda (k : Nat) (f : Upd → Upd) : (s.modUpd k f).agenda = s.agenda := rfl
@[simp] theorem State.modUpd_turn (k : Nat) (f : Upd → Upd) : (s.modUpd k f).turn = s.turn := rfl
@[simp] theorem State.modUpd_tick (k : Nat) (f : Upd → Upd) : (s.modUpd k f).tick = s.tick := rfl
@[simp] theorem State.modUpd_cyc (k : Nat) (f : Upd → Upd) : (s.modUpd k f).cyc = s.cyc := rfl
@[simp] theorem State.modUpd_ns (k : Nat) (f : Upd → Upd) : (s.modUpd k f).ns = s.ns := rfl
@[simp] theorem State.modUpd_free (k : Nat) (f : Upd → Upd) : (s.modUpd k f).free = s.free := rfl
@[simp] theorem State.modUpd_cur (k : Nat) (f : Upd → Upd) : (s.modUpd k f).cur = s.cur := rfl
@[simp] theorem State.modUpd_mem (k : Nat) (f : Upd → Upd) : (s.modUpd k f).mem = s.mem := rfl
@[simp] theorem State.modUpd_gallery (k : Nat) (f : Upd → Upd) : (s.modUpd k f).gallery = s.gallery := rfl
@[simp] theorem State.modUpd_poison (k : Nat) (f : Upd → Upd) : (s.modUpd k f).poison = s.poison := rfl
@[simp] theorem State.modUpd_pend (k : Nat) (f : Upd → Upd) : (s.modUpd k f).pend = s.pend := rfl
@[simp] theorem State.modUpd_tags (k : Nat) (f : Upd → Upd) : (s.modUpd k f).tags = s.tags := rfl
@[simp] theorem State.modUpd_tlb (k : Nat) (f : Upd → Upd) : (s.modUpd k f).tlb = s.tlb := rfl
@[simp] theorem State.modUpd_nextPage (k : Nat) (f : Upd → Upd) : (s.modUpd k f).nextPage = s.nextPage := rfl
@[simp] theorem State.modUpd_teams (k : Nat) (f : Upd → Upd) : (s.modUpd k f).teams = s.teams := rfl
@[simp] theorem State.modUpd_nextTeam (k : Nat) (f : Upd → Upd) : (s.modUpd k f).nextTeam = s.nextTeam := rfl
@[simp] theorem State.modUpd_handlerBank (k : Nat) (f : Upd → Upd) : (s.modUpd k f).handlerBank = s.handlerBank := rfl
@[simp] theorem State.modUpd_lastIssue (k : Nat) (f : Upd → Upd) : (s.modUpd k f).lastIssue = s.lastIssue := rfl
@[simp] theorem State.modUpd_slotCyc (k : Nat) (f : Upd → Upd) : (s.modUpd k f).slotCyc = s.slotCyc := rfl
@[simp] theorem State.modUpd_rills (k : Nat) (f : Upd → Upd) : (s.modUpd k f).rills = s.rills := rfl
@[simp] theorem State.modUpd_engines (k : Nat) (f : Upd → Upd) : (s.modUpd k f).engines = s.engines := rfl
@[simp] theorem State.modUpd_nextOrder (k : Nat) (f : Upd → Upd) : (s.modUpd k f).nextOrder = s.nextOrder := rfl
@[simp] theorem State.modUpd_opps (k : Nat) (f : Upd → Upd) : (s.modUpd k f).opps = s.opps := rfl
@[simp] theorem State.modUpd_vdevs (k : Nat) (f : Upd → Upd) : (s.modUpd k f).vdevs = s.vdevs := rfl
@[simp] theorem State.modUpd_parts (k : Nat) (f : Upd → Upd) : (s.modUpd k f).parts = s.parts := rfl
@[simp] theorem State.modUpd_dies (k : Nat) (f : Upd → Upd) : (s.modUpd k f).dies = s.dies := rfl
@[simp] theorem State.modUpd_stks (k : Nat) (f : Upd → Upd) : (s.modUpd k f).stks = s.stks := rfl
@[simp] theorem State.modUpd_rpoints (k : Nat) (f : Upd → Upd) : (s.modUpd k f).rpoints = s.rpoints := rfl
@[simp] theorem State.modUpd_conss (k : Nat) (f : Upd → Upd) : (s.modUpd k f).conss = s.conss := rfl
@[simp] theorem State.modUpd_csize (k : Nat) (f : Upd → Upd) : (s.modUpd k f).csize = s.csize := rfl
@[simp] theorem State.modUpd_clock (k : Nat) (f : Upd → Upd) : (s.modUpd k f).clock = s.clock := rfl
@[simp] theorem State.modUpd_stepAbt (k : Nat) (f : Upd → Upd) : (s.modUpd k f).stepAbt = s.stepAbt := rfl
@[simp] theorem State.modUpd_preq (k : Nat) (f : Upd → Upd) : (s.modUpd k f).preq = s.preq := rfl
@[simp] theorem State.modUpd_swtick (k : Nat) (f : Upd → Upd) : (s.modUpd k f).swtick = s.swtick := rfl
@[simp] theorem State.modUpd_nextTick (k : Nat) (f : Upd → Upd) : (s.modUpd k f).nextTick = s.nextTick := rfl
@[simp] theorem State.modUpd_nextEval (k : Nat) (f : Upd → Upd) : (s.modUpd k f).nextEval = s.nextEval := rfl
@[simp] theorem State.modUpd_qctl (k : Nat) (f : Upd → Upd) : (s.modUpd k f).qctl = s.qctl := rfl
@[simp] theorem State.modUpd_qaddr (k : Nat) (f : Upd → Upd) : (s.modUpd k f).qaddr = s.qaddr := rfl
@[simp] theorem State.modUpd_qsize (k : Nat) (f : Upd → Upd) : (s.modUpd k f).qsize = s.qsize := rfl
@[simp] theorem State.modUpd_hdm (k : Nat) (f : Upd → Upd) : (s.modUpd k f).hdm = s.hdm := rfl
@[simp] theorem State.modUpd_hostLines (k : Nat) (f : Upd → Upd) : (s.modUpd k f).hostLines = s.hostLines := rfl
@[simp] theorem State.modUpd_cxl (k : Nat) (f : Upd → Upd) : (s.modUpd k f).cxl = s.cxl := rfl
@[simp] theorem State.modUpd_cxlNext (k : Nat) (f : Upd → Upd) : (s.modUpd k f).cxlNext = s.cxlNext := rfl
@[simp] theorem State.modUpd_snoops (k : Nat) (f : Upd → Upd) : (s.modUpd k f).snoops = s.snoops := rfl
@[simp] theorem State.modUpd_hostReads (k : Nat) (f : Upd → Upd) : (s.modUpd k f).hostReads = s.hostReads := rfl
@[simp] theorem State.modUpd_msix (k : Nat) (f : Upd → Upd) : (s.modUpd k f).msix = s.msix := rfl
@[simp] theorem State.modUpd_links (k : Nat) (f : Upd → Upd) : (s.modUpd k f).links = s.links := rfl
@[simp] theorem State.modUpd_reqs (k : Nat) (f : Upd → Upd) : (s.modUpd k f).reqs = s.reqs := rfl
@[simp] theorem State.modUpd_answers (k : Nat) (f : Upd → Upd) : (s.modUpd k f).answers = s.answers := rfl
@[simp] theorem State.modUpd_rhwnode (k : Nat) (f : Upd → Upd) : (s.modUpd k f).rhwnode = s.rhwnode := rfl
@[simp] theorem State.modUpd_power (k : Nat) (f : Upd → Upd) : (s.modUpd k f).power = s.power := rfl
@[simp] theorem State.modUpd_bootstat (k : Nat) (f : Upd → Upd) : (s.modUpd k f).bootstat = s.bootstat := rfl
@[simp] theorem State.modUpd_identity (k : Nat) (f : Upd → Upd) : (s.modUpd k f).identity = s.identity := rfl
@[simp] theorem State.modUpd_flash (k : Nat) (f : Upd → Upd) : (s.modUpd k f).flash = s.flash := rfl
@[simp] theorem State.modUpd_reflash (k : Nat) (f : Upd → Upd) : (s.modUpd k f).reflash = s.reflash := rfl
@[simp] theorem State.modUpd_powerLost (k : Nat) (f : Upd → Upd) : (s.modUpd k f).powerLost = s.powerLost := rfl

/-! modList. -/

@[simp] theorem State.modList_agenda (v l : Nat) (f : SubList → SubList) : (s.modList v l f).agenda = s.agenda := rfl
@[simp] theorem State.modList_turn (v l : Nat) (f : SubList → SubList) : (s.modList v l f).turn = s.turn := rfl
@[simp] theorem State.modList_tick (v l : Nat) (f : SubList → SubList) : (s.modList v l f).tick = s.tick := rfl
@[simp] theorem State.modList_cyc (v l : Nat) (f : SubList → SubList) : (s.modList v l f).cyc = s.cyc := rfl
@[simp] theorem State.modList_ns (v l : Nat) (f : SubList → SubList) : (s.modList v l f).ns = s.ns := rfl
@[simp] theorem State.modList_free (v l : Nat) (f : SubList → SubList) : (s.modList v l f).free = s.free := rfl
@[simp] theorem State.modList_cur (v l : Nat) (f : SubList → SubList) : (s.modList v l f).cur = s.cur := rfl
@[simp] theorem State.modList_mem (v l : Nat) (f : SubList → SubList) : (s.modList v l f).mem = s.mem := rfl
@[simp] theorem State.modList_gallery (v l : Nat) (f : SubList → SubList) : (s.modList v l f).gallery = s.gallery := rfl
@[simp] theorem State.modList_poison (v l : Nat) (f : SubList → SubList) : (s.modList v l f).poison = s.poison := rfl
@[simp] theorem State.modList_pend (v l : Nat) (f : SubList → SubList) : (s.modList v l f).pend = s.pend := rfl
@[simp] theorem State.modList_tags (v l : Nat) (f : SubList → SubList) : (s.modList v l f).tags = s.tags := rfl
@[simp] theorem State.modList_tlb (v l : Nat) (f : SubList → SubList) : (s.modList v l f).tlb = s.tlb := rfl
@[simp] theorem State.modList_nextPage (v l : Nat) (f : SubList → SubList) : (s.modList v l f).nextPage = s.nextPage := rfl
@[simp] theorem State.modList_teams (v l : Nat) (f : SubList → SubList) : (s.modList v l f).teams = s.teams := rfl
@[simp] theorem State.modList_nextTeam (v l : Nat) (f : SubList → SubList) : (s.modList v l f).nextTeam = s.nextTeam := rfl
@[simp] theorem State.modList_handlerBank (v l : Nat) (f : SubList → SubList) : (s.modList v l f).handlerBank = s.handlerBank := rfl
@[simp] theorem State.modList_lastIssue (v l : Nat) (f : SubList → SubList) : (s.modList v l f).lastIssue = s.lastIssue := rfl
@[simp] theorem State.modList_slotCyc (v l : Nat) (f : SubList → SubList) : (s.modList v l f).slotCyc = s.slotCyc := rfl
@[simp] theorem State.modList_rills (v l : Nat) (f : SubList → SubList) : (s.modList v l f).rills = s.rills := rfl
@[simp] theorem State.modList_engines (v l : Nat) (f : SubList → SubList) : (s.modList v l f).engines = s.engines := rfl
@[simp] theorem State.modList_tasks (v l : Nat) (f : SubList → SubList) : (s.modList v l f).tasks = s.tasks := rfl
@[simp] theorem State.modList_nextOrder (v l : Nat) (f : SubList → SubList) : (s.modList v l f).nextOrder = s.nextOrder := rfl
@[simp] theorem State.modList_opps (v l : Nat) (f : SubList → SubList) : (s.modList v l f).opps = s.opps := rfl
@[simp] theorem State.modList_parts (v l : Nat) (f : SubList → SubList) : (s.modList v l f).parts = s.parts := rfl
@[simp] theorem State.modList_dies (v l : Nat) (f : SubList → SubList) : (s.modList v l f).dies = s.dies := rfl
@[simp] theorem State.modList_stks (v l : Nat) (f : SubList → SubList) : (s.modList v l f).stks = s.stks := rfl
@[simp] theorem State.modList_rpoints (v l : Nat) (f : SubList → SubList) : (s.modList v l f).rpoints = s.rpoints := rfl
@[simp] theorem State.modList_conss (v l : Nat) (f : SubList → SubList) : (s.modList v l f).conss = s.conss := rfl
@[simp] theorem State.modList_csize (v l : Nat) (f : SubList → SubList) : (s.modList v l f).csize = s.csize := rfl
@[simp] theorem State.modList_clock (v l : Nat) (f : SubList → SubList) : (s.modList v l f).clock = s.clock := rfl
@[simp] theorem State.modList_stepAbt (v l : Nat) (f : SubList → SubList) : (s.modList v l f).stepAbt = s.stepAbt := rfl
@[simp] theorem State.modList_preq (v l : Nat) (f : SubList → SubList) : (s.modList v l f).preq = s.preq := rfl
@[simp] theorem State.modList_swtick (v l : Nat) (f : SubList → SubList) : (s.modList v l f).swtick = s.swtick := rfl
@[simp] theorem State.modList_nextTick (v l : Nat) (f : SubList → SubList) : (s.modList v l f).nextTick = s.nextTick := rfl
@[simp] theorem State.modList_nextEval (v l : Nat) (f : SubList → SubList) : (s.modList v l f).nextEval = s.nextEval := rfl
@[simp] theorem State.modList_qctl (v l : Nat) (f : SubList → SubList) : (s.modList v l f).qctl = s.qctl := rfl
@[simp] theorem State.modList_qaddr (v l : Nat) (f : SubList → SubList) : (s.modList v l f).qaddr = s.qaddr := rfl
@[simp] theorem State.modList_qsize (v l : Nat) (f : SubList → SubList) : (s.modList v l f).qsize = s.qsize := rfl
@[simp] theorem State.modList_hdm (v l : Nat) (f : SubList → SubList) : (s.modList v l f).hdm = s.hdm := rfl
@[simp] theorem State.modList_hostLines (v l : Nat) (f : SubList → SubList) : (s.modList v l f).hostLines = s.hostLines := rfl
@[simp] theorem State.modList_cxl (v l : Nat) (f : SubList → SubList) : (s.modList v l f).cxl = s.cxl := rfl
@[simp] theorem State.modList_cxlNext (v l : Nat) (f : SubList → SubList) : (s.modList v l f).cxlNext = s.cxlNext := rfl
@[simp] theorem State.modList_snoops (v l : Nat) (f : SubList → SubList) : (s.modList v l f).snoops = s.snoops := rfl
@[simp] theorem State.modList_hostReads (v l : Nat) (f : SubList → SubList) : (s.modList v l f).hostReads = s.hostReads := rfl
@[simp] theorem State.modList_msix (v l : Nat) (f : SubList → SubList) : (s.modList v l f).msix = s.msix := rfl
@[simp] theorem State.modList_links (v l : Nat) (f : SubList → SubList) : (s.modList v l f).links = s.links := rfl
@[simp] theorem State.modList_reqs (v l : Nat) (f : SubList → SubList) : (s.modList v l f).reqs = s.reqs := rfl
@[simp] theorem State.modList_answers (v l : Nat) (f : SubList → SubList) : (s.modList v l f).answers = s.answers := rfl
@[simp] theorem State.modList_rhwnode (v l : Nat) (f : SubList → SubList) : (s.modList v l f).rhwnode = s.rhwnode := rfl
@[simp] theorem State.modList_power (v l : Nat) (f : SubList → SubList) : (s.modList v l f).power = s.power := rfl
@[simp] theorem State.modList_bootstat (v l : Nat) (f : SubList → SubList) : (s.modList v l f).bootstat = s.bootstat := rfl
@[simp] theorem State.modList_identity (v l : Nat) (f : SubList → SubList) : (s.modList v l f).identity = s.identity := rfl
@[simp] theorem State.modList_flash (v l : Nat) (f : SubList → SubList) : (s.modList v l f).flash = s.flash := rfl
@[simp] theorem State.modList_reflash (v l : Nat) (f : SubList → SubList) : (s.modList v l f).reflash = s.reflash := rfl
@[simp] theorem State.modList_powerLost (v l : Nat) (f : SubList → SubList) : (s.modList v l f).powerLost = s.powerLost := rfl

/-! What a unit reads as after an update of one of its kind. -/

theorem State.team_modTeam (k : Nat) (f : Team → Team) (j : Nat) : (s.modTeam k f).team j = if j = k then f (s.team k) else s.team j := Cells.get_modify _ _ k j f
@[simp] theorem State.team_modTeam_self (k : Nat) (f : Team → Team) : (s.modTeam k f).team k = f (s.team k) := Cells.get_modify_self _ _ k f
theorem State.team_modTeam_ne (k : Nat) (f : Team → Team) {j : Nat} (h : j ≠ k) : (s.modTeam k f).team j = s.team j := Cells.get_modify_ne _ _ f h
theorem State.rill_modRill (k : Nat) (f : Rill → Rill) (j : Nat) : (s.modRill k f).rill j = if j = k then f (s.rill k) else s.rill j := Cells.get_modify _ _ k j f
@[simp] theorem State.rill_modRill_self (k : Nat) (f : Rill → Rill) : (s.modRill k f).rill k = f (s.rill k) := Cells.get_modify_self _ _ k f
theorem State.rill_modRill_ne (k : Nat) (f : Rill → Rill) {j : Nat} (h : j ≠ k) : (s.modRill k f).rill j = s.rill j := Cells.get_modify_ne _ _ f h
theorem State.die_modDie (k : Nat) (f : Die → Die) (j : Nat) : (s.modDie k f).die j = if j = k then f (s.die k) else s.die j := Cells.get_modify _ _ k j f
@[simp] theorem State.die_modDie_self (k : Nat) (f : Die → Die) : (s.modDie k f).die k = f (s.die k) := Cells.get_modify_self _ _ k f
theorem State.die_modDie_ne (k : Nat) (f : Die → Die) {j : Nat} (h : j ≠ k) : (s.modDie k f).die j = s.die j := Cells.get_modify_ne _ _ f h
theorem State.vdev_modVdev (k : Nat) (f : Vdev → Vdev) (j : Nat) : (s.modVdev k f).vdev j = if j = k then f (s.vdev k) else s.vdev j := Cells.get_modify _ _ k j f
@[simp] theorem State.vdev_modVdev_self (k : Nat) (f : Vdev → Vdev) : (s.modVdev k f).vdev k = f (s.vdev k) := Cells.get_modify_self _ _ k f
theorem State.vdev_modVdev_ne (k : Nat) (f : Vdev → Vdev) {j : Nat} (h : j ≠ k) : (s.modVdev k f).vdev j = s.vdev j := Cells.get_modify_ne _ _ f h
theorem State.task_modTask (k : Nat) (f : Task → Task) (j : Nat) : (s.modTask k f).task j = if j = k then f (s.task k) else s.task j := Cells.get_modify _ _ k j f
@[simp] theorem State.task_modTask_self (k : Nat) (f : Task → Task) : (s.modTask k f).task k = f (s.task k) := Cells.get_modify_self _ _ k f
theorem State.task_modTask_ne (k : Nat) (f : Task → Task) {j : Nat} (h : j ≠ k) : (s.modTask k f).task j = s.task j := Cells.get_modify_ne _ _ f h
theorem State.stk_modStk (k : Nat) (f : Stack → Stack) (j : Nat) : (s.modStk k f).stk j = if j = k then f (s.stk k) else s.stk j := Cells.get_modify _ _ k j f
@[simp] theorem State.stk_modStk_self (k : Nat) (f : Stack → Stack) : (s.modStk k f).stk k = f (s.stk k) := Cells.get_modify_self _ _ k f
theorem State.stk_modStk_ne (k : Nat) (f : Stack → Stack) {j : Nat} (h : j ≠ k) : (s.modStk k f).stk j = s.stk j := Cells.get_modify_ne _ _ f h
theorem State.rp_modRp (k : Nat) (f : RPoint → RPoint) (j : Nat) : (s.modRp k f).rp j = if j = k then f (s.rp k) else s.rp j := Cells.get_modify _ _ k j f
@[simp] theorem State.rp_modRp_self (k : Nat) (f : RPoint → RPoint) : (s.modRp k f).rp k = f (s.rp k) := Cells.get_modify_self _ _ k f
theorem State.rp_modRp_ne (k : Nat) (f : RPoint → RPoint) {j : Nat} (h : j ≠ k) : (s.modRp k f).rp j = s.rp j := Cells.get_modify_ne _ _ f h
theorem State.cons_modCons (k : Nat) (f : Cons → Cons) (j : Nat) : (s.modCons k f).cons j = if j = k then f (s.cons k) else s.cons j := Cells.get_modify _ _ k j f
@[simp] theorem State.cons_modCons_self (k : Nat) (f : Cons → Cons) : (s.modCons k f).cons k = f (s.cons k) := Cells.get_modify_self _ _ k f
theorem State.cons_modCons_ne (k : Nat) (f : Cons → Cons) {j : Nat} (h : j ≠ k) : (s.modCons k f).cons j = s.cons j := Cells.get_modify_ne _ _ f h
theorem State.engine_modEngine (k : Nat) (f : Engine → Engine) (j : Nat) : (s.modEngine k f).engine j = if j = k then f (s.engine k) else s.engine j := Cells.get_modify _ _ k j f
@[simp] theorem State.engine_modEngine_self (k : Nat) (f : Engine → Engine) : (s.modEngine k f).engine k = f (s.engine k) := Cells.get_modify_self _ _ k f
theorem State.engine_modEngine_ne (k : Nat) (f : Engine → Engine) {j : Nat} (h : j ≠ k) : (s.modEngine k f).engine j = s.engine j := Cells.get_modify_ne _ _ f h
theorem State.link_modLink (k : Nat) (f : LinkEnd → LinkEnd) (j : Nat) : (s.modLink k f).link j = if j = k then f (s.link k) else s.link j := Cells.get_modify _ _ k j f
@[simp] theorem State.link_modLink_self (k : Nat) (f : LinkEnd → LinkEnd) : (s.modLink k f).link k = f (s.link k) := Cells.get_modify_self _ _ k f
theorem State.link_modLink_ne (k : Nat) (f : LinkEnd → LinkEnd) {j : Nat} (h : j ≠ k) : (s.modLink k f).link j = s.link j := Cells.get_modify_ne _ _ f h
theorem State.part_modPart (k : Nat) (f : Part → Part) (j : Nat) : (s.modPart k f).part j = if j = k then f (s.part k) else s.part j := Cells.get_modify _ _ k j f
@[simp] theorem State.part_modPart_self (k : Nat) (f : Part → Part) : (s.modPart k f).part k = f (s.part k) := Cells.get_modify_self _ _ k f
theorem State.part_modPart_ne (k : Nat) (f : Part → Part) {j : Nat} (h : j ≠ k) : (s.modPart k f).part j = s.part j := Cells.get_modify_ne _ _ f h

/-! Units read through others. -/

theorem Team.warp_modWarp (t : Team) (w : Nat) (f : Warp → Warp) (j : Nat) : (t.modWarp w f).warp j = if j = w then f (t.warp w) else t.warp j :=
  Cells.get_modify _ _ w j f
@[simp] theorem Team.warp_modWarp_self (t : Team) (w : Nat) (f : Warp → Warp) : (t.modWarp w f).warp w = f (t.warp w) := Cells.get_modify_self _ _ w f
theorem Warp.thread_modThread (w : Warp) (t : Nat) (f : Thread → Thread) (j : Nat) :
    (w.modThread t f).thread j = if j = t then f (w.thread t) else w.thread j := Cells.get_modify _ _ t j f
@[simp] theorem Warp.thread_modThread_self (w : Warp) (t : Nat) (f : Thread → Thread) : (w.modThread t f).thread t = f (w.thread t) :=
  Cells.get_modify_self _ _ t f
theorem Warp.entry_modEntry (w : Warp) (e : Nat) (f : Path → Path) (j : Nat) :
    (w.modEntry e f).entry j = if j = e then f (w.entry e) else w.entry j := Cells.get_modify _ _ e j f
@[simp] theorem Warp.entry_modEntry_self (w : Warp) (e : Nat) (f : Path → Path) : (w.modEntry e f).entry e = f (w.entry e) :=
  Cells.get_modify_self _ _ e f
@[simp] theorem Warp.entry_modThread (w : Warp) (t : Nat) (f : Thread → Thread) (j : Nat) : (w.modThread t f).entry j = w.entry j := rfl
@[simp] theorem Warp.thread_modEntry (w : Warp) (e : Nat) (f : Path → Path) (j : Nat) : (w.modEntry e f).thread j = w.thread j := rfl

@[simp] theorem Warp.modThread_present (w : Warp) (t : Nat) (f : Thread → Thread) : (w.modThread t f).present = w.present := rfl
@[simp] theorem Warp.modThread_ended (w : Warp) (t : Nat) (f : Thread → Thread) : (w.modThread t f).ended = w.ended := rfl
@[simp] theorem Warp.modThread_v (w : Warp) (t : Nat) (f : Thread → Thread) : (w.modThread t f).v = w.v := rfl
@[simp] theorem Warp.modThread_p (w : Warp) (t : Nat) (f : Thread → Thread) : (w.modThread t f).p = w.p := rfl
@[simp] theorem Warp.modThread_s (w : Warp) (t : Nat) (f : Thread → Thread) : (w.modThread t f).s = w.s := rfl
@[simp] theorem Warp.modThread_q (w : Warp) (t : Nat) (f : Thread → Thread) : (w.modThread t f).q = w.q := rfl
@[simp] theorem Warp.modThread_path (w : Warp) (t : Nat) (f : Thread → Thread) : (w.modThread t f).path = w.path := rfl
@[simp] theorem Warp.modThread_look (w : Warp) (t : Nat) (f : Thread → Thread) : (w.modThread t f).look = w.look := rfl
@[simp] theorem Warp.modThread_spillAge (w : Warp) (t : Nat) (f : Thread → Thread) : (w.modThread t f).spillAge = w.spillAge := rfl
@[simp] theorem Warp.modThread_part (w : Warp) (t : Nat) (f : Thread → Thread) : (w.modThread t f).part = w.part := rfl
@[simp] theorem Warp.modThread_ejt (w : Warp) (t : Nat) (f : Thread → Thread) : (w.modThread t f).ejt = w.ejt := rfl
@[simp] theorem Warp.modThread_rjt (w : Warp) (t : Nat) (f : Thread → Thread) : (w.modThread t f).rjt = w.rjt := rfl
@[simp] theorem Warp.modThread_rg (w : Warp) (t : Nat) (f : Thread → Thread) : (w.modThread t f).rg = w.rg := rfl
@[simp] theorem Warp.modThread_idem (w : Warp) (t : Nat) (f : Thread → Thread) : (w.modThread t f).idem = w.idem := rfl
@[simp] theorem Warp.modThread_idemAt (w : Warp) (t : Nat) (f : Thread → Thread) : (w.modThread t f).idemAt = w.idemAt := rfl
@[simp] theorem Warp.modThread_idemMask (w : Warp) (t : Nat) (f : Thread → Thread) : (w.modThread t f).idemMask = w.idemMask := rfl
@[simp] theorem Warp.modThread_timers (w : Warp) (t : Nat) (f : Thread → Thread) : (w.modThread t f).timers = w.timers := rfl
@[simp] theorem Warp.modThread_stragGroups (w : Warp) (t : Nat) (f : Thread → Thread) : (w.modThread t f).stragGroups = w.stragGroups := rfl
@[simp] theorem Warp.modThread_mirOff (w : Warp) (t : Nat) (f : Thread → Thread) : (w.modThread t f).mirOff = w.mirOff := rfl
@[simp] theorem Warp.modThread_fault (w : Warp) (t : Nat) (f : Thread → Thread) : (w.modThread t f).fault = w.fault := rfl
@[simp] theorem Warp.modThread_handler (w : Warp) (t : Nat) (f : Thread → Thread) : (w.modThread t f).handler = w.handler := rfl
@[simp] theorem Warp.modThread_tcause (w : Warp) (t : Nat) (f : Thread → Thread) : (w.modThread t f).tcause = w.tcause := rfl
@[simp] theorem Warp.modThread_tpc (w : Warp) (t : Nat) (f : Thread → Thread) : (w.modThread t f).tpc = w.tpc := rfl
@[simp] theorem Warp.modThread_tinfo (w : Warp) (t : Nat) (f : Thread → Thread) : (w.modThread t f).tinfo = w.tinfo := rfl
@[simp] theorem Warp.modThread_tinfo2 (w : Warp) (t : Nat) (f : Thread → Thread) : (w.modThread t f).tinfo2 = w.tinfo2 := rfl
@[simp] theorem Warp.modThread_tmask (w : Warp) (t : Nat) (f : Thread → Thread) : (w.modThread t f).tmask = w.tmask := rfl
@[simp] theorem Warp.modThread_tstat (w : Warp) (t : Nat) (f : Thread → Thread) : (w.modThread t f).tstat = w.tstat := rfl
@[simp] theorem Warp.modThread_hwm (w : Warp) (t : Nat) (f : Thread → Thread) : (w.modThread t f).hwm = w.hwm := rfl
@[simp] theorem Warp.modThread_pages (w : Warp) (t : Nat) (f : Thread → Thread) : (w.modThread t f).pages = w.pages := rfl
@[simp] theorem Warp.modEntry_present (w : Warp) (e : Nat) (f : Path → Path) : (w.modEntry e f).present = w.present := rfl
@[simp] theorem Warp.modEntry_ended (w : Warp) (e : Nat) (f : Path → Path) : (w.modEntry e f).ended = w.ended := rfl
@[simp] theorem Warp.modEntry_v (w : Warp) (e : Nat) (f : Path → Path) : (w.modEntry e f).v = w.v := rfl
@[simp] theorem Warp.modEntry_p (w : Warp) (e : Nat) (f : Path → Path) : (w.modEntry e f).p = w.p := rfl
@[simp] theorem Warp.modEntry_s (w : Warp) (e : Nat) (f : Path → Path) : (w.modEntry e f).s = w.s := rfl
@[simp] theorem Warp.modEntry_q (w : Warp) (e : Nat) (f : Path → Path) : (w.modEntry e f).q = w.q := rfl
@[simp] theorem Warp.modEntry_th (w : Warp) (e : Nat) (f : Path → Path) : (w.modEntry e f).th = w.th := rfl
@[simp] theorem Warp.modEntry_look (w : Warp) (e : Nat) (f : Path → Path) : (w.modEntry e f).look = w.look := rfl
@[simp] theorem Warp.modEntry_spillAge (w : Warp) (e : Nat) (f : Path → Path) : (w.modEntry e f).spillAge = w.spillAge := rfl
@[simp] theorem Warp.modEntry_part (w : Warp) (e : Nat) (f : Path → Path) : (w.modEntry e f).part = w.part := rfl
@[simp] theorem Warp.modEntry_ejt (w : Warp) (e : Nat) (f : Path → Path) : (w.modEntry e f).ejt = w.ejt := rfl
@[simp] theorem Warp.modEntry_rjt (w : Warp) (e : Nat) (f : Path → Path) : (w.modEntry e f).rjt = w.rjt := rfl
@[simp] theorem Warp.modEntry_rg (w : Warp) (e : Nat) (f : Path → Path) : (w.modEntry e f).rg = w.rg := rfl
@[simp] theorem Warp.modEntry_idem (w : Warp) (e : Nat) (f : Path → Path) : (w.modEntry e f).idem = w.idem := rfl
@[simp] theorem Warp.modEntry_idemAt (w : Warp) (e : Nat) (f : Path → Path) : (w.modEntry e f).idemAt = w.idemAt := rfl
@[simp] theorem Warp.modEntry_idemMask (w : Warp) (e : Nat) (f : Path → Path) : (w.modEntry e f).idemMask = w.idemMask := rfl
@[simp] theorem Warp.modEntry_timers (w : Warp) (e : Nat) (f : Path → Path) : (w.modEntry e f).timers = w.timers := rfl
@[simp] theorem Warp.modEntry_stragGroups (w : Warp) (e : Nat) (f : Path → Path) : (w.modEntry e f).stragGroups = w.stragGroups := rfl
@[simp] theorem Warp.modEntry_mirOff (w : Warp) (e : Nat) (f : Path → Path) : (w.modEntry e f).mirOff = w.mirOff := rfl
@[simp] theorem Warp.modEntry_fault (w : Warp) (e : Nat) (f : Path → Path) : (w.modEntry e f).fault = w.fault := rfl
@[simp] theorem Warp.modEntry_handler (w : Warp) (e : Nat) (f : Path → Path) : (w.modEntry e f).handler = w.handler := rfl
@[simp] theorem Warp.modEntry_tcause (w : Warp) (e : Nat) (f : Path → Path) : (w.modEntry e f).tcause = w.tcause := rfl
@[simp] theorem Warp.modEntry_tpc (w : Warp) (e : Nat) (f : Path → Path) : (w.modEntry e f).tpc = w.tpc := rfl
@[simp] theorem Warp.modEntry_tinfo (w : Warp) (e : Nat) (f : Path → Path) : (w.modEntry e f).tinfo = w.tinfo := rfl
@[simp] theorem Warp.modEntry_tinfo2 (w : Warp) (e : Nat) (f : Path → Path) : (w.modEntry e f).tinfo2 = w.tinfo2 := rfl
@[simp] theorem Warp.modEntry_tmask (w : Warp) (e : Nat) (f : Path → Path) : (w.modEntry e f).tmask = w.tmask := rfl
@[simp] theorem Warp.modEntry_tstat (w : Warp) (e : Nat) (f : Path → Path) : (w.modEntry e f).tstat = w.tstat := rfl
@[simp] theorem Warp.modEntry_hwm (w : Warp) (e : Nat) (f : Path → Path) : (w.modEntry e f).hwm = w.hwm := rfl
@[simp] theorem Warp.modEntry_pages (w : Warp) (e : Nat) (f : Path → Path) : (w.modEntry e f).pages = w.pages := rfl
@[simp] theorem Team.modWarp_st (w : Team) (x : Nat) (f : Warp → Warp) : (w.modWarp x f).st = w.st := rfl
@[simp] theorem Team.modWarp_task (w : Team) (x : Nat) (f : Warp → Warp) : (w.modWarp x f).task = w.task := rfl
@[simp] theorem Team.modWarp_vdev (w : Team) (x : Nat) (f : Warp → Warp) : (w.modWarp x f).vdev = w.vdev := rfl
@[simp] theorem Team.modWarp_gang (w : Team) (x : Nat) (f : Warp → Warp) : (w.modWarp x f).gang = w.gang := rfl
@[simp] theorem Team.modWarp_pos (w : Team) (x : Nat) (f : Warp → Warp) : (w.modWarp x f).pos = w.pos := rfl
@[simp] theorem Team.modWarp_num (w : Team) (x : Nat) (f : Warp → Warp) : (w.modWarp x f).num = w.num := rfl
@[simp] theorem Team.modWarp_core (w : Team) (x : Nat) (f : Warp → Warp) : (w.modWarp x f).core = w.core := rfl
@[simp] theorem Team.modWarp_wpt (w : Team) (x : Nat) (f : Warp → Warp) : (w.modWarp x f).wpt = w.wpt := rfl
@[simp] theorem Team.modWarp_tpg (w : Team) (x : Nat) (f : Warp → Warp) : (w.modWarp x f).tpg = w.tpg := rfl
@[simp] theorem Team.modWarp_scrk (w : Team) (x : Nat) (f : Warp → Warp) : (w.modWarp x f).scrk = w.scrk := rfl
@[simp] theorem Team.modWarp_spad (w : Team) (x : Nat) (f : Warp → Warp) : (w.modWarp x f).spad = w.spad := rfl
@[simp] theorem Team.modWarp_rv (w : Team) (x : Nat) (f : Warp → Warp) : (w.modWarp x f).rv = w.rv := rfl
@[simp] theorem Team.modWarp_rvCyc (w : Team) (x : Nat) (f : Warp → Warp) : (w.modWarp x f).rvCyc = w.rvCyc := rfl
@[simp] theorem Team.modWarp_stat (w : Team) (x : Nat) (f : Warp → Warp) : (w.modWarp x f).stat = w.stat := rfl
@[simp] theorem Team.modWarp_ch (w : Team) (x : Nat) (f : Warp → Warp) : (w.modWarp x f).ch = w.ch := rfl
@[simp] theorem Team.modWarp_tl (w : Team) (x : Nat) (f : Warp → Warp) : (w.modWarp x f).tl = w.tl := rfl
@[simp] theorem Team.modWarp_tevt (w : Team) (x : Nat) (f : Warp → Warp) : (w.modWarp x f).tevt = w.tevt := rfl
@[simp] theorem Team.modWarp_copies (w : Team) (x : Nat) (f : Warp → Warp) : (w.modWarp x f).copies = w.copies := rfl
@[simp] theorem Team.modWarp_tiles (w : Team) (x : Nat) (f : Warp → Warp) : (w.modWarp x f).tiles = w.tiles := rfl
@[simp] theorem Team.modWarp_sd (w : Team) (x : Nat) (f : Warp → Warp) : (w.modWarp x f).sd = w.sd := rfl
@[simp] theorem Team.modWarp_batch (w : Team) (x : Nat) (f : Warp → Warp) : (w.modWarp x f).batch = w.batch := rfl
@[simp] theorem Team.modWarp_rangeCls (w : Team) (x : Nat) (f : Warp → Warp) : (w.modWarp x f).rangeCls = w.rangeCls := rfl
@[simp] theorem Team.modWarp_tileTicket (w : Team) (x : Nat) (f : Warp → Warp) : (w.modWarp x f).tileTicket = w.tileTicket := rfl
@[simp] theorem Team.modWarp_nb (w : Team) (x : Nat) (f : Warp → Warp) : (w.modWarp x f).nb = w.nb := rfl
@[simp] theorem Team.modWarp_halted (w : Team) (x : Nat) (f : Warp → Warp) : (w.modWarp x f).halted = w.halted := rfl
@[simp] theorem Team.modWarp_asked (w : Team) (x : Nat) (f : Warp → Warp) : (w.modWarp x f).asked = w.asked := rfl
@[simp] theorem Team.modWarp_draining (w : Team) (x : Nat) (f : Warp → Warp) : (w.modWarp x f).draining = w.draining := rfl
@[simp] theorem Team.modWarp_tilesDue (w : Team) (x : Nat) (f : Warp → Warp) : (w.modWarp x f).tilesDue = w.tilesDue := rfl
@[simp] theorem Team.modWarp_record (w : Team) (x : Nat) (f : Warp → Warp) : (w.modWarp x f).record = w.record := rfl
@[simp] theorem Team.modWarp_started (w : Team) (x : Nat) (f : Warp → Warp) : (w.modWarp x f).started = w.started := rfl

theorem State.warp_modWarp (k w : Nat) (f : Warp → Warp) (k' w' : Nat) :
    (s.modWarp k w f).warp k' w' = if k' = k ∧ w' = w then f (s.warp k w) else s.warp k' w' := by
  unfold State.warp State.modWarp
  rw [State.team_modTeam]
  by_cases h : k' = k
  · subst h
    rw [if_pos rfl, Team.warp_modWarp]
    simp
  · simp [h]
@[simp] theorem State.warp_modWarp_self (k w : Nat) (f : Warp → Warp) : (s.modWarp k w f).warp k w = f (s.warp k w) := by simp [State.warp_modWarp]
theorem State.team_modWarp (k w : Nat) (f : Warp → Warp) (j : Nat) :
    (s.modWarp k w f).team j = if j = k then (s.team k).modWarp w f else s.team j := State.team_modTeam s k _ j
@[simp] theorem State.team_modWarp_self (k w : Nat) (f : Warp → Warp) : (s.modWarp k w f).team k = (s.team k).modWarp w f := State.team_modTeam_self s k _

/-! Two updates of one unit. -/

theorem Team.modWarp_modWarp (t : Team) (w : Nat) (f g : Warp → Warp) : (t.modWarp w f).modWarp w g = t.modWarp w fun x => g (f x) := by
  simp only [Team.modWarp, Cells.modify_modify]
theorem Warp.modThread_modThread (w : Warp) (t : Nat) (f g : Thread → Thread) : (w.modThread t f).modThread t g = w.modThread t fun x => g (f x) := by
  simp only [Warp.modThread, Cells.modify_modify]
theorem Warp.modEntry_modEntry (w : Warp) (e : Nat) (f g : Path → Path) : (w.modEntry e f).modEntry e g = w.modEntry e fun x => g (f x) := by
  simp only [Warp.modEntry, Cells.modify_modify]
theorem State.modTeam_modTeam (k : Nat) (f g : Team → Team) : (s.modTeam k f).modTeam k g = s.modTeam k fun x => g (f x) := by
  simp only [State.modTeam, Cells.modify_modify]
theorem State.modWarp_modWarp (k w : Nat) (f g : Warp → Warp) : (s.modWarp k w f).modWarp k w g = s.modWarp k w fun x => g (f x) := by
  simp only [State.modWarp, State.modTeam_modTeam, Team.modWarp_modWarp]
theorem State.modRill_modRill (k : Nat) (f g : Rill → Rill) : (s.modRill k f).modRill k g = s.modRill k fun x => g (f x) := by
  simp only [State.modRill, Cells.modify_modify]
theorem State.modTask_modTask (k : Nat) (f g : Task → Task) : (s.modTask k f).modTask k g = s.modTask k fun x => g (f x) := by
  simp only [State.modTask, Cells.modify_modify]
theorem State.modCons_modCons (k : Nat) (f g : Cons → Cons) : (s.modCons k f).modCons k g = s.modCons k fun x => g (f x) := by
  simp only [State.modCons, Cells.modify_modify]
theorem State.modDie_modDie (k : Nat) (f g : Die → Die) : (s.modDie k f).modDie k g = s.modDie k fun x => g (f x) := by
  simp only [State.modDie, Cells.modify_modify]

/-! Units of another kind read as before. -/

@[simp] theorem State.rill_modTeam (k : Nat) (f : Team → Team) (j : Nat) : (s.modTeam k f).rill j = s.rill j := rfl
@[simp] theorem State.die_modTeam (k : Nat) (f : Team → Team) (j : Nat) : (s.modTeam k f).die j = s.die j := rfl
@[simp] theorem State.vdev_modTeam (k : Nat) (f : Team → Team) (j : Nat) : (s.modTeam k f).vdev j = s.vdev j := rfl
@[simp] theorem State.task_modTeam (k : Nat) (f : Team → Team) (j : Nat) : (s.modTeam k f).task j = s.task j := rfl
@[simp] theorem State.stk_modTeam (k : Nat) (f : Team → Team) (j : Nat) : (s.modTeam k f).stk j = s.stk j := rfl
@[simp] theorem State.rp_modTeam (k : Nat) (f : Team → Team) (j : Nat) : (s.modTeam k f).rp j = s.rp j := rfl
@[simp] theorem State.cons_modTeam (k : Nat) (f : Team → Team) (j : Nat) : (s.modTeam k f).cons j = s.cons j := rfl
@[simp] theorem State.engine_modTeam (k : Nat) (f : Team → Team) (j : Nat) : (s.modTeam k f).engine j = s.engine j := rfl
@[simp] theorem State.link_modTeam (k : Nat) (f : Team → Team) (j : Nat) : (s.modTeam k f).link j = s.link j := rfl
@[simp] theorem State.part_modTeam (k : Nat) (f : Team → Team) (j : Nat) : (s.modTeam k f).part j = s.part j := rfl
@[simp] theorem State.rill_modWarp (k w : Nat) (f : Warp → Warp) (j : Nat) : (s.modWarp k w f).rill j = s.rill j := rfl
@[simp] theorem State.die_modWarp (k w : Nat) (f : Warp → Warp) (j : Nat) : (s.modWarp k w f).die j = s.die j := rfl
@[simp] theorem State.vdev_modWarp (k w : Nat) (f : Warp → Warp) (j : Nat) : (s.modWarp k w f).vdev j = s.vdev j := rfl
@[simp] theorem State.task_modWarp (k w : Nat) (f : Warp → Warp) (j : Nat) : (s.modWarp k w f).task j = s.task j := rfl
@[simp] theorem State.stk_modWarp (k w : Nat) (f : Warp → Warp) (j : Nat) : (s.modWarp k w f).stk j = s.stk j := rfl
@[simp] theorem State.rp_modWarp (k w : Nat) (f : Warp → Warp) (j : Nat) : (s.modWarp k w f).rp j = s.rp j := rfl
@[simp] theorem State.cons_modWarp (k w : Nat) (f : Warp → Warp) (j : Nat) : (s.modWarp k w f).cons j = s.cons j := rfl
@[simp] theorem State.engine_modWarp (k w : Nat) (f : Warp → Warp) (j : Nat) : (s.modWarp k w f).engine j = s.engine j := rfl
@[simp] theorem State.link_modWarp (k w : Nat) (f : Warp → Warp) (j : Nat) : (s.modWarp k w f).link j = s.link j := rfl
@[simp] theorem State.part_modWarp (k w : Nat) (f : Warp → Warp) (j : Nat) : (s.modWarp k w f).part j = s.part j := rfl
@[simp] theorem State.team_modRill (k : Nat) (f : Rill → Rill) (j : Nat) : (s.modRill k f).team j = s.team j := rfl
@[simp] theorem State.die_modRill (k : Nat) (f : Rill → Rill) (j : Nat) : (s.modRill k f).die j = s.die j := rfl
@[simp] theorem State.vdev_modRill (k : Nat) (f : Rill → Rill) (j : Nat) : (s.modRill k f).vdev j = s.vdev j := rfl
@[simp] theorem State.task_modRill (k : Nat) (f : Rill → Rill) (j : Nat) : (s.modRill k f).task j = s.task j := rfl
@[simp] theorem State.stk_modRill (k : Nat) (f : Rill → Rill) (j : Nat) : (s.modRill k f).stk j = s.stk j := rfl
@[simp] theorem State.rp_modRill (k : Nat) (f : Rill → Rill) (j : Nat) : (s.modRill k f).rp j = s.rp j := rfl
@[simp] theorem State.cons_modRill (k : Nat) (f : Rill → Rill) (j : Nat) : (s.modRill k f).cons j = s.cons j := rfl
@[simp] theorem State.engine_modRill (k : Nat) (f : Rill → Rill) (j : Nat) : (s.modRill k f).engine j = s.engine j := rfl
@[simp] theorem State.link_modRill (k : Nat) (f : Rill → Rill) (j : Nat) : (s.modRill k f).link j = s.link j := rfl
@[simp] theorem State.part_modRill (k : Nat) (f : Rill → Rill) (j : Nat) : (s.modRill k f).part j = s.part j := rfl
@[simp] theorem State.team_modDie (k : Nat) (f : Die → Die) (j : Nat) : (s.modDie k f).team j = s.team j := rfl
@[simp] theorem State.rill_modDie (k : Nat) (f : Die → Die) (j : Nat) : (s.modDie k f).rill j = s.rill j := rfl
@[simp] theorem State.vdev_modDie (k : Nat) (f : Die → Die) (j : Nat) : (s.modDie k f).vdev j = s.vdev j := rfl
@[simp] theorem State.task_modDie (k : Nat) (f : Die → Die) (j : Nat) : (s.modDie k f).task j = s.task j := rfl
@[simp] theorem State.stk_modDie (k : Nat) (f : Die → Die) (j : Nat) : (s.modDie k f).stk j = s.stk j := rfl
@[simp] theorem State.rp_modDie (k : Nat) (f : Die → Die) (j : Nat) : (s.modDie k f).rp j = s.rp j := rfl
@[simp] theorem State.cons_modDie (k : Nat) (f : Die → Die) (j : Nat) : (s.modDie k f).cons j = s.cons j := rfl
@[simp] theorem State.engine_modDie (k : Nat) (f : Die → Die) (j : Nat) : (s.modDie k f).engine j = s.engine j := rfl
@[simp] theorem State.link_modDie (k : Nat) (f : Die → Die) (j : Nat) : (s.modDie k f).link j = s.link j := rfl
@[simp] theorem State.part_modDie (k : Nat) (f : Die → Die) (j : Nat) : (s.modDie k f).part j = s.part j := rfl
@[simp] theorem State.team_modVdev (k : Nat) (f : Vdev → Vdev) (j : Nat) : (s.modVdev k f).team j = s.team j := rfl
@[simp] theorem State.rill_modVdev (k : Nat) (f : Vdev → Vdev) (j : Nat) : (s.modVdev k f).rill j = s.rill j := rfl
@[simp] theorem State.die_modVdev (k : Nat) (f : Vdev → Vdev) (j : Nat) : (s.modVdev k f).die j = s.die j := rfl
@[simp] theorem State.task_modVdev (k : Nat) (f : Vdev → Vdev) (j : Nat) : (s.modVdev k f).task j = s.task j := rfl
@[simp] theorem State.stk_modVdev (k : Nat) (f : Vdev → Vdev) (j : Nat) : (s.modVdev k f).stk j = s.stk j := rfl
@[simp] theorem State.rp_modVdev (k : Nat) (f : Vdev → Vdev) (j : Nat) : (s.modVdev k f).rp j = s.rp j := rfl
@[simp] theorem State.cons_modVdev (k : Nat) (f : Vdev → Vdev) (j : Nat) : (s.modVdev k f).cons j = s.cons j := rfl
@[simp] theorem State.engine_modVdev (k : Nat) (f : Vdev → Vdev) (j : Nat) : (s.modVdev k f).engine j = s.engine j := rfl
@[simp] theorem State.link_modVdev (k : Nat) (f : Vdev → Vdev) (j : Nat) : (s.modVdev k f).link j = s.link j := rfl
@[simp] theorem State.part_modVdev (k : Nat) (f : Vdev → Vdev) (j : Nat) : (s.modVdev k f).part j = s.part j := rfl
@[simp] theorem State.team_modTask (k : Nat) (f : Task → Task) (j : Nat) : (s.modTask k f).team j = s.team j := rfl
@[simp] theorem State.rill_modTask (k : Nat) (f : Task → Task) (j : Nat) : (s.modTask k f).rill j = s.rill j := rfl
@[simp] theorem State.die_modTask (k : Nat) (f : Task → Task) (j : Nat) : (s.modTask k f).die j = s.die j := rfl
@[simp] theorem State.vdev_modTask (k : Nat) (f : Task → Task) (j : Nat) : (s.modTask k f).vdev j = s.vdev j := rfl
@[simp] theorem State.stk_modTask (k : Nat) (f : Task → Task) (j : Nat) : (s.modTask k f).stk j = s.stk j := rfl
@[simp] theorem State.rp_modTask (k : Nat) (f : Task → Task) (j : Nat) : (s.modTask k f).rp j = s.rp j := rfl
@[simp] theorem State.cons_modTask (k : Nat) (f : Task → Task) (j : Nat) : (s.modTask k f).cons j = s.cons j := rfl
@[simp] theorem State.engine_modTask (k : Nat) (f : Task → Task) (j : Nat) : (s.modTask k f).engine j = s.engine j := rfl
@[simp] theorem State.link_modTask (k : Nat) (f : Task → Task) (j : Nat) : (s.modTask k f).link j = s.link j := rfl
@[simp] theorem State.part_modTask (k : Nat) (f : Task → Task) (j : Nat) : (s.modTask k f).part j = s.part j := rfl
@[simp] theorem State.team_modLaunch (k : Nat) (f : Launch → Launch) (j : Nat) : (s.modLaunch k f).team j = s.team j := rfl
@[simp] theorem State.rill_modLaunch (k : Nat) (f : Launch → Launch) (j : Nat) : (s.modLaunch k f).rill j = s.rill j := rfl
@[simp] theorem State.die_modLaunch (k : Nat) (f : Launch → Launch) (j : Nat) : (s.modLaunch k f).die j = s.die j := rfl
@[simp] theorem State.vdev_modLaunch (k : Nat) (f : Launch → Launch) (j : Nat) : (s.modLaunch k f).vdev j = s.vdev j := rfl
@[simp] theorem State.stk_modLaunch (k : Nat) (f : Launch → Launch) (j : Nat) : (s.modLaunch k f).stk j = s.stk j := rfl
@[simp] theorem State.rp_modLaunch (k : Nat) (f : Launch → Launch) (j : Nat) : (s.modLaunch k f).rp j = s.rp j := rfl
@[simp] theorem State.cons_modLaunch (k : Nat) (f : Launch → Launch) (j : Nat) : (s.modLaunch k f).cons j = s.cons j := rfl
@[simp] theorem State.engine_modLaunch (k : Nat) (f : Launch → Launch) (j : Nat) : (s.modLaunch k f).engine j = s.engine j := rfl
@[simp] theorem State.link_modLaunch (k : Nat) (f : Launch → Launch) (j : Nat) : (s.modLaunch k f).link j = s.link j := rfl
@[simp] theorem State.part_modLaunch (k : Nat) (f : Launch → Launch) (j : Nat) : (s.modLaunch k f).part j = s.part j := rfl
@[simp] theorem State.team_modStk (k : Nat) (f : Stack → Stack) (j : Nat) : (s.modStk k f).team j = s.team j := rfl
@[simp] theorem State.rill_modStk (k : Nat) (f : Stack → Stack) (j : Nat) : (s.modStk k f).rill j = s.rill j := rfl
@[simp] theorem State.die_modStk (k : Nat) (f : Stack → Stack) (j : Nat) : (s.modStk k f).die j = s.die j := rfl
@[simp] theorem State.vdev_modStk (k : Nat) (f : Stack → Stack) (j : Nat) : (s.modStk k f).vdev j = s.vdev j := rfl
@[simp] theorem State.task_modStk (k : Nat) (f : Stack → Stack) (j : Nat) : (s.modStk k f).task j = s.task j := rfl
@[simp] theorem State.rp_modStk (k : Nat) (f : Stack → Stack) (j : Nat) : (s.modStk k f).rp j = s.rp j := rfl
@[simp] theorem State.cons_modStk (k : Nat) (f : Stack → Stack) (j : Nat) : (s.modStk k f).cons j = s.cons j := rfl
@[simp] theorem State.engine_modStk (k : Nat) (f : Stack → Stack) (j : Nat) : (s.modStk k f).engine j = s.engine j := rfl
@[simp] theorem State.link_modStk (k : Nat) (f : Stack → Stack) (j : Nat) : (s.modStk k f).link j = s.link j := rfl
@[simp] theorem State.part_modStk (k : Nat) (f : Stack → Stack) (j : Nat) : (s.modStk k f).part j = s.part j := rfl
@[simp] theorem State.team_modRp (k : Nat) (f : RPoint → RPoint) (j : Nat) : (s.modRp k f).team j = s.team j := rfl
@[simp] theorem State.rill_modRp (k : Nat) (f : RPoint → RPoint) (j : Nat) : (s.modRp k f).rill j = s.rill j := rfl
@[simp] theorem State.die_modRp (k : Nat) (f : RPoint → RPoint) (j : Nat) : (s.modRp k f).die j = s.die j := rfl
@[simp] theorem State.vdev_modRp (k : Nat) (f : RPoint → RPoint) (j : Nat) : (s.modRp k f).vdev j = s.vdev j := rfl
@[simp] theorem State.task_modRp (k : Nat) (f : RPoint → RPoint) (j : Nat) : (s.modRp k f).task j = s.task j := rfl
@[simp] theorem State.stk_modRp (k : Nat) (f : RPoint → RPoint) (j : Nat) : (s.modRp k f).stk j = s.stk j := rfl
@[simp] theorem State.cons_modRp (k : Nat) (f : RPoint → RPoint) (j : Nat) : (s.modRp k f).cons j = s.cons j := rfl
@[simp] theorem State.engine_modRp (k : Nat) (f : RPoint → RPoint) (j : Nat) : (s.modRp k f).engine j = s.engine j := rfl
@[simp] theorem State.link_modRp (k : Nat) (f : RPoint → RPoint) (j : Nat) : (s.modRp k f).link j = s.link j := rfl
@[simp] theorem State.part_modRp (k : Nat) (f : RPoint → RPoint) (j : Nat) : (s.modRp k f).part j = s.part j := rfl
@[simp] theorem State.team_modCons (k : Nat) (f : Cons → Cons) (j : Nat) : (s.modCons k f).team j = s.team j := rfl
@[simp] theorem State.rill_modCons (k : Nat) (f : Cons → Cons) (j : Nat) : (s.modCons k f).rill j = s.rill j := rfl
@[simp] theorem State.die_modCons (k : Nat) (f : Cons → Cons) (j : Nat) : (s.modCons k f).die j = s.die j := rfl
@[simp] theorem State.vdev_modCons (k : Nat) (f : Cons → Cons) (j : Nat) : (s.modCons k f).vdev j = s.vdev j := rfl
@[simp] theorem State.task_modCons (k : Nat) (f : Cons → Cons) (j : Nat) : (s.modCons k f).task j = s.task j := rfl
@[simp] theorem State.stk_modCons (k : Nat) (f : Cons → Cons) (j : Nat) : (s.modCons k f).stk j = s.stk j := rfl
@[simp] theorem State.rp_modCons (k : Nat) (f : Cons → Cons) (j : Nat) : (s.modCons k f).rp j = s.rp j := rfl
@[simp] theorem State.engine_modCons (k : Nat) (f : Cons → Cons) (j : Nat) : (s.modCons k f).engine j = s.engine j := rfl
@[simp] theorem State.link_modCons (k : Nat) (f : Cons → Cons) (j : Nat) : (s.modCons k f).link j = s.link j := rfl
@[simp] theorem State.part_modCons (k : Nat) (f : Cons → Cons) (j : Nat) : (s.modCons k f).part j = s.part j := rfl
@[simp] theorem State.team_modEngine (k : Nat) (f : Engine → Engine) (j : Nat) : (s.modEngine k f).team j = s.team j := rfl
@[simp] theorem State.rill_modEngine (k : Nat) (f : Engine → Engine) (j : Nat) : (s.modEngine k f).rill j = s.rill j := rfl
@[simp] theorem State.die_modEngine (k : Nat) (f : Engine → Engine) (j : Nat) : (s.modEngine k f).die j = s.die j := rfl
@[simp] theorem State.vdev_modEngine (k : Nat) (f : Engine → Engine) (j : Nat) : (s.modEngine k f).vdev j = s.vdev j := rfl
@[simp] theorem State.task_modEngine (k : Nat) (f : Engine → Engine) (j : Nat) : (s.modEngine k f).task j = s.task j := rfl
@[simp] theorem State.stk_modEngine (k : Nat) (f : Engine → Engine) (j : Nat) : (s.modEngine k f).stk j = s.stk j := rfl
@[simp] theorem State.rp_modEngine (k : Nat) (f : Engine → Engine) (j : Nat) : (s.modEngine k f).rp j = s.rp j := rfl
@[simp] theorem State.cons_modEngine (k : Nat) (f : Engine → Engine) (j : Nat) : (s.modEngine k f).cons j = s.cons j := rfl
@[simp] theorem State.link_modEngine (k : Nat) (f : Engine → Engine) (j : Nat) : (s.modEngine k f).link j = s.link j := rfl
@[simp] theorem State.part_modEngine (k : Nat) (f : Engine → Engine) (j : Nat) : (s.modEngine k f).part j = s.part j := rfl
@[simp] theorem State.team_modLink (k : Nat) (f : LinkEnd → LinkEnd) (j : Nat) : (s.modLink k f).team j = s.team j := rfl
@[simp] theorem State.rill_modLink (k : Nat) (f : LinkEnd → LinkEnd) (j : Nat) : (s.modLink k f).rill j = s.rill j := rfl
@[simp] theorem State.die_modLink (k : Nat) (f : LinkEnd → LinkEnd) (j : Nat) : (s.modLink k f).die j = s.die j := rfl
@[simp] theorem State.vdev_modLink (k : Nat) (f : LinkEnd → LinkEnd) (j : Nat) : (s.modLink k f).vdev j = s.vdev j := rfl
@[simp] theorem State.task_modLink (k : Nat) (f : LinkEnd → LinkEnd) (j : Nat) : (s.modLink k f).task j = s.task j := rfl
@[simp] theorem State.stk_modLink (k : Nat) (f : LinkEnd → LinkEnd) (j : Nat) : (s.modLink k f).stk j = s.stk j := rfl
@[simp] theorem State.rp_modLink (k : Nat) (f : LinkEnd → LinkEnd) (j : Nat) : (s.modLink k f).rp j = s.rp j := rfl
@[simp] theorem State.cons_modLink (k : Nat) (f : LinkEnd → LinkEnd) (j : Nat) : (s.modLink k f).cons j = s.cons j := rfl
@[simp] theorem State.engine_modLink (k : Nat) (f : LinkEnd → LinkEnd) (j : Nat) : (s.modLink k f).engine j = s.engine j := rfl
@[simp] theorem State.part_modLink (k : Nat) (f : LinkEnd → LinkEnd) (j : Nat) : (s.modLink k f).part j = s.part j := rfl
@[simp] theorem State.team_modPart (k : Nat) (f : Part → Part) (j : Nat) : (s.modPart k f).team j = s.team j := rfl
@[simp] theorem State.rill_modPart (k : Nat) (f : Part → Part) (j : Nat) : (s.modPart k f).rill j = s.rill j := rfl
@[simp] theorem State.die_modPart (k : Nat) (f : Part → Part) (j : Nat) : (s.modPart k f).die j = s.die j := rfl
@[simp] theorem State.vdev_modPart (k : Nat) (f : Part → Part) (j : Nat) : (s.modPart k f).vdev j = s.vdev j := rfl
@[simp] theorem State.task_modPart (k : Nat) (f : Part → Part) (j : Nat) : (s.modPart k f).task j = s.task j := rfl
@[simp] theorem State.stk_modPart (k : Nat) (f : Part → Part) (j : Nat) : (s.modPart k f).stk j = s.stk j := rfl
@[simp] theorem State.rp_modPart (k : Nat) (f : Part → Part) (j : Nat) : (s.modPart k f).rp j = s.rp j := rfl
@[simp] theorem State.cons_modPart (k : Nat) (f : Part → Part) (j : Nat) : (s.modPart k f).cons j = s.cons j := rfl
@[simp] theorem State.engine_modPart (k : Nat) (f : Part → Part) (j : Nat) : (s.modPart k f).engine j = s.engine j := rfl
@[simp] theorem State.link_modPart (k : Nat) (f : Part → Part) (j : Nat) : (s.modPart k f).link j = s.link j := rfl

end Sys2Proof.Machine
end

