-- ==== Sys2Proof/Laws/Operands.lean ====
section
/-! SUPPORT. What the drivers of register forms do: the writes of an instruction one by one, the move to the next unit, and the forms that run once. -/

namespace Sys2Proof.Machine

open Sys2Proof

/-! One write. -/

@[simp] theorem Warp.wr_path (w : Warp) (x : Wr) : (w.wr x).path = w.path := by
  cases x <;> simp only [Warp.wr] <;> (try split) <;> rfl
@[simp] theorem Warp.wr_entry (w : Warp) (x : Wr) (e : Nat) : (w.wr x).entry e = w.entry e := by simp [Warp.entry]

/-- A write changes nothing but registers and VSTAT. -/
theorem Warp.wr_frame (w : Warp) (x : Wr) : w.wr x = { w with v := (w.wr x).v, p := (w.wr x).p, s := (w.wr x).s, q := (w.wr x).q, th := (w.wr x).th } := by
  cases x <;> simp only [Warp.wr] <;> (try split) <;> rfl

/-- Writes change nothing but registers and VSTAT. -/
theorem Warp.wrs_frame (w : Warp) (ws : List Wr) :
    ws.foldl Warp.wr w = { w with v := (ws.foldl Warp.wr w).v, p := (ws.foldl Warp.wr w).p, s := (ws.foldl Warp.wr w).s, q := (ws.foldl Warp.wr w).q, th := (ws.foldl Warp.wr w).th } := by
  induction ws generalizing w with
  | nil => rfl
  | cons x ws ih =>
    simp only [List.foldl_cons]
    conv => lhs; rw [ih]
    rw [Warp.wr_frame w x]

@[simp] theorem Warp.wrs_path (w : Warp) (ws : List Wr) : (ws.foldl Warp.wr w).path = w.path := by rw [Warp.wrs_frame]

theorem Rill.wr_frame (r : Rill) (x : Wr) : r.wr x = { r with v := (r.wr x).v, p := (r.wr x).p, s := (r.wr x).s, q := (r.wr x).q, vstat := (r.wr x).vstat } := by
  cases x <;> simp only [Rill.wr] <;> (try split) <;> rfl

theorem Rill.wrs_frame (r : Rill) (ws : List Wr) :
    ws.foldl Rill.wr r = { r with v := (ws.foldl Rill.wr r).v, p := (ws.foldl Rill.wr r).p, s := (ws.foldl Rill.wr r).s, q := (ws.foldl Rill.wr r).q, vstat := (ws.foldl Rill.wr r).vstat } := by
  induction ws generalizing r with
  | nil => rfl
  | cons x ws ih =>
    simp only [List.foldl_cons]
    conv => lhs; rw [ih]
    rw [Rill.wr_frame r x]

/-! Registers after one write. -/

theorem Warp.v_wr (w : Warp) (x : Wr) (k : Nat) :
    Cells.get 0 (w.wr x).v k = match x with | .v t i y => if k = 64 * t + i then y else Cells.get 0 w.v k | _ => Cells.get 0 w.v k := by
  cases x <;> simp only [Warp.wr] <;> first | exact Cells.get_set _ _ _ _ _ | rfl | (split <;> rfl)
theorem Warp.p_wr (w : Warp) (x : Wr) (k : Nat) :
    Cells.get false (w.wr x).p k = match x with | .p t i y => if i ≠ 7 ∧ k = 8 * t + i then y else Cells.get false w.p k | _ => Cells.get false w.p k := by
  cases x with
  | p t i b =>
    simp only [Warp.wr]
    split
    · next h => simp [h]
    · next h => simp [h, Cells.get_set]
  | _ => rfl
theorem Warp.s_wr (w : Warp) (x : Wr) (k : Nat) :
    Cells.get 0 (w.wr x).s k = match x with | .s i y => if k = i then y else Cells.get 0 w.s k | _ => Cells.get 0 w.s k := by
  cases x <;> simp only [Warp.wr] <;> first | exact Cells.get_set _ _ _ _ _ | rfl | (split <;> rfl)
theorem Warp.q_wr (w : Warp) (x : Wr) (k : Nat) :
    Cells.get false (w.wr x).q k = match x with | .q i y => if k = i then y else Cells.get false w.q k | _ => Cells.get false w.q k := by
  cases x <;> simp only [Warp.wr] <;> first | exact Cells.get_set _ _ _ _ _ | rfl | (split <;> rfl)
theorem Warp.thread_wr (w : Warp) (x : Wr) (j : Nat) :
    (w.wr x).thread j = match x with | .vst t m => if j = t then { w.thread j with vstat := (w.thread j).vstat ||| m } else w.thread j | _ => w.thread j := by
  cases x with
  | vst t m => simp only [Warp.wr, Warp.thread_modThread]; split <;> simp_all
  | p t i b => simp only [Warp.wr, Warp.thread]; split <;> rfl
  | _ => rfl

theorem Rill.v_wr (r : Rill) (x : Wr) (k : Nat) :
    Cells.get 0 (r.wr x).v k = match x with | .v _ i y => if k = i then y else Cells.get 0 r.v k | _ => Cells.get 0 r.v k := by
  cases x <;> simp only [Rill.wr] <;> first | exact Cells.get_set _ _ _ _ _ | rfl | (split <;> rfl)
theorem Rill.p_wr (r : Rill) (x : Wr) (k : Nat) :
    Cells.get false (r.wr x).p k = match x with | .p _ i y => if i ≠ 7 ∧ k = i then y else Cells.get false r.p k | _ => Cells.get false r.p k := by
  cases x with
  | p t i b =>
    simp only [Rill.wr]
    split
    · next h => simp [h]
    · next h => simp [h, Cells.get_set]
  | _ => rfl
theorem Rill.s_wr (r : Rill) (x : Wr) (k : Nat) :
    Cells.get 0 (r.wr x).s k = match x with | .s i y => if k = i then y else Cells.get 0 r.s k | _ => Cells.get 0 r.s k := by
  cases x <;> simp only [Rill.wr] <;> first | exact Cells.get_set _ _ _ _ _ | rfl | (split <;> rfl)
theorem Rill.q_wr (r : Rill) (x : Wr) (k : Nat) :
    Cells.get false (r.wr x).q k = match x with | .q i y => if k = i then y else Cells.get false r.q k | _ => Cells.get false r.q k := by
  cases x <;> simp only [Rill.wr] <;> first | exact Cells.get_set _ _ _ _ _ | rfl | (split <;> rfl)
theorem Rill.vstat_wr (r : Rill) (x : Wr) : (r.wr x).vstat = match x with | .vst _ m => r.vstat ||| m | _ => r.vstat := by
  cases x <;> simp only [Rill.wr] <;> (try split) <;> rfl

/-! The writes of several threads: what a thread's own writes fix, the others' leave. -/

/-- Writes that leave a reading of the warp leave it together. -/
theorem foldl_keeps {σ β : Type} (f : σ → Wr → σ) (g : σ → β) (ws : List Wr) (h : ∀ y ∈ ws, ∀ x, g (f x y) = g x) (x : σ) : g (ws.foldl f x) = g x := by
  induction ws generalizing x with
  | nil => rfl
  | cons y ws ih => rw [List.foldl_cons, ih (fun z hz => h z (by simp [hz])), h y (by simp)]

/-- A reading that thread u's writes fix to val, and that no other thread's writes change, is val at the end. -/
theorem foldl_flatMap_fixed {σ β : Type} (f : σ → Wr → σ) (g : σ → β) (b : Nat → List Wr) (ts : List Nat) (u : Nat) (val : β)
    (hne : ∀ t ∈ ts, t ≠ u → ∀ x, g ((b t).foldl f x) = g x) (hu : ∀ x, g ((b u).foldl f x) = val) (hm : u ∈ ts) (x : σ) :
    g ((ts.flatMap b).foldl f x) = val := by
  suffices H : ∀ l : List Nat, (∀ t ∈ l, t ∈ ts) → ∀ x, (u ∈ l ∨ g x = val) → g ((l.flatMap b).foldl f x) = val from H ts (fun _ h => h) x (.inl hm)
  intro l
  induction l with
  | nil => intro _ x h; simpa using h
  | cons t l ih =>
    intro hl x h
    rw [List.flatMap_cons, List.foldl_append]
    apply ih fun z hz => hl z (by simp [hz])
    by_cases ht : t = u
    · subst ht; exact .inr (hu x)
    · rcases h with h | h
      · simp only [List.mem_cons] at h
        rcases h with h | h
        · exact absurd h.symm ht
        · exact .inl h
      · exact .inr (by rw [hne t (hl t (by simp)) ht]; exact h)

/-- A reading that no thread's writes change stays. -/
theorem foldl_flatMap_keeps {σ β : Type} (f : σ → Wr → σ) (g : σ → β) (b : Nat → List Wr) (ts : List Nat)
    (h : ∀ t ∈ ts, ∀ x, g ((b t).foldl f x) = g x) (x : σ) : g ((ts.flatMap b).foldl f x) = g x := by
  induction ts generalizing x with
  | nil => rfl
  | cons t ts ih => rw [List.flatMap_cons, List.foldl_append, ih fun z hz => h z (by simp [hz]), h t (by simp)]

/-! The drivers. -/

/-- The writes of a warp's path, then the next unit, and nothing else. -/
theorem State.finish_warp (s : State) (ws : List Wr) (k w e : Nat) (h : s.cur.agent = .warp k w e) :
    s.finish ws = .next (s.modWarp k w fun x => (ws.foldl Warp.wr x).modEntry e fun p => { p with pc := s.cur.npc, done := 0, hold := .none }) := by
  simp only [State.finish, State.applyWr, h, State.advance, State.modWarp_cur, State.modWarp_modWarp]

/-- The writes of a rill thread, then the next unit, and nothing else. -/
theorem State.finish_rill (s : State) (ws : List Wr) (c : Nat) (h : s.cur.agent = .rill c) :
    s.finish ws = .next (s.modRill c fun r => { ws.foldl Rill.wr r with pc := s.cur.npc, hold := .none }) := by
  simp only [State.finish, State.applyWr, h, State.advance, State.modRill_cur, State.modRill_modRill]

theorem State.inWarp_warp (s : State) (k w e : Nat) (go : State → Out) (h : s.cur.agent = .warp k w e) : s.inWarp go = go s := by
  simp only [State.inWarp, h]

/-- A form that only a warp executes recalls an away thread and has no effect (R163). -/
theorem State.inWarp_rill (s : State) (c : Nat) (go : State → Out) (h : s.cur.agent = .rill c) :
    s.inWarp go = .next (({ s with cur := { s.cur with stop := true } }).recallRill c s.cur.upc none) := by
  simp only [State.inWarp, h]

theorem State.once_warp (s : State) (k w e : Nat) (g : Guard) (go : State → Out) (h : s.cur.agent = .warp k w e) :
    s.once g go = if s.anyActive g then go s else s.finish [] := by
  rw [State.once, State.inWarp_warp s k w e _ h]

theorem State.each_thread (s : State) (g : Guard) (body : State → Nat → List Wr) : s.each false g body = s.finish ((s.active g).flatMap (body s)) := rfl

theorem State.each_uniform (s : State) (k w e : Nat) (g : Guard) (body : State → Nat → List Wr) (h : s.cur.agent = .warp k w e) :
    s.each true g body = s.finish (if s.guardU g then body s s.lowThread else []) := by
  simp only [State.each, if_true, State.inWarp_warp s k w e _ h]

theorem mem_maskList (m : W32) (t : Nat) (h : t ∈ maskList m) : t < 32 := by
  simp only [maskList, threads32, List.mem_filter, List.mem_range] at h
  exact h.1

end Sys2Proof.Machine
end

