-- ==== Sys2Proof/Laws/Frames.lean ====
section
/-! SUPPORT. The frame of finish, through which every form that only writes registers ends: the registers its writes name may change, and nothing else but the issuer's pc. -/

namespace Sys2Proof.Claims

open Sys2Proof Sys2Proof.Machine

theorem active_lt (s : State) (g) (k w e) (h : s.cur.agent = .warp k w e) : ∀ u ∈ s.active g, u < 32 := by
  intro u hu
  simp only [State.active, List.mem_filter, State.pathThreads, h] at hu
  exact mem_maskList _ _ hu.1
theorem active_rill (s : State) (g) (c) (h : s.cur.agent = .rill c) : ∀ u ∈ s.active g, u = (s.rill c).thread := by
  intro u hu
  simp only [State.active, List.mem_filter, State.pathThreads, h] at hu
  simpa using hu.1

/-- The registers a write names; a write of P7 names none (R135). -/
def wrNames : Wr → List Reg
  | .v t i _ => [.v t (BitVec.ofNat 6 i)]
  | .p t i _ => if i = 7 then [] else [.p t (BitVec.ofNat 3 i)]
  | .s i _ => [.s i]
  | .q i _ => [.q i]
  | .vst t _ => [.vst t]
/-- A write names a register there is. -/
def WrOk : Wr → Prop
  | .v _ i _ => i < 64
  | .p _ i _ => i < 8
  | _ => True

/-- regVal in a warp. -/
def wReg (x : Warp) : Reg → W64
    | .v t i => (Cells.get 0 x.v (64 * t + i.toNat)).setWidth 64
    | .p t i => BitVec.ofNat 64 (b2n (Cells.get false x.p (8 * t + i.toNat)))
    | .s i => Cells.get 0 x.s i
    | .q i => BitVec.ofNat 64 (b2n (Cells.get false x.q i))
    | .vst t => (x.thread t).vstat.setWidth 64

/-- regVal in a rill thread. -/
def rReg (x : Rill) : Reg → W64
    | .v t i => if t = x.thread then (Cells.get 0 x.v i.toNat).setWidth 64 else 0
    | .p t i => if t = x.thread then BitVec.ofNat 64 (b2n (Cells.get false x.p i.toNat)) else 0
    | .s i => Cells.get 0 x.s i
    | .q i => BitVec.ofNat 64 (b2n (Cells.get false x.q i))
    | .vst t => if t = x.thread then x.vstat.setWidth 64 else 0

theorem regVal_warp (s : State) (k w e) (h : s.cur.agent = .warp k w e) (r) : regVal s r = wReg (s.warp k w) r := by
  unfold regVal; simp only [h]; cases r <;> rfl
theorem regVal_rill (s : State) (c) (h : s.cur.agent = .rill c) (r) : regVal s r = rReg (s.rill c) r := by
  unfold regVal; simp only [h]; cases r <;> rfl

theorem wReg_wr_other (x : Warp) (y : Wr) (hy : (WrOk y)) (r) (h : r ∉ (wrNames y)) : wReg (x.wr y) r = wReg x r := by
  cases r with
  | v t i =>
    simp only [wReg, Warp.v_wr]
    cases y with
    | v t' i' z =>
      simp only [WrOk] at hy
      simp only [wrNames, List.mem_singleton, Reg.v.injEq, not_and] at h
      have : ¬ (64 * t + i.toNat = 64 * t' + i') := by
        intro he
        have h1 : t = t' := by have := i.isLt; omega
        refine h h1 ?_
        apply BitVec.eq_of_toNat_eq
        rw [BitVec.toNat_ofNat, Nat.mod_eq_of_lt hy]; omega
      simp [this]
    | _ => rfl
  | p t i =>
    simp only [wReg, Warp.p_wr]
    cases y with
    | p t' i' z =>
      simp only [WrOk] at hy
      by_cases h7 : i' = 7
      · simp [h7]
      · simp only [wrNames, if_neg h7, List.mem_singleton, Reg.p.injEq, not_and] at h
        have : ¬ (8 * t + i.toNat = 8 * t' + i') := by
          intro he
          have h1 : t = t' := by have := i.isLt; omega
          refine h h1 ?_
          apply BitVec.eq_of_toNat_eq
          rw [BitVec.toNat_ofNat, Nat.mod_eq_of_lt (by omega)]; omega
        simp [this]
    | _ => rfl
  | s i =>
    simp only [wReg, Warp.s_wr]
    cases y with
    | s i' z => simp only [wrNames, List.mem_singleton, Reg.s.injEq] at h; simp [h]
    | _ => rfl
  | q i =>
    simp only [wReg, Warp.q_wr]
    cases y with
    | q i' z => simp only [wrNames, List.mem_singleton, Reg.q.injEq] at h; simp [h]
    | _ => rfl
  | vst t =>
    simp only [wReg, Warp.thread_wr]
    cases y with
    | vst t' m => simp only [wrNames, List.mem_singleton, Reg.vst.injEq] at h; simp [h]
    | _ => rfl

theorem rReg_wr_other (x : Rill) (y : Wr) (hy : (WrOk y)) (ht : ∀ t, (∃ i z, y = .v t i z) ∨ (∃ i z, y = .p t i z) ∨ (∃ m, y = .vst t m) → t = x.thread)
    (r) (h : r ∉ (wrNames y)) : rReg (x.wr y) r = rReg x r := by
  have hth : (x.wr y).thread = x.thread := by rw [Rill.wr_frame]
  cases r with
  | v t i =>
    simp only [rReg, Rill.v_wr, hth]
    split
    · next htt =>
      cases y with
      | v t' i' z =>
        have := ht t' (.inl ⟨i', z, rfl⟩)
        simp only [WrOk] at hy
        simp only [wrNames, List.mem_singleton, Reg.v.injEq, not_and] at h
        have : ¬ (i.toNat = i') := by
          intro he
          refine h (by omega) ?_
          apply BitVec.eq_of_toNat_eq
          rw [BitVec.toNat_ofNat, Nat.mod_eq_of_lt hy]; omega
        simp [this]
      | _ => rfl
    · rfl
  | p t i =>
    simp only [rReg, Rill.p_wr, hth]
    split
    · next htt =>
      cases y with
      | p t' i' z =>
        have := ht t' (.inr (.inl ⟨i', z, rfl⟩))
        simp only [WrOk] at hy
        by_cases h7 : i' = 7
        · simp [h7]
        · simp only [wrNames, if_neg h7, List.mem_singleton, Reg.p.injEq, not_and] at h
          have : ¬ (i.toNat = i') := by
            intro he
            refine h (by omega) ?_
            apply BitVec.eq_of_toNat_eq
            rw [BitVec.toNat_ofNat, Nat.mod_eq_of_lt (by omega)]; omega
          simp [this]
      | _ => rfl
    · rfl
  | s i =>
    simp only [rReg, Rill.s_wr]
    cases y with
    | s i' z => simp only [wrNames, List.mem_singleton, Reg.s.injEq] at h; simp [h]
    | _ => rfl
  | q i =>
    simp only [rReg, Rill.q_wr]
    cases y with
    | q i' z => simp only [wrNames, List.mem_singleton, Reg.q.injEq] at h; simp [h]
    | _ => rfl
  | vst t =>
    simp only [rReg, Rill.vstat_wr, hth]
    split
    · next htt =>
      cases y with
      | vst t' m =>
        have := ht t' (.inr (.inr ⟨m, rfl⟩))
        simp only [wrNames, List.mem_singleton, Reg.vst.injEq] at h; omega
      | _ => rfl
    · rfl

/-- What finish does to a warp: the writes in order, then the path moves to the next unit. -/
theorem finish_frame_warp (s : State) (ws : List Wr) (k w e) (h : s.cur.agent = .warp k w e) (f : Reg → Prop)
    (hok : ∀ y ∈ ws, (WrOk y)) (hf : ∀ y ∈ ws, ∀ r ∈ (wrNames y), f r) :
    ∃ t, s.finish ws = .next t ∧ t.cur = s.cur ∧ t.warp k w = (ws.foldl Warp.wr (s.warp k w)).modEntry e (fun p => { p with pc := s.cur.npc, done := 0, hold := .none })
      ∧ RegFrame s t f := by
  refine ⟨_, State.finish_warp s ws k w e h, rfl, State.warp_modWarp_self .., ?_⟩
  simp only [RegFrame, MoveFrame, h]
  have hw : ∀ r, regVal (s.modWarp k w fun x => (ws.foldl Warp.wr x).modEntry e fun p => { p with pc := s.cur.npc, done := 0, hold := .none }) r
      = wReg (ws.foldl Warp.wr (s.warp k w)) r := by
    intro r
    rw [regVal_warp _ k w e (by simpa using h), State.warp_modWarp_self]
    cases r <;> rfl
  refine ⟨⟨rfl, ?_, ?_, ?_, ?_⟩, ?_, ?_, ?_, ?_, ?_⟩
  · intro j hj; simp [State.team_modWarp, hj]
  · simp only [State.team_modWarp_self]; rfl
  · intro j hj; simp [State.warp_modWarp, hj]
  · intro a; rfl
  · rw [State.warp_modWarp_self]
    have hy := Warp.wrs_frame (s.warp k w) ws
    generalize ws.foldl Warp.wr (s.warp k w) = y at hy ⊢
    unfold Warp.modEntry
    generalize Cells.modify _ y.path e _ = P
    rw [hy]
  · rw [State.warp_modWarp_self, Warp.entry_modEntry_self]
    simp [Warp.entry]
  · intro j hj; rw [State.warp_modWarp_self, Warp.entry_modEntry, if_neg hj]; simp [Warp.entry]
  · intro j
    rw [State.warp_modWarp_self, Warp.thread_modEntry]
    clear hw hok hf h
    generalize s.warp k w = x
    induction ws generalizing x with
    | nil => rfl
    | cons y ws ih =>
      rw [List.foldl_cons, ih]
      rw [Warp.thread_wr]
      cases y <;> simp only <;> (try split) <;> rfl
  · intro r hr
    rw [hw, regVal_warp s k w e h]
    exact foldl_keeps Warp.wr (fun x => wReg x r) ws (fun y hy x => wReg_wr_other x y (hok y hy) r fun hm => hr (hf y hy r hm)) _

/-- The same in a rill thread. -/
theorem finish_frame_rill (s : State) (ws : List Wr) (c) (h : s.cur.agent = .rill c) (f : Reg → Prop)
    (hok : ∀ y ∈ ws, (WrOk y)) (hf : ∀ y ∈ ws, ∀ r ∈ (wrNames y), f r)
    (ht : ∀ y ∈ ws, ∀ t, (∃ i z, y = .v t i z) ∨ (∃ i z, y = .p t i z) ∨ (∃ m, y = .vst t m) → t = (s.rill c).thread) :
    ∃ t, s.finish ws = .next t ∧ t.cur = s.cur ∧ t.rill c = { ws.foldl Rill.wr (s.rill c) with pc := s.cur.npc, hold := .none }
      ∧ RegFrame s t f := by
  refine ⟨_, State.finish_rill s ws c h, rfl, State.rill_modRill_self .., ?_⟩
  simp only [RegFrame, MoveFrame, h]
  refine ⟨rfl, ?_, ?_, ?_, ?_⟩
  · intro j hj; simp [State.rill_modRill, hj]
  · rw [State.rill_modRill_self]
    conv => lhs; rw [Rill.wrs_frame]
  · intro r hr
    rw [regVal_rill _ c (by simpa using h), regVal_rill s c h, State.rill_modRill_self]
    have : rReg { ws.foldl Rill.wr (s.rill c) with pc := s.cur.npc, hold := .none } r = rReg (ws.foldl Rill.wr (s.rill c)) r := by cases r <;> rfl
    rw [this]
    suffices H : ∀ l : List Wr, (∀ y ∈ l, y ∈ ws) → ∀ x : Rill, x.thread = (s.rill c).thread → rReg (l.foldl Rill.wr x) r = rReg x r from H ws (fun _ h => h) _ rfl
    intro l
    induction l with
    | nil => intro _ x _; rfl
    | cons y l ih =>
      intro hl x hx
      rw [List.foldl_cons, ih (fun z hz => hl z (by simp [hz])) _ (by rw [Rill.wr_frame]; exact hx)]
      exact rReg_wr_other x y (hok y (hl y (by simp))) (fun t h' => by rw [hx]; exact ht y (hl y (by simp)) t h') r fun hm => hr (hf y (hl y (by simp)) r hm)
  · intro a; rfl

end Sys2Proof.Claims
end

