-- ==== Sys2Proof/Laws/Memory.lean ====
section
/-! SUPPORT. Every operation that writes memory keeps its canonical form, and writes the bytes it names and no other. -/

namespace Sys2Proof.Machine

open Sys2Proof

theorem foldl_keep {α β : Type} (f : α → β → α) (P : α → Prop) (l : List β) (h : ∀ x y, P x → P (f x y)) (a : α) (ha : P a) : P (l.foldl f a) := by
  induction l generalizing a with
  | nil => exact ha
  | cons y l ih => exact ih _ (h a y ha)

/-- An update that leaves memory alone, at every entry of a list. -/
theorem foldl_mem {β : Type} (f : State → β → State) (l : List β) (h : ∀ s y, (f s y).mem = s.mem) (s : State) : (l.foldl f s).mem = s.mem := by
  induction l generalizing s with
  | nil => rfl
  | cons y l ih => rw [List.foldl_cons, ih, h]

@[simp] theorem State.mem_backInvalidate (s : State) (pa n : Nat) : (s.backInvalidate pa n).mem = s.mem := rfl

theorem wf_writeLocal (s : State) (h : Home) (bs : List Byte) (hw : Memory.wf s.mem = true) : Memory.wf (s.writeLocal h bs).mem = true := by
  unfold State.writeLocal
  cases h with
  | priv o l =>
    refine foldl_keep _ (fun m => Memory.wf m = true) _ (fun m c hm => Memory.wf_writeByte m _ _ hm) _ ?_
    rw [foldl_mem (fun (s : State) pa => s.backInvalidate pa 4) _ (fun _ _ => rfl)]; exact hw
  | _ => simpa using hw

/-- A walk writes the eight bytes of its entry, or nothing where the access has no entry. -/
theorem State.mem_markPte (s : State) (pa : Nat) (write : Bool) :
    (s.markPte pa write).mem = s.mem ∨ ∃ l, (s.markPte pa write).mem = writeBytes s.mem pa l ∧ l.length = 8 := by
  unfold State.markPte
  split
  · exact .inl rfl
  · exact .inr ⟨_, rfl, by simp⟩
theorem wf_markPte (s : State) (pa : Nat) (write : Bool) (hw : Memory.wf s.mem = true) : Memory.wf (s.markPte pa write).mem = true := by
  obtain h | ⟨l, h, -⟩ := s.mem_markPte pa write
  · rwa [h]
  · rw [h]; exact Memory.wf_writeBytes _ _ _ hw
theorem readByte_markPte (s : State) (pa : Nat) (write : Bool) (a : Nat) (h : a < pa ∨ pa + 8 ≤ a) :
    readByte (s.markPte pa write).mem a = readByte s.mem a := by
  obtain e | ⟨l, e, hl⟩ := s.mem_markPte pa write
  · rw [e]
  · rw [e]; exact readByte_writeBytes_out _ _ _ _ (by omega)

@[simp] theorem State.mem_toHbm (s : State) (k : Nat) : (s.toHbm k).mem = s.mem := by
  unfold State.toHbm
  split <;> rfl

@[simp] theorem State.mem_tagSector (s : State) (v : Nat) (t : Option Nat) (k : Nat) : (s.tagSector v t k).mem = s.mem := by
  unfold State.tagSector
  repeat' split
  all_goals rfl

@[simp] theorem State.mem_takeSnap (s : State) (t p : Nat) : (s.takeSnap t p).mem = s.mem := by
  unfold State.takeSnap
  split <;> rfl

/-- A launch's write puts its bytes at their place, and nothing elsewhere. -/
@[simp] theorem State.mem_performBytes (s : State) (v task pa : Nat) (data : List Byte) :
    (s.performBytes v task pa data).mem = writeBytes s.mem pa data := by
  unfold State.performBytes
  simp only [State.mem_backInvalidate]
  congr 1
  split
  · rw [foldl_mem _ _ (fun s y => by simp)]; simp
  · rfl
theorem wf_performBytes (s : State) (v task pa : Nat) (data : List Byte) (hw : Memory.wf s.mem = true) :
    Memory.wf (s.performBytes v task pa data).mem = true := by
  rw [State.mem_performBytes]; exact Memory.wf_writeBytes _ _ _ hw
theorem readByte_performBytes (s : State) (v task pa : Nat) (data : List Byte) (a : Nat) (h : a < pa ∨ pa + data.length ≤ a) :
    readByte (s.performBytes v task pa data).mem a = readByte s.mem a := by
  rw [State.mem_performBytes]; exact readByte_writeBytes_out _ _ _ _ h

@[simp] theorem State.mem_numberFrom (s : State) (d pa : Nat) (r : List Byte) : (s.numberFrom d pa r).mem = s.mem := by
  unfold State.numberFrom
  split <;> rfl
@[simp] theorem State.mem_numberReq (s : State) (c pa : Nat) (r : List Byte) : (s.numberReq c pa r).mem = s.mem := State.mem_numberFrom ..

/-- A walk for a die leaves the memory that it leaves for any. -/
theorem State.mem_markFrom (s : State) (d pa : Nat) (write : Bool) : (s.markFrom d pa write).mem = (s.markPte pa write).mem := by
  unfold State.markFrom
  split
  · exact State.mem_numberFrom ..
  · rename_i h; unfold State.markPte; simp [h]
theorem wf_markFrom (s : State) (d pa : Nat) (write : Bool) (hw : Memory.wf s.mem = true) : Memory.wf (s.markFrom d pa write).mem = true := by
  rw [State.mem_markFrom]; exact wf_markPte _ _ _ hw
theorem readByte_markFrom (s : State) (d pa : Nat) (write : Bool) (a : Nat) (h : a < pa ∨ pa + 8 ≤ a) :
    readByte (s.markFrom d pa write).mem a = readByte s.mem a := by
  rw [State.mem_markFrom]; exact readByte_markPte _ _ _ _ h

@[simp] theorem State.mem_count (s : State) (k c a b : Nat) (x : Bool) : (s.count k c a b x).mem = s.mem := by
  unfold State.count
  split
  · rfl
  · dsimp only
    repeat' split
    all_goals rfl
theorem wf_performWrite (s : State) (p : Pend) (hw : Memory.wf s.mem = true) : Memory.wf (s.performWrite p).mem = true := by
  unfold State.performWrite
  dsimp only
  repeat' split
  all_goals first
    | exact wf_performBytes _ _ _ _ _ hw
    | (rw [State.mem_count]; exact wf_performBytes _ _ _ _ _ hw)
@[simp] theorem State.mem_answer (s : State) (k w t : Nat) : (s.answer k w t).mem = s.mem := by
  unfold State.answer
  split <;> rfl
theorem wf_performOne (s : State) (p : Pend) (hw : Memory.wf s.mem = true) : Memory.wf (s.performOne p).mem = true := by
  unfold State.performOne
  split
  · exact wf_performWrite _ _ (by rwa [State.mem_numberReq])
  · split
    · exact hw
    · rwa [State.mem_answer]
@[simp] theorem State.mem_pendHeld (s : State) (p : Pend) : (s.pendHeld p).mem = s.mem := by
  unfold State.pendHeld State.snapFull
  dsimp only
  repeat' split
  all_goals rfl
theorem wf_drainList (f : Pend → Bool) (l kept : List Pend) (s : State) (hw : Memory.wf s.mem = true) : Memory.wf (s.drainList f l kept).mem = true := by
  induction l generalizing s kept with
  | nil => exact hw
  | cons p r ih =>
    unfold State.drainList
    repeat' split
    · exact ih _ _ (wf_performOne _ _ hw)
    · exact ih _ _ (by rwa [State.mem_pendHeld])
    · exact ih _ _ hw
theorem wf_drain (s : State) (f : Pend → Bool) (hw : Memory.wf s.mem = true) : Memory.wf (s.drain f).mem = true := wf_drainList _ _ _ _ hw
@[simp] theorem State.mem_journalSector (s : State) (k : Nat) : (s.journalSector k).mem = s.mem := by
  unfold State.journalSector
  dsimp only
  repeat' split
  all_goals rfl
theorem wf_settleChunk (s : State) (pa : Nat) (hw : Memory.wf s.mem = true) : Memory.wf (s.settleChunk pa).mem = true := by
  unfold State.settleChunk State.applyMap
  dsimp only
  repeat' split
  · exact hw
  · show Memory.wf (List.foldl _ _ _ : State).mem = true
    rw [foldl_mem _ _ (fun s y => State.mem_journalSector s y)]; exact wf_drain _ _ hw
  · rw [foldl_mem _ _ (fun s y => State.mem_journalSector s y)]; exact wf_drain _ _ hw
  · exact hw

theorem wf_writeSegs (m : Cells Byte) (l : List (Nat × Nat)) (bs : List Byte) (hw : Memory.wf m = true) : Memory.wf (writeSegs m l bs) = true := by
  induction l generalizing m bs with
  | nil => exact hw
  | cons c l ih => exact ih _ _ (Memory.wf_writeBytes _ _ _ hw)

theorem wf_mapSegs (s : State) (d v : Nat) (write : Bool) (l : List (Nat × Nat)) (r : List (Nat × Nat)) (t : State)
    (hw : Memory.wf s.mem = true) (h : s.mapSegs d v write l = .ok (r, t)) : Memory.wf t.mem = true := by
  induction l generalizing s r with
  | nil => simp only [State.mapSegs, Except.ok.injEq, Prod.mk.injEq] at h; rw [← h.2]; exact hw
  | cons c l ih =>
    unfold State.mapSegs at h
    dsimp only at h
    repeat' split at h
    all_goals first
      | (cases h; done)
      | (rename_i h2; cases h; exact ih _ _ (wf_markFrom _ _ _ _ (wf_settleChunk _ _ hw)) h2)

theorem wf_devRead (s : State) (d v va n : Nat) (bs : List Byte) (t : State) (hw : Memory.wf s.mem = true) (h : s.devRead d v va n = .ok (bs, t)) :
    Memory.wf t.mem = true := by
  unfold State.devRead at h
  split at h
  · cases h
  · rename_i h2; simp only [Except.ok.injEq, Prod.mk.injEq] at h; rw [← h.2]; exact wf_mapSegs _ _ _ _ _ _ _ hw h2
theorem wf_devWrite (s : State) (d v va : Nat) (bs : List Byte) (t : State) (hw : Memory.wf s.mem = true) (h : s.devWrite d v va bs = .ok t) :
    Memory.wf t.mem = true := by
  unfold State.devWrite at h
  split at h
  · cases h
  · rename_i h2
    simp only [Except.ok.injEq] at h
    rw [← h]
    refine wf_writeSegs _ _ _ ?_
    rw [foldl_mem _ _ (fun s y => by simp)]
    exact wf_mapSegs _ _ _ _ _ _ _ hw h2

theorem wf_inboundWrite (s : State) (pa : Nat) (data : List Byte) (hw : Memory.wf s.mem = true) : Memory.wf (s.inboundWrite pa data).mem = true := by
  unfold State.inboundWrite
  dsimp only
  split
  · exact hw
  · exact Memory.wf_writeBytes _ _ _ hw

theorem wf_undoOne (s : State) (r : UndoRec) (hw : Memory.wf s.mem = true) : Memory.wf (s.undoOne r).mem = true := by
  unfold State.undoOne
  rw [State.mem_toHbm]; exact Memory.wf_writeBytes _ _ _ hw

theorem wf_putSnap (s : State) (v : Nat) (p : SnapPage) (hw : Memory.wf s.mem = true) : Memory.wf (s.putSnap v p).mem = true := by
  unfold State.putSnap
  generalize List.range 65536 = L
  generalize List.range 2048 = K
  refine Memory.wf_writeBytes _ _ _ ?_
  rw [foldl_mem _ _ (fun s y => by simp)]; exact hw

theorem wf_dropTags (s : State) (v : Nat) (n : W32) (hw : Memory.wf s.mem = true) : Memory.wf (s.dropTags v n).mem = true :=
  foldl_keep _ (fun m => Memory.wf m = true) _ (fun _ _ hm => by
    split
    · exact hm
    · exact Memory.wf_writeBytes _ _ _ hm) _ hw
theorem wf_replayLines (s : State) (v : Nat) (n : W32) (hw : Memory.wf s.mem = true) : Memory.wf (s.replayLines v n).mem = true :=
  foldl_keep _ (fun m => Memory.wf m = true) _ (fun _ _ hm => Memory.wf_writeBytes _ _ _ hm) _ hw
theorem wf_loseSlices (s : State) (d : Nat) (hw : Memory.wf s.mem = true) : Memory.wf (s.loseSlices d).mem = true :=
  foldl_keep _ (fun m => Memory.wf m = true) _ (fun _ _ hm => by
    split
    · exact hm
    · exact Memory.wf_writeBytes _ _ _ hm) _ hw

theorem wf_ring (s : State) (d q : Nat) (hw : Memory.wf s.mem = true) : Memory.wf (s.ring d q).mem = true := by
  unfold State.ring
  extract_lets e S
  have hS : Memory.wf S.mem = true := by
    simp only [S]
    split
    · exact wf_settleChunk _ _ hw
    · exact hw
  clear_value S
  have hb (a : Nat) (bs : List Byte) : Memory.wf (writeBytes ((S.numberFrom d a []).backInvalidate a 32).mem a bs) = true := by
    rw [State.mem_backInvalidate, State.mem_numberFrom]; exact Memory.wf_writeBytes _ _ _ hS
  dsimp only
  split
  · exact hS
  · split
    · exact hS
    · split <;> exact hb _ _

theorem wf_placedMem (m : Cells Byte) (line : List Byte) (hw : Memory.wf m = true) : Memory.wf (placedMem m line) = true :=
  Memory.wf_writeBytes _ _ _ (Memory.wf_writeBytes _ _ _
    (foldl_keep _ (fun m => Memory.wf m = true) _ (fun _ _ hm => Memory.wf_writeBytes _ _ _ hm) _ hw))

theorem reset_wf : Memory.wf State.reset.mem = true := rfl

end Sys2Proof.Machine
end

