-- ==== Sys2Proof/Laws/PerInstr.lean ====
section
/-! SUPPORT. Statements made for every instruction: the fields that an instruction encodes to decode to it. -/

set_option maxRecDepth 8000

namespace Sys2Proof.Laws.Encoding

/-- Decoding the fields of a well-formed instruction gives it back; a step of the part has no fields. -/
def Statement (i : Instr) : Prop := i.wf = true → ∀ r, i.toRaw = some r → decodeRaw r = .ok i

theorem nop (f : AForm) : Statement (.nop f) := fun hw _ h => by cases h; exact decodeRaw_A (mk := .nop) (by decide) (by decide) rfl hw
theorem bra (f : BForm) : Statement (.bra f) := fun hw _ h => by cases h; exact decodeRaw_B (mk := .bra) (by decide) (by decide) rfl hw
theorem brc (f : BForm) : Statement (.brc f) := fun hw _ h => by cases h; exact decodeRaw_B (mk := .brc) (by decide) (by decide) rfl hw
theorem brx (f : BForm) : Statement (.brx f) := fun hw _ h => by cases h; exact decodeRaw_B (mk := .brx) (by decide) (by decide) rfl hw
theorem call (f : BForm) : Statement (.call f) := fun hw _ h => by cases h; exact decodeRaw_B (mk := .call) (by decide) (by decide) rfl hw
theorem callx (f : BForm) : Statement (.callx f) := fun hw _ h => by cases h; exact decodeRaw_B (mk := .callx) (by decide) (by decide) rfl hw
theorem ret (f : BForm) : Statement (.ret f) := fun hw _ h => by cases h; exact decodeRaw_B (mk := .ret) (by decide) (by decide) rfl hw
theorem exit (f : AForm) : Statement (.exit f) := fun hw _ h => by cases h; exact decodeRaw_A (mk := .exit) (by decide) (by decide) rfl hw
theorem meet (f : BForm) : Statement (.meet f) := fun hw _ h => by cases h; exact decodeRaw_B (mk := .meet) (by decide) (by decide) rfl hw
theorem join (f : AForm) : Statement (.join f) := fun hw _ h => by cases h; exact decodeRaw_A (mk := .join) (by decide) (by decide) rfl hw
theorem yield (f : AForm) : Statement (.yield f) := fun hw _ h => by cases h; exact decodeRaw_A (mk := .yield) (by decide) (by decide) rfl hw
theorem ejcfg (f : AForm) : Statement (.ejcfg f) := fun hw _ h => by cases h; exact decodeRaw_A (mk := .ejcfg) (by decide) (by decide) rfl hw
theorem partn (f : AForm) : Statement (.partn f) := fun hw _ h => by cases h; exact decodeRaw_A (mk := .partn) (by decide) (by decide) rfl hw
theorem idemOn (f : AForm) : Statement (.idemOn f) := fun hw _ h => by cases h; exact decodeRaw_A (mk := .idemOn) (by decide) (by decide) rfl hw
theorem idemOff (f : AForm) : Statement (.idemOff f) := fun hw _ h => by cases h; exact decodeRaw_A (mk := .idemOff) (by decide) (by decide) rfl hw
theorem iadd (f : AForm) : Statement (.iadd f) := fun hw _ h => by cases h; exact decodeRaw_A (mk := .iadd) (by decide) (by decide) rfl hw
theorem isub (f : AForm) : Statement (.isub f) := fun hw _ h => by cases h; exact decodeRaw_A (mk := .isub) (by decide) (by decide) rfl hw
theorem iadc (f : AForm) : Statement (.iadc f) := fun hw _ h => by cases h; exact decodeRaw_A (mk := .iadc) (by decide) (by decide) rfl hw
theorem iadcSb (f : AForm) : Statement (.iadcSb f) := fun hw _ h => by cases h; exact decodeRaw_A (mk := .iadcSb) (by decide) (by decide) rfl hw
theorem imul (f : AForm) : Statement (.imul f) := fun hw _ h => by cases h; exact decodeRaw_A (mk := .imul) (by decide) (by decide) rfl hw
theorem imulh (f : AForm) : Statement (.imulh f) := fun hw _ h => by cases h; exact decodeRaw_A (mk := .imulh) (by decide) (by decide) rfl hw
theorem imad (f : AForm) : Statement (.imad f) := fun hw _ h => by cases h; exact decodeRaw_A (mk := .imad) (by decide) (by decide) rfl hw
theorem idiv (f : AForm) : Statement (.idiv f) := fun hw _ h => by cases h; exact decodeRaw_A (mk := .idiv) (by decide) (by decide) rfl hw
theorem irem (f : AForm) : Statement (.irem f) := fun hw _ h => by cases h; exact decodeRaw_A (mk := .irem) (by decide) (by decide) rfl hw
theorem imin (f : AForm) : Statement (.imin f) := fun hw _ h => by cases h; exact decodeRaw_A (mk := .imin) (by decide) (by decide) rfl hw
theorem imax (f : AForm) : Statement (.imax f) := fun hw _ h => by cases h; exact decodeRaw_A (mk := .imax) (by decide) (by decide) rfl hw
theorem iabs (f : AForm) : Statement (.iabs f) := fun hw _ h => by cases h; exact decodeRaw_A (mk := .iabs) (by decide) (by decide) rfl hw
theorem ineg (f : AForm) : Statement (.ineg f) := fun hw _ h => by cases h; exact decodeRaw_A (mk := .ineg) (by decide) (by decide) rfl hw
theorem iand (f : AForm) : Statement (.iand f) := fun hw _ h => by cases h; exact decodeRaw_A (mk := .iand) (by decide) (by decide) rfl hw
theorem ior (f : AForm) : Statement (.ior f) := fun hw _ h => by cases h; exact decodeRaw_A (mk := .ior) (by decide) (by decide) rfl hw
theorem ixor (f : AForm) : Statement (.ixor f) := fun hw _ h => by cases h; exact decodeRaw_A (mk := .ixor) (by decide) (by decide) rfl hw
theorem inot (f : AForm) : Statement (.inot f) := fun hw _ h => by cases h; exact decodeRaw_A (mk := .inot) (by decide) (by decide) rfl hw
theorem shl (f : AForm) : Statement (.shl f) := fun hw _ h => by cases h; exact decodeRaw_A (mk := .shl) (by decide) (by decide) rfl hw
theorem shr (f : AForm) : Statement (.shr f) := fun hw _ h => by cases h; exact decodeRaw_A (mk := .shr) (by decide) (by decide) rfl hw
theorem sar (f : AForm) : Statement (.sar f) := fun hw _ h => by cases h; exact decodeRaw_A (mk := .sar) (by decide) (by decide) rfl hw
theorem rotl (f : AForm) : Statement (.rotl f) := fun hw _ h => by cases h; exact decodeRaw_A (mk := .rotl) (by decide) (by decide) rfl hw
theorem bfx (f : AForm) : Statement (.bfx f) := fun hw _ h => by cases h; exact decodeRaw_A (mk := .bfx) (by decide) (by decide) rfl hw
theorem bfi (f : AForm) : Statement (.bfi f) := fun hw _ h => by cases h; exact decodeRaw_A (mk := .bfi) (by decide) (by decide) rfl hw
theorem popc (f : AForm) : Statement (.popc f) := fun hw _ h => by cases h; exact decodeRaw_A (mk := .popc) (by decide) (by decide) rfl hw
theorem clz (f : AForm) : Statement (.clz f) := fun hw _ h => by cases h; exact decodeRaw_A (mk := .clz) (by decide) (by decide) rfl hw
theorem brev (f : AForm) : Statement (.brev f) := fun hw _ h => by cases h; exact decodeRaw_A (mk := .brev) (by decide) (by decide) rfl hw
theorem icmp (f : AForm) : Statement (.icmp f) := fun hw _ h => by cases h; exact decodeRaw_A (mk := .icmp) (by decide) (by decide) rfl hw
theorem sel (f : AForm) : Statement (.sel f) := fun hw _ h => by cases h; exact decodeRaw_A (mk := .sel) (by decide) (by decide) rfl hw
theorem lea (f : AForm) : Statement (.lea f) := fun hw _ h => by cases h; exact decodeRaw_A (mk := .lea) (by decide) (by decide) rfl hw
theorem mov (f : AForm) : Statement (.mov f) := fun hw _ h => by cases h; exact decodeRaw_A (mk := .mov) (by decide) (by decide) rfl hw
theorem movi (f : AForm) : Statement (.movi f) := fun hw _ h => by cases h; exact decodeRaw_A (mk := .movi) (by decide) (by decide) rfl hw
theorem movk (lane : BitVec 3) (f : AForm) : Statement (.movk lane f) := fun hw _ h => by
  cases h
  have all : ∀ x : BitVec 3, x = 0 ∨ x = 1 ∨ x = 2 ∨ x = 3 ∨ x = 4 ∨ x = 5 ∨ x = 6 ∨ x = 7 := by decide
  rcases all lane with rfl | rfl | rfl | rfl | rfl | rfl | rfl | rfl <;> exact decodeRaw_A (mk := .movk _) (by decide) (by decide) rfl hw
theorem gets (f : AForm) : Statement (.gets f) := fun hw _ h => by cases h; exact decodeRaw_A (mk := .gets) (by decide) (by decide) rfl hw
theorem sets (f : AForm) : Statement (.sets f) := fun hw _ h => by cases h; exact decodeRaw_A (mk := .sets) (by decide) (by decide) rfl hw
theorem plog (f : AForm) : Statement (.plog f) := fun hw _ h => by cases h; exact decodeRaw_A (mk := .plog) (by decide) (by decide) rfl hw
theorem pmovPk (f : AForm) : Statement (.pmovPk f) := fun hw _ h => by cases h; exact decodeRaw_A (mk := .pmovPk) (by decide) (by decide) rfl hw
theorem pmovUp (f : AForm) : Statement (.pmovUp f) := fun hw _ h => by cases h; exact decodeRaw_A (mk := .pmovUp) (by decide) (by decide) rfl hw
theorem uni (f : AForm) : Statement (.uni f) := fun hw _ h => by cases h; exact decodeRaw_A (mk := .uni) (by decide) (by decide) rfl hw
theorem uniEq (f : AForm) : Statement (.uniEq f) := fun hw _ h => by cases h; exact decodeRaw_A (mk := .uniEq) (by decide) (by decide) rfl hw
theorem fadd (f : AForm) : Statement (.fadd f) := fun hw _ h => by cases h; exact decodeRaw_A (mk := .fadd) (by decide) (by decide) rfl hw
theorem fsub (f : AForm) : Statement (.fsub f) := fun hw _ h => by cases h; exact decodeRaw_A (mk := .fsub) (by decide) (by decide) rfl hw
theorem fmul (f : AForm) : Statement (.fmul f) := fun hw _ h => by cases h; exact decodeRaw_A (mk := .fmul) (by decide) (by decide) rfl hw
theorem fma (f : AForm) : Statement (.fma f) := fun hw _ h => by cases h; exact decodeRaw_A (mk := .fma) (by decide) (by decide) rfl hw
theorem fmin (f : AForm) : Statement (.fmin f) := fun hw _ h => by cases h; exact decodeRaw_A (mk := .fmin) (by decide) (by decide) rfl hw
theorem fmax (f : AForm) : Statement (.fmax f) := fun hw _ h => by cases h; exact decodeRaw_A (mk := .fmax) (by decide) (by decide) rfl hw
theorem fcmp (f : AForm) : Statement (.fcmp f) := fun hw _ h => by cases h; exact decodeRaw_A (mk := .fcmp) (by decide) (by decide) rfl hw
theorem fsel (f : AForm) : Statement (.fsel f) := fun hw _ h => by cases h; exact decodeRaw_A (mk := .fsel) (by decide) (by decide) rfl hw
theorem fcls (f : AForm) : Statement (.fcls f) := fun hw _ h => by cases h; exact decodeRaw_A (mk := .fcls) (by decide) (by decide) rfl hw
theorem fscl (f : AForm) : Statement (.fscl f) := fun hw _ h => by cases h; exact decodeRaw_A (mk := .fscl) (by decide) (by decide) rfl hw
theorem frnd (f : AForm) : Statement (.frnd f) := fun hw _ h => by cases h; exact decodeRaw_A (mk := .frnd) (by decide) (by decide) rfl hw
theorem frcp (f : AForm) : Statement (.frcp f) := fun hw _ h => by cases h; exact decodeRaw_A (mk := .frcp) (by decide) (by decide) rfl hw
theorem frsq (f : AForm) : Statement (.frsq f) := fun hw _ h => by cases h; exact decodeRaw_A (mk := .frsq) (by decide) (by decide) rfl hw
theorem fsqt (f : AForm) : Statement (.fsqt f) := fun hw _ h => by cases h; exact decodeRaw_A (mk := .fsqt) (by decide) (by decide) rfl hw
theorem fdiv (f : AForm) : Statement (.fdiv f) := fun hw _ h => by cases h; exact decodeRaw_A (mk := .fdiv) (by decide) (by decide) rfl hw
theorem fexp (f : AForm) : Statement (.fexp f) := fun hw _ h => by cases h; exact decodeRaw_A (mk := .fexp) (by decide) (by decide) rfl hw
theorem flog (f : AForm) : Statement (.flog f) := fun hw _ h => by cases h; exact decodeRaw_A (mk := .flog) (by decide) (by decide) rfl hw
theorem fsin (f : AForm) : Statement (.fsin f) := fun hw _ h => by cases h; exact decodeRaw_A (mk := .fsin) (by decide) (by decide) rfl hw
theorem fcos (f : AForm) : Statement (.fcos f) := fun hw _ h => by cases h; exact decodeRaw_A (mk := .fcos) (by decide) (by decide) rfl hw
theorem ftnh (f : AForm) : Statement (.ftnh f) := fun hw _ h => by cases h; exact decodeRaw_A (mk := .ftnh) (by decide) (by decide) rfl hw
theorem cvif (f : AForm) : Statement (.cvif f) := fun hw _ h => by cases h; exact decodeRaw_A (mk := .cvif) (by decide) (by decide) rfl hw
theorem cvfi (f : AForm) : Statement (.cvfi f) := fun hw _ h => by cases h; exact decodeRaw_A (mk := .cvfi) (by decide) (by decide) rfl hw
theorem cvccCc (f : AForm) : Statement (.cvccCc f) := fun hw _ h => by cases h; exact decodeRaw_A (mk := .cvccCc) (by decide) (by decide) rfl hw
theorem cvccIn (f : AForm) : Statement (.cvccIn f) := fun hw _ h => by cases h; exact decodeRaw_A (mk := .cvccIn) (by decide) (by decide) rfl hw
theorem cvccOut (f : AForm) : Statement (.cvccOut f) := fun hw _ h => by cases h; exact decodeRaw_A (mk := .cvccOut) (by decide) (by decide) rfl hw
theorem cadd (f : AForm) : Statement (.cadd f) := fun hw _ h => by cases h; exact decodeRaw_A (mk := .cadd) (by decide) (by decide) rfl hw
theorem cfold (f : AForm) : Statement (.cfold f) := fun hw _ h => by cases h; exact decodeRaw_A (mk := .cfold) (by decide) (by decide) rfl hw
theorem fdot4 (f : AForm) : Statement (.fdot4 f) := fun hw _ h => by cases h; exact decodeRaw_A (mk := .fdot4) (by decide) (by decide) rfl hw
theorem amax (f : AForm) : Statement (.amax f) := fun hw _ h => by cases h; exact decodeRaw_A (mk := .amax) (by decide) (by decide) rfl hw
theorem hrandN (f : AForm) : Statement (.hrandN f) := fun hw _ h => by cases h; exact decodeRaw_A (mk := .hrandN) (by decide) (by decide) rfl hw
theorem hrandP (f : AForm) : Statement (.hrandP f) := fun hw _ h => by cases h; exact decodeRaw_A (mk := .hrandP) (by decide) (by decide) rfl hw
theorem hrandU (f : AForm) : Statement (.hrandU f) := fun hw _ h => by cases h; exact decodeRaw_A (mk := .hrandU) (by decide) (by decide) rfl hw
theorem lutb (f : AForm) : Statement (.lutb f) := fun hw _ h => by cases h; exact decodeRaw_A (mk := .lutb) (by decide) (by decide) rfl hw
theorem lutm (f : AForm) : Statement (.lutm f) := fun hw _ h => by cases h; exact decodeRaw_A (mk := .lutm) (by decide) (by decide) rfl hw
theorem shfl (op : ShflOp) (f : AForm) : Statement (.shfl op f) := fun hw _ h => by
  cases h
  cases op <;> exact decodeRaw_A (mk := .shfl _) (by decide) (by decide) rfl hw
theorem vote (op : VoteOp) (f : AForm) : Statement (.vote op f) := fun hw _ h => by
  cases h
  cases op <;> exact decodeRaw_A (mk := .vote _) (by decide) (by decide) rfl hw
theorem redw (op : ReduceOp) (f : AForm) : Statement (.redw op f) := fun hw _ h => by
  cases h
  cases op <;> exact decodeRaw_A (mk := .redw _) (by decide) (by decide) rfl hw
theorem scanw (op : ReduceOp) (f : AForm) : Statement (.scanw op f) := fun hw _ h => by
  cases h
  cases op <;> exact decodeRaw_A (mk := .scanw _) (by decide) (by decide) rfl hw
theorem ld (f : MForm) : Statement (.ld f) := fun hw _ h => by cases h; exact decodeRaw_M (mk := .ld) (by decide) (by decide) rfl hw
theorem st (f : MForm) : Statement (.st f) := fun hw _ h => by cases h; exact decodeRaw_M (mk := .st) (by decide) (by decide) rfl hw
theorem lds (f : MForm) : Statement (.lds f) := fun hw _ h => by cases h; exact decodeRaw_M (mk := .lds) (by decide) (by decide) rfl hw
theorem sts (f : MForm) : Statement (.sts f) := fun hw _ h => by cases h; exact decodeRaw_M (mk := .sts) (by decide) (by decide) rfl hw
theorem ldg (f : MForm) : Statement (.ldg f) := fun hw _ h => by cases h; exact decodeRaw_M (mk := .ldg) (by decide) (by decide) rfl hw
theorem gwin (f : MForm) : Statement (.gwin f) := fun hw _ h => by cases h; exact decodeRaw_M (mk := .gwin) (by decide) (by decide) rfl hw
theorem prfFill (f : MForm) : Statement (.prfFill f) := fun hw _ h => by cases h; exact decodeRaw_M (mk := .prfFill) (by decide) (by decide) rfl hw
theorem prfXlat (f : MForm) : Statement (.prfXlat f) := fun hw _ h => by cases h; exact decodeRaw_M (mk := .prfXlat) (by decide) (by decide) rfl hw
theorem cctlEvict (f : MForm) : Statement (.cctlEvict f) := fun hw _ h => by cases h; exact decodeRaw_M (mk := .cctlEvict) (by decide) (by decide) rfl hw
theorem cctlZero (f : MForm) : Statement (.cctlZero f) := fun hw _ h => by cases h; exact decodeRaw_M (mk := .cctlZero) (by decide) (by decide) rfl hw
theorem cpy (f : KForm) : Statement (.cpy f) := fun hw _ h => by cases h; exact decodeRaw_K (mk := .cpy) (by decide) (by decide) rfl hw
theorem cpym (f : KForm) : Statement (.cpym f) := fun hw _ h => by cases h; exact decodeRaw_K (mk := .cpym) (by decide) (by decide) rfl hw
theorem cpygFrom (f : KForm) : Statement (.cpygFrom f) := fun hw _ h => by cases h; exact decodeRaw_K (mk := .cpygFrom) (by decide) (by decide) rfl hw
theorem cpygTo (f : KForm) : Statement (.cpygTo f) := fun hw _ h => by cases h; exact decodeRaw_K (mk := .cpygTo) (by decide) (by decide) rfl hw
theorem cpygLoad (f : KForm) : Statement (.cpygLoad f) := fun hw _ h => by cases h; exact decodeRaw_K (mk := .cpygLoad) (by decide) (by decide) rfl hw
theorem cpyxPut (f : KForm) : Statement (.cpyxPut f) := fun hw _ h => by cases h; exact decodeRaw_K (mk := .cpyxPut) (by decide) (by decide) rfl hw
theorem cpyxGet (f : KForm) : Statement (.cpyxGet f) := fun hw _ h => by cases h; exact decodeRaw_K (mk := .cpyxGet) (by decide) (by decide) rfl hw
theorem tlw (f : SForm) : Statement (.tlw f) := fun hw _ h => by cases h; exact decodeRaw_S (mk := .tlw) (by decide) (by decide) rfl hw
theorem tlqDone (f : SForm) : Statement (.tlqDone f) := fun hw _ h => by cases h; exact decodeRaw_S (mk := .tlqDone) (by decide) (by decide) rfl hw
theorem tlqIss (f : SForm) : Statement (.tlqIss f) := fun hw _ h => by cases h; exact decodeRaw_S (mk := .tlqIss) (by decide) (by decide) rfl hw
theorem tlmk (f : SForm) : Statement (.tlmk f) := fun hw _ h => by cases h; exact decodeRaw_S (mk := .tlmk) (by decide) (by decide) rfl hw
theorem malcWait (f : XForm) : Statement (.malcWait f) := fun hw _ h => by cases h; exact decodeRaw_X (mk := .malcWait) (by decide) (by decide) rfl hw
theorem malcTry (f : XForm) : Statement (.malcTry f) := fun hw _ h => by cases h; exact decodeRaw_X (mk := .malcTry) (by decide) (by decide) rfl hw
theorem mfre (f : XForm) : Statement (.mfre f) := fun hw _ h => by cases h; exact decodeRaw_X (mk := .mfre) (by decide) (by decide) rfl hw
theorem mzro (f : XForm) : Statement (.mzro f) := fun hw _ h => by cases h; exact decodeRaw_X (mk := .mzro) (by decide) (by decide) rfl hw
theorem meas (f : XForm) : Statement (.meas f) := fun hw _ h => by cases h; exact decodeRaw_X (mk := .meas) (by decide) (by decide) rfl hw
theorem mcvt (f : XForm) : Statement (.mcvt f) := fun hw _ h => by cases h; exact decodeRaw_X (mk := .mcvt) (by decide) (by decide) rfl hw
theorem mldb (f : XForm) : Statement (.mldb f) := fun hw _ h => by cases h; exact decodeRaw_X (mk := .mldb) (by decide) (by decide) rfl hw
theorem mma (f : XForm) : Statement (.mma f) := fun hw _ h => by cases h; exact decodeRaw_X (mk := .mma) (by decide) (by decide) rfl hw
theorem mmat (f : XForm) : Statement (.mmat f) := fun hw _ h => by cases h; exact decodeRaw_X (mk := .mmat) (by decide) (by decide) rfl hw
theorem mdrn (f : XForm) : Statement (.mdrn f) := fun hw _ h => by cases h; exact decodeRaw_X (mk := .mdrn) (by decide) (by decide) rfl hw
theorem msta (word : BitVec 2) (f : XForm) : Statement (.msta word f) := fun hw _ h => by
  cases h
  have all : ∀ x : BitVec 2, x = 0 ∨ x = 1 ∨ x = 2 ∨ x = 3 := by decide
  rcases all word with rfl | rfl | rfl | rfl <;> exact decodeRaw_X (mk := .msta _) (by decide) (by decide) rfl hw
theorem mbatOpen (f : XForm) : Statement (.mbatOpen f) := fun hw _ h => by cases h; exact decodeRaw_X (mk := .mbatOpen) (by decide) (by decide) rfl hw
theorem mbatClose (f : XForm) : Statement (.mbatClose f) := fun hw _ h => by cases h; exact decodeRaw_X (mk := .mbatClose) (by decide) (by decide) rfl hw
theorem msvhCopy (f : XForm) : Statement (.msvhCopy f) := fun hw _ h => by cases h; exact decodeRaw_X (mk := .msvhCopy) (by decide) (by decide) rfl hw
theorem msvhEv (f : XForm) : Statement (.msvhEv f) := fun hw _ h => by cases h; exact decodeRaw_X (mk := .msvhEv) (by decide) (by decide) rfl hw
theorem mrsh (f : XForm) : Statement (.mrsh f) := fun hw _ h => by cases h; exact decodeRaw_X (mk := .mrsh) (by decide) (by decide) rfl hw
theorem fence (f : SForm) : Statement (.fence f) := fun hw _ h => by cases h; exact decodeRaw_S (mk := .fence) (by decide) (by decide) rfl hw
theorem atom (op : AtomOp) (f : MForm) : Statement (.atom op f) := fun hw _ h => by
  cases h
  cases op <;> exact decodeRaw_M (mk := .atom _) (by decide) (by decide) rfl hw
theorem acas (f : MForm) : Statement (.acas f) := fun hw _ h => by cases h; exact decodeRaw_M (mk := .acas) (by decide) (by decide) rfl hw
theorem red (op : RedOp) (f : MForm) : Statement (.red op f) := fun hw _ h => by
  cases h
  cases op <;> exact decodeRaw_M (mk := .red _) (by decide) (by decide) rfl hw
theorem fred (op : FredOp) (f : MForm) : Statement (.fred op f) := fun hw _ h => by
  cases h
  cases op <;> exact decodeRaw_M (mk := .fred _) (by decide) (by decide) rfl hw
theorem rvini (bytes : Bool) (f : SForm) : Statement (.rvini bytes f) := fun hw _ h => by
  cases h
  cases bytes <;> exact decodeRaw_S (mk := .rvini _) (by decide) (by decide) rfl hw
theorem arv (f : SForm) : Statement (.arv f) := fun hw _ h => by cases h; exact decodeRaw_S (mk := .arv) (by decide) (by decide) rfl hw
theorem arvb (f : SForm) : Statement (.arvb f) := fun hw _ h => by cases h; exact decodeRaw_S (mk := .arvb) (by decide) (by decide) rfl hw
theorem rvwt (f : SForm) : Statement (.rvwt f) := fun hw _ h => by cases h; exact decodeRaw_S (mk := .rvwt) (by decide) (by decide) rfl hw
theorem rvtsT (f : SForm) : Statement (.rvtsT f) := fun hw _ h => by cases h; exact decodeRaw_S (mk := .rvtsT) (by decide) (by decide) rfl hw
theorem rvtsPh (f : SForm) : Statement (.rvtsPh f) := fun hw _ h => by cases h; exact decodeRaw_S (mk := .rvtsPh) (by decide) (by decide) rfl hw
theorem qiniInit (f : SForm) : Statement (.qiniInit f) := fun hw _ h => by cases h; exact decodeRaw_S (mk := .qiniInit) (by decide) (by decide) rfl hw
theorem qiniGrant (f : SForm) : Statement (.qiniGrant f) := fun hw _ h => by cases h; exact decodeRaw_S (mk := .qiniGrant) (by decide) (by decide) rfl hw
theorem qpsh (f : SForm) : Statement (.qpsh f) := fun hw _ h => by cases h; exact decodeRaw_S (mk := .qpsh) (by decide) (by decide) rfl hw
theorem qpop (f : SForm) : Statement (.qpop f) := fun hw _ h => by cases h; exact decodeRaw_S (mk := .qpop) (by decide) (by decide) rfl hw
theorem qtryPsh (f : SForm) : Statement (.qtryPsh f) := fun hw _ h => by cases h; exact decodeRaw_S (mk := .qtryPsh) (by decide) (by decide) rfl hw
theorem qtryPop (f : SForm) : Statement (.qtryPop f) := fun hw _ h => by cases h; exact decodeRaw_S (mk := .qtryPop) (by decide) (by decide) rfl hw
theorem syncm (f : SForm) : Statement (.syncm f) := fun hw _ h => by cases h; exact decodeRaw_S (mk := .syncm) (by decide) (by decide) rfl hw
theorem gsyncWait (f : SForm) : Statement (.gsyncWait f) := fun hw _ h => by cases h; exact decodeRaw_S (mk := .gsyncWait) (by decide) (by decide) rfl hw
theorem gsyncNb (f : SForm) : Statement (.gsyncNb f) := fun hw _ h => by cases h; exact decodeRaw_S (mk := .gsyncNb) (by decide) (by decide) rfl hw
theorem tlsig (f : SForm) : Statement (.tlsig f) := fun hw _ h => by cases h; exact decodeRaw_S (mk := .tlsig) (by decide) (by decide) rfl hw
theorem launch (f : SForm) : Statement (.launch f) := fun hw _ h => by cases h; exact decodeRaw_S (mk := .launch) (by decide) (by decide) rfl hw
theorem trap (f : SForm) : Statement (.trap f) := fun hw _ h => by cases h; exact decodeRaw_S (mk := .trap) (by decide) (by decide) rfl hw
theorem eret (f : SForm) : Statement (.eret f) := fun hw _ h => by cases h; exact decodeRaw_S (mk := .eret) (by decide) (by decide) rfl hw
theorem csrr (f : SForm) : Statement (.csrr f) := fun hw _ h => by cases h; exact decodeRaw_S (mk := .csrr) (by decide) (by decide) rfl hw
theorem csrw (f : SForm) : Statement (.csrw f) := fun hw _ h => by cases h; exact decodeRaw_S (mk := .csrw) (by decide) (by decide) rfl hw
theorem killw (f : SForm) : Statement (.killw f) := fun hw _ h => by cases h; exact decodeRaw_S (mk := .killw) (by decide) (by decide) rfl hw
theorem pause (f : SForm) : Statement (.pause f) := fun hw _ h => by cases h; exact decodeRaw_S (mk := .pause) (by decide) (by decide) rfl hw
theorem mirxOff (f : SForm) : Statement (.mirxOff f) := fun hw _ h => by cases h; exact decodeRaw_S (mk := .mirxOff) (by decide) (by decide) rfl hw
theorem mirxOn (f : SForm) : Statement (.mirxOn f) := fun hw _ h => by cases h; exact decodeRaw_S (mk := .mirxOn) (by decide) (by decide) rfl hw
theorem mirxTest (f : SForm) : Statement (.mirxTest f) := fun hw _ h => by cases h; exact decodeRaw_S (mk := .mirxTest) (by decide) (by decide) rfl hw
theorem waitev (f : SForm) : Statement (.waitev f) := fun hw _ h => by cases h; exact decodeRaw_S (mk := .waitev) (by decide) (by decide) rfl hw
theorem rpopn (f : SForm) : Statement (.rpopn f) := fun hw _ h => by cases h; exact decodeRaw_S (mk := .rpopn) (by decide) (by decide) rfl hw
theorem rpseal (f : SForm) : Statement (.rpseal f) := fun hw _ h => by cases h; exact decodeRaw_S (mk := .rpseal) (by decide) (by decide) rfl hw
theorem rpqrySt (f : SForm) : Statement (.rpqrySt f) := fun hw _ h => by cases h; exact decodeRaw_S (mk := .rpqrySt) (by decide) (by decide) rfl hw
theorem rpqryWt (f : SForm) : Statement (.rpqryWt f) := fun hw _ h => by cases h; exact decodeRaw_S (mk := .rpqryWt) (by decide) (by decide) rfl hw
theorem pfxCl (ca cb cc : BitVec 6) : Statement (.pfxCl ca cb cc) := fun _ _ h => decodeRaw_pfxCl h
theorem pfxRg (a : Spec) : Statement (.pfxRg a) := fun hw _ h => decodeRaw_pfxRg h hw
theorem nld (f : NForm) : Statement (.nld f) := fun _ _ h => by cases h
theorem nst (f : NForm) : Statement (.nst f) := fun _ _ h => by cases h
theorem nadd (f : NForm) : Statement (.nadd f) := fun _ _ h => by cases h
theorem naddAddr (f : NForm) : Statement (.naddAddr f) := fun _ _ h => by cases h
theorem nmul (f : NForm) : Statement (.nmul f) := fun _ _ h => by cases h
theorem nfma (f : NForm) : Statement (.nfma f) := fun _ _ h => by cases h
theorem ndiv (f : NForm) : Statement (.ndiv f) := fun _ _ h => by cases h
theorem nsqt (f : NForm) : Statement (.nsqt f) := fun _ _ h => by cases h
theorem nrsq (f : NForm) : Statement (.nrsq f) := fun _ _ h => by cases h
theorem nmax (f : NForm) : Statement (.nmax f) := fun _ _ h => by cases h
theorem nmin (f : NForm) : Statement (.nmin f) := fun _ _ h => by cases h
theorem nscl (f : NForm) : Statement (.nscl f) := fun _ _ h => by cases h
theorem ncvt (f : NForm) : Statement (.ncvt f) := fun _ _ h => by cases h
theorem nloop (f : NForm) : Statement (.nloop f) := fun _ _ h => by cases h
theorem nbrz (f : NForm) : Statement (.nbrz f) := fun _ _ h => by cases h
theorem nsig (f : NForm) : Statement (.nsig f) := fun _ _ h => by cases h
theorem nwait (f : NForm) : Statement (.nwait f) := fun _ _ h => by cases h
theorem ndone (f : NForm) : Statement (.ndone f) := fun _ _ h => by cases h
theorem taskFetch (vdev : Nat) (list : Nat) : Statement (.taskFetch vdev list) := fun _ _ h => by cases h
theorem hwDispatch (die : Nat) (vdev : Nat) : Statement (.hwDispatch die vdev) := fun _ _ h => by cases h
theorem gangPlace (task : Nat) : Statement (.gangPlace task) := fun _ _ h => by cases h
theorem gangRetire (task : Nat) (gang : Nat) : Statement (.gangRetire task gang) := fun _ _ h => by cases h
theorem launchRetire (task : Nat) : Statement (.launchRetire task) := fun _ _ h => by cases h
theorem taskComplete (task : Nat) : Statement (.taskComplete task) := fun _ _ h => by cases h
theorem eventPost (die : Nat) (queue : Nat) : Statement (.eventPost die queue) := fun _ _ h => by cases h
theorem switchTick : Statement (.switchTick) := fun _ _ h => by cases h
theorem partitionChoose (part : Nat) : Statement (.partitionChoose part) := fun _ _ h => by cases h
theorem switchCommit (part : Nat) : Statement (.switchCommit part) := fun _ _ h => by cases h
theorem switchDeadlineMiss (part : Nat) (dies : List Nat) : Statement (.switchDeadlineMiss part dies) := fun _ _ h => by cases h
theorem drainTimeout (team : Nat) : Statement (.drainTimeout team) := fun _ _ h => by cases h
theorem tinvcDone (die : Nat) : Statement (.tinvcDone die) := fun _ _ h => by cases h
theorem hsmapApply (die : Nat) (chunk : Nat) : Statement (.hsmapApply die chunk) := fun _ _ h => by cases h
theorem galleryOpen (die : Nat) : Statement (.galleryOpen die) := fun _ _ h => by cases h
theorem galleryClose (die : Nat) : Statement (.galleryClose die) := fun _ _ h => by cases h
theorem translationFault (die : Nat) : Statement (.translationFault die) := fun _ _ h => by cases h
theorem spillEvict (team : Nat) (warp : Nat) : Statement (.spillEvict team warp) := fun _ _ h => by cases h
theorem meetRelease (team : Nat) (warp : Nat) (addr : W64) : Statement (.meetRelease team warp addr) := fun _ _ h => by cases h
theorem rillRecall (ctx : Nat) : Statement (.rillRecall ctx) := fun _ _ h => by cases h
theorem rillArrive (ctx : Nat) : Statement (.rillArrive ctx) := fun _ _ h => by cases h
theorem rejoinTimeout (team : Nat) (warp : Nat) (addr : W64) : Statement (.rejoinTimeout team warp addr) := fun _ _ h => by cases h
theorem trapDispatch (team : Nat) (warp : Nat) (entry : Nat) : Statement (.trapDispatch team warp entry) := fun _ _ h => by cases h
theorem lineRefetch (team : Nat) (warp : Nat) (entry : Nat) : Statement (.lineRefetch team warp entry) := fun _ _ h => by cases h
theorem copyChunkDone (team : Nat) (num : Nat) (ctx : Nat) : Statement (.copyChunkDone team num ctx) := fun _ _ h => by cases h
theorem matrixGrant (cluster : Nat) (unit : MxUnit) : Statement (.matrixGrant cluster unit) := fun _ _ h => by cases h
theorem matrixOpComplete (cluster : Nat) (unit : MxUnit) : Statement (.matrixOpComplete cluster unit) := fun _ _ h => by cases h
theorem batchComplete (team : Nat) (tile : Nat) : Statement (.batchComplete team tile) := fun _ _ h => by cases h
theorem nsigComplete (cons : Nat) : Statement (.nsigComplete cons) := fun _ _ h => by cases h
theorem updateStart (cons : Nat) : Statement (.updateStart cons) := fun _ _ h => by cases h
theorem undoLogWrite (cons : Nat) : Statement (.undoLogWrite cons) := fun _ _ h => by cases h
theorem updateRollback (task : Nat) : Statement (.updateRollback task) := fun _ _ h => by cases h
theorem stepAbort : Statement (.stepAbort) := fun _ _ h => by cases h
theorem journalWrite (sector : Nat) : Statement (.journalWrite sector) := fun _ _ h => by cases h
theorem sealPoint (vdev : Nat) : Statement (.sealPoint vdev) := fun _ _ h => by cases h
theorem recover (vdev : Nat) : Statement (.recover vdev) := fun _ _ h => by cases h
theorem format (vdev : Nat) : Statement (.format vdev) := fun _ _ h => by cases h
theorem quiesce (vdev : Nat) : Statement (.quiesce vdev) := fun _ _ h => by cases h
theorem resumeFrozen (vdev : Nat) : Statement (.resumeFrozen vdev) := fun _ _ h => by cases h
theorem restoreImage (vdev : Nat) : Statement (.restoreImage vdev) := fun _ _ h => by cases h
theorem flitReceive (link : Nat) (good : Bool) : Statement (.flitReceive link good) := fun _ _ h => by cases h
theorem replayTimeout (link : Nat) : Statement (.replayTimeout link) := fun _ _ h => by cases h
theorem edgeRetrain (edge : Nat) : Statement (.edgeRetrain edge) := fun _ _ h => by cases h
theorem yieldExpire (team : Nat) (warp : Nat) (entry : Nat) : Statement (.yieldExpire team warp entry) := fun _ _ h => by cases h
theorem pauseExpire (team : Nat) (warp : Nat) (entry : Nat) : Statement (.pauseExpire team warp entry) := fun _ _ h => by cases h
theorem guestRequestSaveDone (task : Nat) : Statement (.guestRequestSaveDone task) := fun _ _ h => by cases h
theorem quiesceImageWritten (vdev : Nat) : Statement (.quiesceImageWritten vdev) := fun _ _ h => by cases h
theorem accessPerformedAtHome (index : Nat) : Statement (.accessPerformedAtHome index) := fun _ _ h => by cases h
theorem csrWrite (die : Nat) (tdie : Nat) (off : W64) (val : W64) : Statement (.csrWrite die tdie off val) := fun _ _ h => by cases h
theorem ltailWrite (vdev : Nat) (list : Nat) (val : W64) : Statement (.ltailWrite vdev list val) := fun _ _ h => by cases h
theorem tgdecWrite (die : Nat) (val : W64) : Statement (.tgdecWrite die val) := fun _ _ h => by cases h
theorem dispatchWrite (die : Nat) (val : W64) : Statement (.dispatchWrite die val) := fun _ _ h => by cases h
theorem gstartWrite (die : Nat) (val : W64) : Statement (.gstartWrite die val) := fun _ _ h => by cases h
theorem gexitWrite (die : Nat) (val : W64) : Statement (.gexitWrite die val) := fun _ _ h => by cases h
theorem vdcfgWrite (die : Nat) (vdev : Nat) (val : W64) : Statement (.vdcfgWrite die vdev val) := fun _ _ h => by cases h
theorem preqWrite (die : Nat) (val : W64) : Statement (.preqWrite die val) := fun _ _ h => by cases h
theorem tevpostWrite (die : Nat) (val : W64) : Statement (.tevpostWrite die val) := fun _ _ h => by cases h
theorem tinvcGo (die : Nat) (val : W64) : Statement (.tinvcGo die val) := fun _ _ h => by cases h
theorem hsmapWrite (die : Nat) (reg : Nat) (val : W64) : Statement (.hsmapWrite die reg val) := fun _ _ h => by cases h
theorem cisternWrite (die : Nat) (val : W64) : Statement (.cisternWrite die val) := fun _ _ h => by cases h
theorem galctlWopenWrite (die : Nat) (val : W64) : Statement (.galctlWopenWrite die val) := fun _ _ h => by cases h
theorem galleryRefresh (die : Nat) (group : Nat) : Statement (.galleryRefresh die group) := fun _ _ h => by cases h
theorem pageWalk (vdev : Nat) (region : BitVec 16) (off : W64) (write : Bool) : Statement (.pageWalk vdev region off write) := fun _ _ h => by cases h
theorem fresumeReplay (die : Nat) (slot : Nat) : Statement (.fresumeReplay die slot) := fun _ _ h => by cases h
theorem fresumeTrap (die : Nat) (slot : Nat) : Statement (.fresumeTrap die slot) := fun _ _ h => by cases h
theorem fresumeRollback (die : Nat) (slot : Nat) : Statement (.fresumeRollback die slot) := fun _ _ h => by cases h
theorem machineCheck (task kind : Nat) (site : CheckSite) : Statement (.machineCheck task kind site) := fun _ _ h => by cases h
theorem launchRollback (task : Nat) : Statement (.launchRollback task) := fun _ _ h => by cases h
theorem snapshot (task : Nat) (page : Nat) : Statement (.snapshot task page) := fun _ _ h => by cases h
theorem dieReset (die : Nat) : Statement (.dieReset die) := fun _ _ h => by cases h
theorem flitSend (link : Nat) (flit : Flit) : Statement (.flitSend link flit) := fun _ _ h => by cases h
theorem retrainComplete (edge : Nat) (good : BitVec 4) : Statement (.retrainComplete edge good) := fun _ _ h => by cases h
theorem hdmDecoderWrite (dec : Nat) (base : W64) (size : W64) : Statement (.hdmDecoderWrite dec base size) := fun _ _ h => by cases h
theorem cxlMemWrite (pa : Nat) (data : List Byte) : Statement (.cxlMemWrite pa data) := fun _ _ h => by cases h
theorem cxlMemRead (pa : Nat) (len : Nat) : Statement (.cxlMemRead pa len) := fun _ _ h => by cases h
theorem cxlCompletion (id : Nat) : Statement (.cxlCompletion id) := fun _ _ h => by cases h
theorem cxlLinkError (ids : List Nat) : Statement (.cxlLinkError ids) := fun _ _ h => by cases h
theorem rhawinRetrain (port : Nat) (good : BitVec 2) : Statement (.rhawinRetrain port good) := fun _ _ h => by cases h
theorem rhawinInbound (port : Nat) (peer : Nat) (num : Nat) (pa : Nat) (data : List Byte) : Statement (.rhawinInbound port peer num pa data) := fun _ _ h => by cases h
theorem bind (die : Nat) (vdev : Nat) (obj : W64) (rec : W64) (report : W64) (attest : Bool) : Statement (.bind die vdev obj rec report attest) := fun _ _ h => by cases h
theorem powerOn : Statement (.powerOn) := fun _ _ h => by cases h
theorem powerEval (power : Nat) (temp : Nat) : Statement (.powerEval power temp) := fun _ _ h => by cases h
theorem packagePowerLoss : Statement (.packagePowerLoss) := fun _ _ h => by cases h
theorem hostSnoop (line : Nat) : Statement (.hostSnoop line) := fun _ _ h => by cases h

end Sys2Proof.Laws.Encoding
end

