-- ==== Sys2Proof/Tests/Slice0.lean ====
section
/-! SUPPORT. Tests of the author's own: a witness for every statement that has hypotheses, decode tests on words of the spec, ill-formed terms, and single steps on small states. Expected values come from the spec's rules and worked examples. -/

set_option maxRecDepth 4000
set_option Elab.async false

namespace Sys2Proof.Tests

open Sys2Proof Sys2Proof.Machine Sys2Proof.Claims

/-! Small states: a NOP placed at reset, its one warp of one team in the midst of an issue. -/

/-- A NOP placed at reset: team 1 of task 0, one warp of 32 threads on path 0. -/
def placed : State := State.reset.withFetchWord 96 0x0000_7000_0000_0000_0000_0000
/-- The placed warp issues its first unit. -/
def onWarp : State := { placed with agenda := [], cur := { agent := .warp 1 0 0, npc := 1, age := 1 } }
/-- The warp with other contents. -/
def warpWith (f : Warp → Warp) : State := onWarp.modWarp 1 0 f
/-- The team with other contents. -/
def teamWith (f : Team → Team) : State := onWarp.modTeam 1 f
/-- A rill thread issues: thread 3 of the placed warp, AWAY in context 0. -/
def onRill : State :=
  { ((onWarp.modWarp 1 0 fun x => x.modThread 3 fun y => { y with st := .away }).modRill 0 fun r =>
      { r with used := true, team := 1, warp := 0, thread := 3 }) with cur := { agent := .rill 0, npc := 1, age := 1 } }
/-- v register i. -/
def v (i : Nat) : Spec := ⟨.v, BitVec.ofNat 6 i⟩
/-- s register i. -/
def sr (i : Nat) : Spec := ⟨.s, BitVec.ofNat 6 i⟩
/-- k register i. -/
def kr (i : Nat) : Spec := ⟨.k, BitVec.ofNat 6 i⟩
/-- Predicate or numbered object i. -/
def xr (i : Nat) : Spec := ⟨.x, BitVec.ofNat 6 i⟩
/-- The state a meaning leaves, the one it started from where it stops. -/
def after (i : Instr) (s : State) : State := match exec i s with | .next t => t | _ => s
/-- The state a step leaves. -/
def stepped (s : State) : State := match step s with | .next t => t | _ => s
/-- A meaning completes. -/
def runs (i : Instr) (s : State) : Bool := match exec i s with | .next _ => true | _ => false
/-- The state after the step that runs a word placed at reset. -/
def ran (w : Nat) : State := stepped (State.reset.withFetchWord 96 w)

/-! Integer forms, special registers. -/

theorem onWarp_issues (mu : Bool) : Issues onWarp mu := .inl ⟨1, 0, 0, rfl⟩
theorem onRill_issues : Issues onRill false := .inr ⟨rfl, 0, rfl⟩

theorem witness_integer : intFields (.iadd { restA with dst := v 2, a := v 1, imm := 3, bi := true }) = some { restA with dst := v 2, a := v 1, imm := 3, bi := true }
    ∧ (Instr.iadd { restA with dst := v 2, a := v 1, imm := 3, bi := true }).wf = true ∧ Issues onWarp false ∧ runsIn onWarp false always = List.range 32 :=
  ⟨rfl, by decide, onWarp_issues _, by decide +kernel⟩
theorem witness_integer_rill : Issues onRill false ∧ runsIn onRill false always = [3] := ⟨onRill_issues, by decide +kernel⟩
theorem witness_integer_uniform : (Instr.iadd { restA with dst := sr 2, a := sr 1, b := kr 3, mu := true }).wf = true
    ∧ Issues onWarp true ∧ runsIn onWarp true always = [0] :=
  ⟨by decide, onWarp_issues _, by decide +kernel⟩
/-- A division by v2, which holds 0 in every thread. -/
def divF : AForm := { restA with dst := v 3, a := v 1, b := v 2 }
theorem witness_division : (Instr.idiv divF).wf = true ∧ Issues onWarp divF.mu ∧ (divF.x20 = false ∨ ∀ u ∈ runsIn onWarp divF.mu divF.grd, opB onWarp u divF ≠ 0) :=
  ⟨by decide, onWarp_issues _, .inl rfl⟩
theorem witness_division_nonzero : (Instr.irem { divF with x20 := true, bi := true, b := v 0, imm := 1 }).wf = true
    ∧ ∀ u ∈ runsIn onWarp false always, opB onWarp u { divF with x20 := true, bi := true, b := v 0, imm := 1 } ≠ 0 := ⟨by decide, by decide +kernel⟩
theorem witness_division_zero : (runsIn onWarp false always).any (fun u => opB onWarp u { divF with x20 := true } == 0) = true := by decide +kernel
theorem witness_bitfield : (Instr.bfx { restA with dst := v 2, a := v 1, b := v 3 }).wf = true ∧ (Instr.bfi { restA with dst := v 2, a := v 1, b := v 3, c := v 4 }).wf = true := by decide
theorem witness_carry : (Instr.iadc { restA with dst := v 2, a := v 1, b := v 3, c := xr 6, ty := .n32 }).wf = true
    ∧ (Instr.iadcSb { restA with dst := sr 2, a := sr 1, b := sr 3, c := xr 8, ty := .n64, mu := true }).wf = true := by decide
theorem witness_compare : (Instr.icmp { restA with dst := xr 0, a := v 1, bi := true, fn := 5 }).wf = true
    ∧ (Instr.plog { restA with dst := xr 6, a := xr 1, b := xr 7, c := xr 11, imm := 0xFF }).wf = true := by decide
theorem witness_select_address : (Instr.sel { restA with dst := v 2, a := v 1, b := v 3, c := xr 7 }).wf = true
    ∧ (Instr.lea { restA with dst := v 2, a := v 4, b := v 3, imm := 7 }).wf = true ∧ (Instr.movk 3 { restA with dst := v 2, imm := 9 }).wf = true
    ∧ (Instr.pmovPk { restA with dst := v 2, ty := .n32 }).wf = true ∧ (Instr.pmovUp { restA with a := v 2, ty := .n32 }).wf = true := by decide
theorem witness_uniform : (Instr.uni { restA with dst := sr 2, a := v 1 }).wf = true ∧ (Instr.uniEq { restA with dst := xr 8, a := v 1 }).wf = true
    ∧ (onWarp.active always).head? = some 0 ∧ onWarp.active always ≠ [] := ⟨by decide, by decide, by decide +kernel, by decide +kernel⟩
theorem witness_special_read : (Instr.gets { restA with dst := v 2, a := xr 0 }).wf = true ∧ (Instr.gets { restA with dst := v 2, a := xr 28 }).wf = true
    ∧ (Instr.gets { restA with dst := v 2, a := xr 19, b := v 0 }).wf = true := by decide
/-- v2 and v3 hold NOMEET in every thread. -/
def allOnes : State := warpWith fun x => { x with v := (List.range 32).foldl (fun m t => Cells.set 0 (Cells.set 0 m (64 * t + 2) 0xFFFFFFFF) (64 * t + 3) 0xFFFFFFFF) [] }
theorem witness_special_write : (Instr.sets { restA with dst := xr 8, a := v 2 }).wf = true
    ∧ ∀ u ∈ runsIn allOnes false always, setsValue 8 (allOnes.rdReg u (v 2) true) = true := ⟨by decide, by decide +kernel⟩
theorem witness_special_write_warp : (Instr.sets { restA with dst := xr 9, a := sr 2, mu := true }).wf = true
    ∧ setsValue 9 0 = true ∧ setsValue 9 8 = true ∧ setsValue 9 9 = false ∧ setsValue 10 63 = false ∧ setsValue 10 64 = true ∧ setsValue 10 0x100000 = true
    ∧ setsValue 10 0x100001 = false ∧ setsValue 11 4 = true ∧ setsValue 11 5 = false ∧ setsValue 16 0xFFFF = true ∧ setsValue 16 0x10000 = false := by decide +kernel
theorem witness_special_refused : (Instr.sets { restA with dst := xr 10, a := sr 2, mu := true }).wf = true
    ∧ (runsIn onWarp true always).any (fun u => !setsValue 10 (onWarp.rdReg u (sr 2) true)) = true := ⟨by decide, by decide +kernel⟩

theorem test_iadd_wraps : regVal (after (.iadd { restA with dst := v 2, a := v 2, b := v 3 }) allOnes) (.v 5 2) = 0xFFFFFFFE := by decide +kernel
theorem test_imulh_signed : regVal (after (.imulh { restA with dst := v 2, a := v 2, b := v 3 }) allOnes) (.v 5 2) = 0 := by decide +kernel
theorem test_sar_by_width : regVal (after (.sar { restA with dst := v 4, a := v 2, bi := true, imm := 200 }) allOnes) (.v 5 4) = 0xFFFFFFFF := by decide +kernel
theorem test_idiv_by_zero : regVal (after (.idiv divF) onWarp) (.v 31 3) = 0xFFFFFFFF := by decide +kernel
theorem test_idiv_dz_traps : ((after (.idiv { divF with x20 := true }) onWarp).warp 1 0).tcause = 0 ∧ (((after (.idiv { divF with x20 := true }) onWarp).task 0).status = 0x306) := by decide +kernel
theorem test_iadc_carry_out : regVal (after (.iadc { restA with dst := v 4, a := v 2, b := v 3, c := xr 6, ty := .n32 }) allOnes) (.p 7 6) = 1 := by decide +kernel
theorem test_plog_p7 : regVal (after (.plog { restA with dst := xr 0, a := xr 7, b := xr 1, c := xr 2, imm := 0x10 }) onWarp) (.p 7 0) = 1 := by decide +kernel
theorem test_gets_lane : regVal (after (.gets { restA with dst := v 2, a := xr 0 }) onWarp) (.v 9 2) = 9 := by decide +kernel
theorem test_bfx_signed : regVal (after (.bfx { restA with dst := v 5, a := v 2, b := v 4 }) (allOnes.modWarp 1 0 fun x => { x with v := Cells.set 0 x.v (64 * 6 + 4) 0x0400 })) (.v 6 5) = 0xFFFFFFFF := by decide +kernel
theorem test_uni_takes_lowest : regVal (after (.uni { restA with dst := sr 2, a := v 1 }) (warpWith fun x => { x with v := [(1, 7), (65, 8)] })) (.s 2) = 7 := by decide +kernel

/-! Class forms. Class 3 of the placed launch is FP32 (format 1); with a range of 1 it traps on anything larger. -/

/-- Class 3 bound. -/
def classState (c : ClassB) (s : State) : State := s.modLaunch 0 fun l => { l with cls := Cells.set {} l.cls 3 c }
/-- FP32 1.5 in v1 and 2.0 in v2 of every thread. -/
def reals : Cells W32 := (List.range 32).foldl (fun m t => Cells.set 0 (Cells.set 0 m (64 * t + 1) 0x3FC00000) (64 * t + 2) 0x40000000) []
def fp32 : State := classState { fmt := 1, range := 0x7FEFFFFFFFFFFFFF, satv := 0x4000000000000000 } (warpWith fun x => { x with v := reals })
/-- The same with RANGE 1.0 under policy trap. -/
def ranged : State := classState { fmt := 1, range := 0x3FF0000000000000, rpol := 2 } (warpWith fun x => { x with v := reals })
def fF : AForm := { restA with cls := 3, dst := v 3, a := v 1, b := v 2 }
theorem witness_real : realFields (.fadd fF) = some fF ∧ (Instr.fadd fF).wf = true ∧ Issues fp32 fF.mu ∧ fp32.onRill = false
    ∧ ∀ u ∈ runsIn fp32 fF.mu fF.grd, (delivery fp32 u fF (.fadd fF)).trap = false :=
  ⟨rfl, by decide, .inl ⟨1, 0, 0, rfl⟩, by decide +kernel, by decide +kernel⟩
theorem witness_real_traps : (runsIn ranged fF.mu fF.grd).any (fun u => (delivery ranged u fF (.fadd fF)).trap) = true := by decide +kernel
theorem witness_finite : IsFin (.fin true 3 2) ∧ IsFin (.fin false 0 1) ∧ rat (.fin true 3 2) ≠ 0 ∧ rat (.fin false 0 1) = 0 ∧ rat (.fin true 3 2) < 0
    ∧ 65536 < |rat (.fin true 65537 1)| ∧ (RVal.fin false 0 1).sign = false :=
  ⟨⟨_, _, _, rfl, by decide⟩, ⟨_, _, _, rfl, by decide⟩, by norm_num [rat], by norm_num [rat], by norm_num [rat], by norm_num [rat], rfl⟩
theorem witness_convert : (convertFF false 1 (.fin true 3 2)).2.sat = false ∧ (convertFF false 6 (.fin false 1 (2 ^ 40))).2.sat = false := by decide +kernel
theorem witness_class_tests : (Instr.fcmp { fF with dst := xr 0, fn := 7 }).wf = true ∧ (Instr.hrandP { restA with dst := xr 0, a := v 2, b := sr 1, imm := 255 }).wf = true
    ∧ (Instr.fcls { fF with b := v 0 }).wf = true ∧ (Instr.hrandN { restA with dst := v 3, a := v 2, b := kr 1 }).wf = true
    ∧ (Instr.cvfi { fF with b := v 0, fn := 4 }).wf = true ∧ (Instr.cvccOut { fF with b := v 0, imm := 9 }).wf = true := by decide
theorem witness_nan_order : (RVal.nan false 1 true).isNan = true := rfl
def lutF : AForm := { restA with cls := 3, mu := true, a := sr 9, b := sr 4, dst := sr 8 }
theorem witness_lutb : (Instr.lutb { lutF with dst := sr 16 }).wf = true ∧ fp32.guardU always = true
    ∧ ∀ j, j < 16 → (roundClass (fp32.cls 3) (rMul (decodeFF 2 ((fp32.rdS (4 + j / 4)).toNat / 2 ^ (16 * (j % 4)) % 2 ^ 16)) (fp32.rdCls fp32.lowThread (sr 9) 3))).trap = false :=
  ⟨by decide, by decide +kernel, by decide +kernel⟩

theorem test_fadd : regVal (after (.fadd fF) fp32) (.v 4 3) = 0x40600000 := by decide +kernel
theorem test_fma_exact : regVal (after (.fma { fF with c := v 1 }) fp32) (.v 4 3) = 0x40900000 := by decide +kernel
theorem test_range_trap_writes_nothing : regVal (after (.fadd fF) ranged) (.v 4 3) = 0 := by decide +kernel
theorem test_fdiv_by_zero_flags : regVal (after (.fdiv { fF with b := v 9 }) fp32) (.vst 4) = 0x30 ∧ regVal (after (.fdiv { fF with b := v 9 }) fp32) (.v 4 3) = 0x40000000 := by decide +kernel
theorem test_fcmp_lt : regVal (after (.fcmp { fF with dst := xr 0, fn := 2 }) fp32) (.p 4 0) = 1 := by decide +kernel
theorem test_cvfi_ties_to_even : regVal (after (.cvfi { fF with b := v 0 }) fp32) (.v 4 3) = 2 := by decide +kernel
theorem test_fcls_normal : regVal (after (.fcls { fF with b := v 0 }) fp32) (.v 4 3) = 64 := by decide +kernel

/-! Collectives and control. Guard p1 holds in threads 0 to 2 of the split warp. -/

/-- p1 holds in threads 0, 1 and 2. -/
def split : State := warpWith fun x => { x with p := [(1, true), (9, true), (17, true)] }
/-- The placed warp at the end of its line: the next unit is another line. -/
def g1 : Guard := ⟨false, 1⟩
/-- A branch within line 0 to slot 2, meeting at slot 4. -/
def brF : BForm := { restB with a := xr 1, tslot := 2, mslot := 4 }
def jmpF : BForm := { restB with tslot := 2 }
theorem witness_collective : (Instr.shfl .xor { restA with dst := v 3, a := v 1, bi := true, imm := 31 }).wf = true ∧ (Instr.vote .ballot { restA with dst := v 3, a := xr 1 }).wf = true
    ∧ (Instr.redw .add { fF with b := v 0 }).wf = true ∧ split.active g1 = [0, 1, 2] := ⟨by decide, by decide, by decide, by decide +kernel⟩
theorem witness_redw : ∀ u ∈ fp32.active always, (roundClass (fp32.cls 3)
    (r229 .add 1 32 (((fp32.active always).filter fun x => x / 32 == u / 32).map fun x => (fp32.clsA fF x, {})))).trap = false := by decide +kernel
theorem witness_transfer : xferFields (.bra jmpF) = some jmpF ∧ (Instr.bra jmpF).wf = true ∧ onWarp.active always = onWarp.pathThreads ∧ onWarp.active always ≠ []
    ∧ (∀ u ∈ onWarp.active always, destOf onWarp u jmpF = 2 ∧ onWarp.checkTarget 2 = .ok) ∧ slotPc onWarp.cur.ipc :=
  ⟨rfl, by decide, by decide +kernel, by decide +kernel, by decide +kernel, by unfold slotPc; decide +kernel⟩
theorem witness_transfer_inactive : onWarp.active ⟨true, 7⟩ = [] := by decide +kernel
/-- Every form of a transfer, from the whole warp and from the rill; the target of a branch that no thread takes is checked all the same. -/
theorem witness_transfers_complete : (∀ i ∈ [Instr.bra jmpF, .brx { jmpF with tr := true, a := v 2, tslot := 0, mslot := 4 }, .call { jmpF with dst := v 4 }, .callx { jmpF with tr := true, a := v 2, tslot := 0, dst := v 4 },
      .ret { jmpF with tr := true, a := v 2, tslot := 0 }], i.wf = true) ∧ encodedOk onWarp jmpF ∧ encodedOk onWarp { jmpF with grd := ⟨true, 7⟩ } ∧ ((onWarp.warp 1 0).entry 0).valid = true ∧ (0 : Nat) < 8
    ∧ slotPc (meetOf onWarp { jmpF with mslot := 4 }) ∧ (∀ u ∈ onRill.active jmpF.grd, mayGo onRill (destOf onRill u jmpF)) ∧ encodedOk onRill jmpF := by
  refine ⟨by decide, .inl ?_, .inl ?_, by decide +kernel, by decide, ?_, ?_, .inl ?_⟩
  · unfold mayGo; decide +kernel
  · unfold mayGo; decide +kernel
  · unfold slotPc; decide +kernel
  · unfold mayGo; decide +kernel
  · unfold mayGo; decide +kernel
theorem witness_transfer_bad_encoded : (Instr.bra { jmpF with tslot := 5, grd := ⟨true, 7⟩ }).wf = true ∧ onWarp.active ⟨true, 7⟩ = [] ∧ onWarp.pathThreads ≠ [] ∧ onWarp.checkTarget (lineAt onWarp 0 5) = .bad 8 := by decide +kernel
/-- BRX to the PC in v2 and v3 of each thread: 2. -/
def brxF : BForm := { restB with a := v 2, tr := true, mslot := 4, grd := g1 }
def brxState : State := warpWith fun x => { x with p := [(1, true), (9, true), (17, true)], v := [(2, 2), (66, 2), (130, 2)] }
theorem witness_brx : (Instr.brx brxF).wf = true ∧ slotPc (meetOf brxState brxF) ∧ ((brxState.warp 1 0).entry 0).valid = true
    ∧ (∀ u ∈ brxState.active g1, destOf brxState u brxF = 2 ∧ brxState.checkTarget 2 = .ok) ∧ (2 : W64) ≠ brxState.cur.npc
    ∧ (brxState.pathThreads.filter fun u => !(brxState.active g1).contains u) ≠ [] ∧ brxState.active g1 ≠ [] :=
  ⟨by decide, by unfold slotPc; decide +kernel, by decide +kernel, by decide +kernel, by decide +kernel, by decide +kernel, by decide +kernel⟩
theorem witness_brc : (Instr.brc brF).wf = true ∧ split.checkTarget (lineAt split 0 2) = .ok ∧ slotPc (meetOf split brF) ∧ takenSet split brF = [0, 1, 2]
    ∧ notTaken split brF ≠ [] ∧ ¬ wantsEject split brF ∧ takenSet onWarp brF = [] :=
  ⟨by decide, by decide +kernel, by unfold slotPc; decide +kernel, by decide +kernel, by decide +kernel, fun h => Bool.noConfusion h.1, by decide +kernel⟩
def ejF : BForm := { brF with ej := true }
/-- EJT admits three threads. -/
def ejState : State := split.modWarp 1 0 fun x => { x with ejt := 3, rjt := 64 }
theorem witness_eject : takenSet ejState ejF ≠ [] ∧ notTaken ejState ejF ≠ [] ∧ wantsEject ejState ejF ∧ hasContexts ejState 1 ejF :=
  ⟨by decide +kernel, by decide +kernel, ⟨rfl, by decide +kernel, by decide +kernel, rfl⟩, by unfold hasContexts; decide +kernel⟩
/-- EJT admits two threads: the minority of three is not ejected. -/
theorem witness_eject_threshold : ¬ wantsEject (split.modWarp 1 0 fun x => { x with ejt := 2, rjt := 64 }) ejF := fun h => absurd h.2.2.1 (by decide +kernel)
theorem witness_meet : (Instr.meet { restB with mslot := 4 }).wf = true ∧ slotPc (meetOf onWarp { restB with mslot := 4 }) ∧ ((onWarp.warp 1 0).entry 0).valid = true :=
  ⟨by decide, by unfold slotPc; decide +kernel, by decide +kernel⟩
/-- MEET of every thread is slot 3. -/
def meetAt3 : State := warpWith fun x => { x with th := (List.range 32).foldl (fun m t => Cells.modify {} m t fun y => { y with meet := 3 }) x.th }
theorem witness_join : (Instr.join restA).wf = true
    ∧ ∀ u ∈ meetAt3.active always, ((meetAt3.warp 1 0).thread u).meet ≠ noMeet ∧ ((meetAt3.warp 1 0).thread u).strag = none := ⟨by decide, by decide +kernel⟩
/-- A pair's MEET has changed the warp's MEET since the JOIN beside it read it. -/
theorem witness_join_pair : ∀ u ∈ ({ meetAt3 with cur := { meetAt3.cur with shadow := some (onWarp.modWarp 1 0 fun x => { x with th := x.th.map fun c => (c.1, { c.2 with meet := 2 }) }).cw } } : State).active always,
    ((meetAt3.warp 1 0).thread u).meet ≠ (({ meetAt3 with cur := { meetAt3.cur with shadow := some (onWarp.modWarp 1 0 fun x => { x with th := x.th.map fun c => (c.1, { c.2 with meet := 2 }) }).cw } } : State).rw.thread u).meet := by decide +kernel
theorem witness_exit : (Instr.exit restA).wf = true ∧ (∀ u, u < 32 → u ∈ onWarp.active always ∨ ((onWarp.warp 1 0).thread u).st = .exited)
    ∧ split.active g1 ≠ split.pathThreads := ⟨by decide, by decide +kernel, by decide +kernel⟩
theorem witness_pacing : (onWarp.warp 1 0).converged = true ∧ (onWarp.warp 1 0).idem = none ∧ decide (onWarp.active always ≠ []) = true := by decide +kernel
theorem witness_ejcfg : 64 ≤ ((warpWith fun x => { x with s := [(2, 64)] }).rdReg 0 (sr 2) true).toNat := by decide +kernel
/-- Control traps. -/
theorem witness_control_traps : onWarp.checkTarget 5 = .bad 8 ∧ ¬ slotPc 5 ∧ slotPc 4 ∧ slotPc 64 ∧ (onWarp.cLine 2).toBool = true
    ∧ (onWarp.active always).any (fun u => ((onWarp.warp 1 0).thread u).meet == noMeet) = true
    ∧ onWarp.checkTarget (lineAt onWarp 0 5) = .bad 8 := by
  refine ⟨by decide +kernel, by unfold slotPc; decide, by unfold slotPc; decide, by unfold slotPc; decide, by decide +kernel, by decide +kernel, by decide +kernel⟩
theorem witness_transfer_traps : (Instr.bra { restB with tslot := 5 }).wf = true ∧ onWarp.active always = [] ++ 0 :: (List.range 31).map (· + 1)
    ∧ onWarp.checkTarget (destOf onWarp 0 { restB with tslot := 5 }) = .bad 8 := ⟨by decide, by decide +kernel, by decide +kernel⟩
theorem witness_idem_traps : ((after (.brc brF) split).warp 1 0).converged = false ∧ (after (.brc brF) split).active always ≠ [] ∧ (after (.brc brF) split).cur.agent = .warp 1 0 0 := by decide +kernel
theorem witness_idem_nested : ((warpWith fun x => { x with idem := some 0 }).warp 1 0).converged = true ∧ ((warpWith fun x => { x with idem := some 0 }).warp 1 0).idem ≠ none := by decide +kernel

theorem test_shfl_xor : regVal (after (.shfl .xor { restA with dst := v 3, a := v 1, bi := true, imm := 1 }) (warpWith fun x => { x with v := [(1, 7), (65, 8)] })) (.v 1 3) = 7 := by decide +kernel
theorem test_vote_ballot : regVal (after (.vote .ballot { restA with dst := v 3, a := xr 1 }) split) (.v 31 3) = 7 := by decide +kernel
theorem test_redw_sum : regVal (after (.redw .add { fF with b := v 0 }) fp32) (.v 31 3) = 0x42400000 := by decide +kernel
theorem test_brc_splits : ((after (.brc brF) split).warp 1 0).entry 1 = { valid := true, pc := 2, mask := 7 } ∧ (((after (.brc brF) split).warp 1 0).thread 31).meet = 4 := by decide +kernel
theorem test_brc_ejects : ((after (.brc ejF) ejState).rill 8).thread = 1 ∧ (((after (.brc ejF) ejState).warp 1 0).thread 1).st = .away := by decide +kernel
theorem test_brx_splits : (((after (.brx brxF) brxState).warp 1 0).entry 0).mask = 0xFFFFFFF8 := by decide +kernel
theorem test_exit_ends : ((after (.exit restA) onWarp).warp 1 0).ended = true := by decide +kernel
theorem test_join_parks : (((after (.join restA) meetAt3).warp 1 0).thread 9).st = .parked := by decide +kernel
theorem test_call_links : regVal (after (.call { jmpF with dst := v 4 }) onWarp) (.v 3 4) = 1 := by decide +kernel

/-! Accesses of threads: every thread of the placed warp addresses offset 0x100 of region 0, PA 0x60100. -/

/-- v4 and v5 of each thread hold offset 0x100; s4 too. -/
def addrs : Cells W32 := (List.range 32).foldl (fun m t => Cells.set 0 m (64 * t + 4) 0x100) []
def memState : State := warpWith fun x => { x with v := addrs, s := [(4, 0x100)] }
def ldF : MForm := { restM with dst := v 6, a := v 4, bi := true, scope := .tm, df := 0x81 }
def stF : MForm := { restM with a := v 4, c := v 8, bi := true, scope := .tm, df := 0x81 }
def atF : MForm := { restM with dst := v 6, a := v 4, c := v 8, bi := true, df := 0x81 }
theorem ld_homes : ∀ u ∈ memState.accThreads ldF, homeAt memState ldF (memKind ldF .translated false) u = .mem 0x100 0x60100 0x50000 := by decide +kernel
/-- Accesses of one home in HBM, whose chunk is not changing, do not wait. -/
theorem noWait_mem {s : State} {f : MForm} {k : AccKind} {va pa e : Nat} (h : ∀ u ∈ s.accThreads f, homeAt s f k u = .mem va pa e) (hb : s.chunkBusy pa = false)
    (hh : paSpace pa = .hbm) : noWait s f k := by
  intro u hu
  rw [h u hu]
  refine ⟨fun x hx => ?_, fun o ho => (by cases ho), fun hl => ?_⟩
  · cases List.mem_singleton.mp hx; exact hb
  · simp [Home.leaves, hh] at hl
theorem not_hitsOwn (s : State) (f : MForm) (k : AccKind) (h : s.pend = []) : ¬ hitsOwn s f k := by
  rintro ⟨u, _, x, _, hx, _⟩
  simp [State.pendHits, h] at hx
  split at hx <;> simp at hx
theorem witness_load : (Instr.ld ldF).wf = true ∧ Issues memState ldF.mu ∧ clearAccess memState ldF (memKind ldF .translated false)
    ∧ OwnDone memState ldF (memKind ldF .translated false) memState ∧ noWait memState ldF (memKind ldF .translated false) ∧ apart memState ldF (memKind ldF .translated false)
    ∧ (∀ u ∈ memState.accThreads ldF, ∀ e ∈ elems ldF, (elemDeliv memState ldF (memKind ldF .translated false) u e).trap = false)
    ∧ memState.accThreads ldF = List.range 32 := by
  refine ⟨by decide, .inl ⟨1, 0, 0, rfl⟩, ⟨by decide +kernel, by decide +kernel⟩, .inl ⟨not_hitsOwn _ _ _ rfl, rfl⟩, noWait_mem ld_homes (by decide +kernel) (by decide), ?_, by decide +kernel, by decide +kernel⟩
  intro u hu w hw va pa e va' pa' e' h1 h2
  rw [ld_homes u hu] at h1
  rw [ld_homes w hw] at h2
  cases h1; cases h2
  decide
/-- A write of its own waits at the bytes. -/
def pendState : State := { memState with pend := [pendOf memState 0x100 0x60100 [1, 2, 3, 4]] }
theorem witness_load_own_write : hitsOwn pendState ldF (memKind ldF .translated false) ∧ OwnDone pendState ldF (memKind ldF .translated false) (pendState.drain pendState.ownPend)
    ∧ clearAccess (pendState.drain pendState.ownPend) ldF (memKind ldF .translated false) ∧ noWait (pendState.drain pendState.ownPend) ldF (memKind ldF .translated false) := by
  have h : hitsOwn pendState ldF (memKind ldF .translated false) := ⟨0, by decide +kernel, .mem 0x100 0x60100 0x50000, rfl, by decide +kernel, .inl rfl⟩
  exact ⟨h, .inr ⟨h, rfl, by decide +kernel⟩, ⟨by decide +kernel, by decide +kernel⟩, noWait_mem (va := 0x100) (pa := 0x60100) (e := 0x50000) (by decide +kernel) (by decide +kernel) (by decide)⟩
theorem witness_gallery_window : (Instr.gwin { restM with dst := v 6, a := v 4, bi := true, rs := 5 }).wf = true
    ∧ (memState.accThreads { restM with dst := v 6, a := v 4, bi := true, rs := 5 }) ≠ [] := ⟨by decide, by decide +kernel⟩
/-- The placed device may reach the first gallery area. -/
def galState : State := memState.modVdev 0 fun x => { x with cfg := x.cfg ||| 1#64 <<< 32 }
theorem witness_store_relaxed : (Instr.st stF).wf = true ∧ Released memState stF.order (memState.scopeOf stF (memKind stF .translated true)) memState ∧ OwnDone memState stF (memKind stF .translated true) memState
    ∧ clearAccess memState stF (memKind stF .translated true) ∧ noWait memState stF (memKind stF .translated true) :=
  ⟨by decide, rfl, .inl ⟨not_hitsOwn _ _ _ rfl, rfl⟩, ⟨by decide +kernel, by decide +kernel⟩, noWait_mem (va := 0x100) (pa := 0x60100) (e := 0x50000) (by decide +kernel) (by decide +kernel) (by decide)⟩
def relF : MForm := { stF with order := .rel, scope := .rc }
theorem witness_store_release : (Instr.st relF).wf = true ∧ Released pendState relF.order (pendState.scopeOf relF (memKind relF .translated true)) (pendState.drain pendState.ownPend) := by
  refine ⟨by decide, ?_⟩
  rw [show pendState.scopeOf relF (memKind relF .translated true) = .rc by decide +kernel]
  unfold Released
  rw [if_neg (by decide), if_neg (by decide)]
  exact ⟨rfl, by decide +kernel, fun _ => by decide +kernel⟩
def zeroF : MForm := { stF with df := 0, c := v 0, scope := .tm }
theorem witness_zero : (Instr.cctlZero zeroF).wf = true ∧ clearAccess memState zeroF { size := 256, elt := 32, align := 256, write := true, reads := false }
    ∧ noWait memState zeroF { size := 256, elt := 32, align := 256, write := true, reads := false } :=
  ⟨by decide, ⟨by decide +kernel, by decide +kernel⟩, noWait_mem (va := 0x100) (pa := 0x60100) (e := 0x50000) (by decide +kernel) (by decide +kernel) (by decide)⟩
/-- Stores at .tm publish, and do not perform, what the warp wrote before (R307). -/
theorem witness_store_team : Released pendState .rel .tm { pendState with pend := pendState.pend.map fun p => { p with team_ := true } } := by
  unfold Released
  rw [if_neg (by decide), if_pos rfl]
  decide +kernel
theorem witness_atomic : (Instr.atom .add atF).wf = true ∧ (Instr.acas atF).wf = true ∧ (memState.drain memState.ownPend).drained memState.ownPend = true
    ∧ clearAccess (memState.drain memState.ownPend) atF (rmwKind atF 4) ∧ noWait (memState.drain memState.ownPend) atF (rmwKind atF 4)
    ∧ ((memState.drain memState.ownPend).rmwReady (((memState.drain memState.ownPend).accThreads atF).map fun u => (u, homeAt (memState.drain memState.ownPend) atF (rmwKind atF 4) u))).isNone = true :=
  ⟨by decide, by decide, by decide +kernel, ⟨by decide +kernel, by decide +kernel⟩, noWait_mem (va := 0x100) (pa := 0x60100) (e := 0x50000) (by decide +kernel) (by decide +kernel) (by decide),
   by decide +kernel⟩
/-- An atomic of system scope: the drained state has no host write of the warp outstanding. -/
theorem witness_atomic_system : ∀ r ∈ (pendState.drain pendState.ownPend).cxl, (pendState.drain pendState.ownPend).ownPend r.pend = false :=
  fun r hr => absurd hr (by decide +kernel +revert)
theorem witness_store_apart : ((0x50000 : Nat) + 8 ≤ 0x60100 ∨ 0x60100 + 4 ≤ 0x50000) := by decide
theorem witness_reduction : (Instr.red .add { atF with dst := v 0 }).wf = true ∧ (Instr.fred .add { atF with dst := v 0, cls := 3, df := 1 }).wf = true
    ∧ (fp32.cls 3).fmt = 1 ∧ (Instr.fred .add { atF with dst := v 0, cls := 3, df := 2 }).wf = true ∧ clearAccess memState { atF with dst := v 0 } (rmwKind atF 4)
    ∧ OwnDone memState { atF with dst := v 0 } (rmwKind atF 4) memState ∧ noWait memState { atF with dst := v 0 } (rmwKind atF 4) :=
  ⟨by decide, by decide, by decide +kernel, by decide, ⟨by decide +kernel, by decide +kernel⟩, .inl ⟨not_hitsOwn _ _ _ rfl, rfl⟩, noWait_mem (va := 0x100) (pa := 0x60100) (e := 0x50000) (by decide +kernel) (by decide +kernel) (by decide)⟩
theorem witness_performed : pendState.pend[0]? = some (pendOf memState 0x100 0x60100 [1, 2, 3, 4]) ∧ pendState.pend.take 0 = []
    ∧ pendState.pendReady (pendOf memState 0x100 0x60100 [1, 2, 3, 4]) = true ∧ ∀ q ∈ pendState.pend.take 0, ¬ (q.team = 1 ∧ (q.warp = 0 ∨ q.team_ = true)) :=
  ⟨rfl, rfl, by decide +kernel, fun q hq => by cases hq⟩
/-- No snapshot can be taken: SNAPPOOL has no page. -/
def noSnap : State := pendState.modVdev 0 fun x => { x with snapSize := 0 }
theorem witness_not_performed : noSnap.pendReady (pendOf memState 0x100 0x60100 [1, 2, 3, 4]) = false := by decide +kernel
/-- Region 1 reserved, then private. -/
theorem witness_region_traps : (memState.modWarp 1 0 fun x => { x with rg := [(0, 0xFF00)] }).accRegion ldF = 0xFF00
    ∧ (memState.modWarp 1 0 fun x => { x with rg := [(0, 0xFFFE)] }).accRegion ldF = 0xFFFE ∧ (memState.modWarp 1 0 fun x => { x with rg := [(0, 0xFFFF)] }).accRegion ldF = 0xFFFF
    ∧ memState.cLaunch.adm.pmax ≤ (memState.mOff ldF 0).toNat ∧ memState.accThreads ldF ≠ [] := by decide +kernel
theorem witness_scratchpad_traps : (memState.accThreads { ldF with rs := 5 }).filter (fun u => (memState.spadOf memState.cTeam (memState.mOff { ldF with rs := 5 } u)).isNone) = []
    ∧ (memState.spadOf memState.cTeam 0x4000).isNone = true ∧ (memState.spadOf memState.cTeam 0x3FFF).isSome = true := by decide +kernel
theorem witness_gallery_traps : (memState.accThreads { ldF with rs := 5 }).filter (fun u => !memState.galOk memState.cVdev (memState.mOff { ldF with rs := 5 } u).toNat) ≠ [] := by decide +kernel
theorem witness_misaligned : ((memState.accThreads { ldF with imm := 2 }).filter fun u => (memState.mOff { ldF with imm := 2 } u).toNat % 4 != 0) ≠ []
    ∧ memState.accRegion { ldF with imm := 2 } < 0xFF00 := by decide +kernel
/-- Thread 0 alone addresses a page that no table maps. -/
def tfnvState : State := warpWith fun x => { x with p := [(1, true)], v := [(4, 0), (5, 1)] }
theorem witness_access_fault : tfnvState.accThreads { ldF with grd := g1 } = [0] ∧ tfnvState.accBad { ldF with grd := g1 } (memKind ldF .translated false) [0] = none
    ∧ tfnvState.homeOf { ldF with grd := g1 } (memKind ldF .translated false) 0 = .error .tfnv ∧ MFault.tfnv ≠ .xbar := by decide +kernel

theorem test_ld_reads_own_write : regVal (after (.ld ldF) pendState) (.v 31 6) = 0x04030201 := by decide +kernel
/-- A form with a host write of its own at the chunk whose mapping changes waits. -/
theorem test_chunk_busy_waits : ((after (.ld ldF) (memState.modDie 0 fun x => { x with hsmapPend := [(paChunk 0x60100, (2, 1))] })).cw.entry 0).pc = (memState.cw.entry 0).pc := by decide +kernel
theorem test_st_waits_in_order : (after (.st stF) memState).pend.length = 32 ∧ readByte (after (.st stF) memState).mem 0x50000 = 0xE3 := by decide +kernel
theorem test_sts_highest_thread : readByte ((after (.sts { stF with rs := 5 }) (memState.modWarp 1 0 fun x => { x with v := Cells.set 0 x.v (64 * 31 + 8) 0xAB })).team 1).spad 0x100 = 0xAB := by decide +kernel
theorem test_atom_orders_threads : regVal (after (.atom .add { atF with a := v 4, c := v 4 }) memState) (.v 2 6) = 0x200 := by decide +kernel
theorem test_acas_stores_once : readLe (after (.acas { atF with c := v 4 }) memState).mem 0x60100 4 = 0x100 ∧ regVal (after (.acas { atF with c := v 4 }) memState) (.v 5 6) = 0x100 := by decide +kernel

/-! Copies, timelines, the matrix engine. -/

/-- A meaning completes in exactly this state. -/
def leads (i : Instr) (s t : State) : Bool := match exec i s with | .next u => decide (u = t) | _ => false
/-- Counters 0 to 4 used: owner as numbered, scope .rc; s1 0x400, s2 0x800, s3 a length of 0x804, s4 1; the scratchpad's first bytes 1, 2. -/
def copyState : State := teamWith fun t => { t with
  tl := [(1, { owner := 1, scope := 5 }), (2, { owner := 2, scope := 5 }), (3, { owner := 3, scope := 5 }), (4, { owner := 4, scope := 5 })]
  spad := [(0x800, 1), (0x801, 2), (0xC00, 7)], warps := Cells.modify {} t.warps 0 fun x => { x with s := [(1, 0x400), (2, 0x800), (3, 0x104), (4, 1)] } }
def cpF : KForm := { restK with a := sr 1, b := sr 2, c := sr 3, rsd := 5, rss := 5, tli := 1 }
theorem witness_copy : copyAsked copyState (.cpy cpF) = some (cpF, copyState.copyOf .cpy cpF) ∧ copyState.active always ≠ [] ∧ copyState.copyBad (copyState.copyOf .cpy cpF) = none
    ∧ ((copyState.team 1).tlAt 1).open_ < 16 ∧ (copyState.drain copyState.ownPend).drained copyState.ownPend = true := ⟨rfl, by decide +kernel, by decide +kernel, by decide +kernel, by decide +kernel⟩
theorem witness_copy_refused : copyState.copyBad (copyState.copyOf .cpy { cpF with tli := 3 }) = some (0x2F, 1) ∧ copyState.copyBad (copyState.copyOf .cpy { cpF with c := sr 4 }) = some (0x2F, 2)
    ∧ copyState.copyBad (copyState.copyOf .cpy { cpF with a := sr 4 }) = some (0x2F, 3) ∧ (copyState.copyOf .cpy { cpF with c := sr 4 }).dst.regn = false := by decide +kernel
theorem witness_numbers_in_order : (({ done := 3, early := [6, 5] } : Tl).done.toNat < 4) ∧ (({ done := 3, early := [6, 5] } : Tl).complete 4).done = 6 := by decide +kernel
/-- The copy just issued. -/
def copied : State := after (.cpy cpF) copyState
def theCopy : Copy := { copyState.copyOf .cpy cpF with num := 1 }
theorem witness_chunk_first : copied.peersAway 1 = false ∧ theCopy.nextChunk = 0 ∧ theCopy.nextChunk < theCopy.nChunks ∧ theCopy.len ≠ 0 ∧ (match copied.chunk 1 theCopy 0 false with | .done _ => true | _ => false) = true := by decide +kernel
/-- A copy to PA 0x60400, whose chunk's mapping is changing; and one whose destination page's entry names host memory. -/
def outCopy : Copy := { kind := .cpyxPut, tl := 1, num := 1, dst := { sel := 0, addr := 0x400 }, src := { sel := 5, addr := 0x800 }, len := 4 }
def hostPage : State := { copied with mem := writeBytes copied.mem 0x50000 (leBytes 8 (2 ^ 55 + 0x183)) }
theorem witness_chunk_waits : (match (copied.modDie 0 fun x => { x with hsmapPend := [(paChunk 0x60400, (2, 1))] }).chunk 1 { outCopy with kind := .cpy } 0 false with | .held => true | _ => false) = true
    ∧ (match hostPage.chunk 1 outCopy 0 false with | .sent _ => true | _ => false) = true := by decide +kernel
theorem witness_chunk : (copied.team 1).copyAt 1 1 = some theCopy ∧ (copied.team 1).st = .resident ∧ theCopy.kind ≠ .marker ∧ theCopy.stopped = false ∧ theCopy.dst.sel = 5 ∧ theCopy.src.sel = 5
    ∧ copied.sideSpad 1 theCopy.dst = some (1, 0x400) ∧ copied.sideSpad 1 theCopy.src = some (1, 0x800) := by decide +kernel
/-- A copy into a gallery whose die is not open. -/
def galCopy : State := copied.modTeam 1 fun t => { t with copies := [{ kind := .cpygTo, tl := 1, num := 1, dst := { sel := 5, addr := 0 }, src := { sel := 5, addr := 0x800 }, len := 4 }] }
theorem witness_chunk_fault : galCopy.chunk 1 { kind := .cpygTo, tl := 1, num := 1, dst := { sel := 5, addr := 0 }, src := { sel := 5, addr := 0x800 }, len := 4 } 0 false = .fault .galw 0
    ∧ (galCopy.die 0).galOpen = false ∧ MFault.galw ≠ .xbar ∧ (match galCopy.chunkRead 1 { kind := .cpygTo, tl := 1, num := 1, dst := { sel := 5, addr := 0 }, src := { sel := 5, addr := 0x800 }, len := 4 } 0 with
      | .ok (bs, l, _) => !galCopy.chunkHeld { kind := .cpygTo, tl := 1, num := 1, dst := { sel := 5, addr := 0 }, src := { sel := 5, addr := 0x800 }, len := 4 } 0 bs.length l | .error _ => false) = true := by decide +kernel
def tlF : SForm := { restS with a := xr 1, bi := true }
theorem witness_timeline_unused : (counter copyState 1 { restS with a := xr 0 }).owner = 0 := by decide +kernel
theorem witness_timeline : (counter copyState 1 tlF).owner = 1 ∧ tlwNumber copyState 1 tlF ≤ (counter copyState 1 tlF).iss.toNat ∧ tlwNumber copyState 1 tlF ≤ (counter copyState 1 tlF).done.toNat
    ∧ (counter copyState 1 tlF).cpyflt = [] ∧ (counter copyState 1 { tlF with bi := false, b := sr 4 }).iss.toNat < tlwNumber copyState 1 { tlF with bi := false, b := sr 4 }
    ∧ (counter copied 1 tlF).done.toNat < tlwNumber copied 1 tlF ∧ tlwNumber copied 1 tlF ≤ (counter copied 1 tlF).iss.toNat := by decide +kernel
theorem witness_timeline_forms : (Instr.tlqDone { restS with a := xr 1, dst := sr 5 }).wf = true ∧ (Instr.tlqIss { restS with a := xr 1, dst := sr 5 }).wf = true
    ∧ (Instr.tlmk { restS with a := xr 1, dst := sr 5, order := .rel, scope := .rc }).wf = true ∧ (counter copyState 1 tlF).scope ≤ Scope.rc.code ∧ (counter copyState 1 tlF).open_ < 16 := by decide +kernel

/-- Tile 2 HELD as physical tile 0 with an open batch at rv 3; 4 rendezvous points; a class of two planes; s1, s2 operand addresses. -/
def mxState : State := (classState { fmt := 1, npl := 2 } ((onWarp.modLaunch 0 fun l => { l with adm := { l.adm with kernel := { l.adm.kernel with nrv := 4 } } }).modTeam 1 fun t => { t with
  tiles := [(2, { held := some 0 })], batch := [{ tile := 2, rv := 3 }], tpg := 4
  sd := [(1, { set := true, cls := 3 })]
  spad := [(0, 0x12), (1, 5), (2, 2), (0x400, 0x12), (0x401, 5), (0x402, 0x80)]
  warps := Cells.modify {} t.warps 0 fun x => { x with s := [(1, 0x400), (2, 0), (5, 0x2000), (6, 0x2000000)] } })).modEngine 0 fun e => { e with tiles := [(0, { owner := some (1, 2) })] }
def mxF : XForm := { restX with cls := 3, ta := 2, tb := 1, a := sr 2, b := sr 5, c := sr 2 }
theorem witness_matrix_open : mxOpen mxState 1 mxF :=
  ⟨by decide +kernel, by decide, by decide +kernel, by decide +kernel, by decide +kernel, by decide +kernel⟩
theorem witness_matrix_line : (mxState.drain mxState.ownPend).drained (mxState.drain mxState.ownPend).ownPend = true ∧ ¬ (mxState.cur.handler = true ↔ 8 ≤ ({ mxF with ta := 8 } : XForm).ta.toNat) := by decide +kernel
theorem witness_matrix_conversions : (xOpd mxState (sr 2)).toNat / 2 ^ 23 % 2 ^ 9 = 0 ∧ (xOpd mxState (sr 5)).toNat % 4 = 0
    ∧ mxState.mxAddrBad mxF [{ a := 0x2000, n := 256 * dfSize 1, aligned := false }, { a := 0, n := 2 }] = none
    ∧ mxState.mxAddrBad mxF [{ a := 0x2000, n := 256 * dfSize 1, aligned := false }, { a := 0, n := 32 + 64 }, { a := 0, n := 2 }] = none := by decide +kernel
theorem witness_matrix_pass : (Cells.get {} (mxState.team 1).sd 1).set = true ∧ header (readBytes (mxState.team 1).spad 0 32) = some (0x12, 5, 2)
    ∧ (mxState.cls 3).npl = 2 ∧ mxState.mxAddrBad mxF [{ a := 0, n := 32 + 64 }, { a := 0x2000, n := 2 }] = none ∧ ((mxState.team 1).tileAt 2).issue = 0 := by decide +kernel
theorem witness_matrix_drain : (512 : Nat) ≤ (xOpd mxState (sr 6)).toNat / 2 ^ 16 % 2 ^ 16 ∧ (xOpd mxState (sr 6)).toNat / 64 % 2 ^ 10 = 0
    ∧ mxState.mxAddrBad mxF [{ a := 0, n := 512 * 4, aligned := false }] = none := by decide +kernel
theorem witness_matrix_traps : (mxState.team 1).holds 1 = false ∧ (mxState.team 1).holds 2 = true
    ∧ ((mxState.modTeam 1 fun t => { t with batch := [] }).team 1).openBatch 2 = none := by decide +kernel
/-- Four quarters of 128 blocks with tag 5, in the team's own scratchpad. -/
theorem witness_descriptor : mxState.quarters 0x400 2 = .inr 5 ∧ mxState.mxAddrBad { mxF with a := sr 1 } [{ a := 0x400, n := 32 + 8192 }, { a := 0x2000, n := 256 }] = none
    ∧ 4 ≤ (mxState.team 1).tpg := by decide +kernel
def openF : XForm := { restX with a := xr 3, ta := 2, imm := 3 }
theorem witness_batch : ((mxState.modTeam 1 fun t => { t with batch := [] }).team 1).batchOf 3 = none ∧ (3 : Nat) < mxState.cLaunch.adm.kernel.nrv
    ∧ ((mxState.team 1).openBatch 2).isSome = true ∧ ((mxState.team 1).statAt 3).flags.getLsbD 4 = false ∧ (Instr.msta 3 { restX with dst := sr 1, a := xr 3 }).wf = true := by decide +kernel
theorem witness_batch_numbered : ((copyState.team 1).tlAt 3).owner = 3 ∧ 1 ≤ ((copyState.team 1).tlAt 3).scope := by decide +kernel
theorem witness_batch_unused : (mxState.cur.handler = true ↔ 8 ≤ openF.ta.toNat) ∧ ((mxState.modTeam 1 fun t => { t with batch := [] }).team 1).openBatch 2 = none ∧ ((mxState.team 1).tlAt 5).owner = 0 ∧ (mxState.drain mxState.ownPend).drained (mxState.drain mxState.ownPend).ownPend = true := by decide +kernel
theorem witness_status_breach : (((mxState.modTeam 1 fun t => { t with stat := [(3, { flags := 0x10 })] }).team 1).statAt 3).flags.getLsbD 4 = true := by decide +kernel
theorem witness_tiles : malcMay onWarp 1 { restX with imm := 3, dst := xr 8 } ∧ (maskTiles false 3).length ≤ (freeOf onWarp 1).length ∧ onWarp.malcLine 0 = [] ∧ (Instr.malcTry { restX with imm := 3, dst := xr 8 }).wf = true
    ∧ (freeOf mxState 1).length < (maskTiles false 255).length := by
  refine ⟨⟨by decide +kernel, by decide, by decide, fun _ => ⟨by decide +kernel, by decide +kernel⟩, by decide +kernel⟩, by decide +kernel, by decide +kernel, by decide, by decide +kernel⟩
theorem witness_tiles_freed : ∀ n ∈ maskTiles false 2, (mxState.team 1).busy n = false := by decide +kernel
theorem witness_passes : ([1, -1] : List Int).length = 2 ∧ (-(2 : Int) ^ 2 ≤ -4 ∧ (3 : Int) < 2 ^ 2) ∧ (alignAdd {} (List.replicate 512 1) (List.replicate 512 0) (List.replicate 512 false)).2.1 = false := by decide +kernel
/-- The open batch holds one MZRO. -/
def granted : State := after (.mzro mxF) mxState
theorem witness_grant : granted.unitFree 0 .tile = true ∧ (granted.grantChoice 0 .tile).isSome = true ∧ granted.grantChoice 0 .array = none
    ∧ ((after (.matrixGrant 0 .tile) granted).engine 0).running .tile = some (1, 3) := by decide +kernel
theorem witness_batch_done : (((mxState.modTeam 1 fun t => { t with batch := [{ tile := 2, rv := 3, isOpen := false }] }).team 1).batch.find? fun b => b.tile == 2 && b.done).isSome = true := by decide +kernel

theorem test_copy_issue : leads (.cpy cpF) copyState (((numbered copyState 1 (copyState.copyOf .cpy cpF)).applyWr []).advance) = true := by decide +kernel
theorem test_copy_arrives : readBytes ((after (.copyChunkDone 1 1 1) copied).team 1).spad 0x400 2 = [1, 2] ∧ (((after (.copyChunkDone 1 1 1) copied).team 1).tlAt 1).done = 1 := by decide +kernel
theorem test_mzro_enters : leads (.mzro mxF) mxState ((entered mxState 1 mxF (some 0) { kind := .zro }).applyWr []).advance = true := by decide +kernel
theorem test_meas_enters : leads (.meas { mxF with imm := 1 }) mxState ((entered mxState 1 { mxF with imm := 1 } none { kind := .meas, cls := 3, b := 0x2000, c := 0, imm := 1, tag := 1 }).applyWr []).advance = true := by decide +kernel
theorem test_mma_enters : leads (.mma mxF) mxState ((entered mxState 1 mxF (some 1) { kind := .mma, cls := 3, ca := 3, cb := 3, a := 0, b := 0x2000, c := 0, imm := 1, desc := { set := true, cls := 3 }, dtag := 5 }).applyWr []).advance = true := by decide +kernel
theorem test_mdrn_enters : leads (.mdrn { mxF with b := sr 6, c := v 0 }) mxState ((entered mxState 1 mxF none { kind := .drn, cls := 3, ca := 3, a := 0, b := 0x2000000, imm := 1 }).applyWr []).advance = true := by decide +kernel
theorem test_mcvt_header : readBytes ((after (.mcvt { mxF with imm := 1 }) mxState).team 1).spad 0 4 = [0x12, 1, 1, 0] := by decide +kernel
theorem test_mldb_descriptor : (Cells.get {} ((after (.mldb { mxF with a := sr 1, c := v 0, ta := 0 }) mxState).team 1).sd 1).dtag = 5 := by decide +kernel
theorem test_malc_binds : (((after (.malcWait { restX with imm := 3 }) onWarp).team 1).tileAt 1).held = some 1 := by decide +kernel
theorem test_mzro_clears : ((after (.matrixOpComplete 0 .tile) (after (.matrixGrant 0 .tile) granted)).team 1).batch.all (fun b => b.ops.isEmpty) = true := by decide +kernel

/-! Tile images: pages 0 to 7 of the placed device map PAs 0x60000 to 0xDFFFF. -/

theorem fieldAt_zero (bs : List Byte) (h : ∀ x ∈ bs, x = 0) (o n : Nat) : fieldAt bs o n = 0 := by
  have : ∀ l : List Byte, (∀ x ∈ l, x = 0) → leNat l = 0 := by
    intro l
    induction l with
    | nil => intro _; rfl
    | cons x l ih => intro h; simp only [leNat]; rw [ih fun y hy => h y (by simp [hy]), h x (by simp)]; rfl
  exact this _ fun x hx => h x (List.mem_of_mem_drop (List.mem_of_mem_take hx))
theorem zeroAt_zero (bs : List Byte) (h : ∀ x ∈ bs, x = 0) (o n : Nat) : zeroAt bs o n = true := by
  simp only [zeroAt, List.all_eq_true, beq_iff_eq]
  exact fun x hx => h x (List.mem_of_mem_drop (List.mem_of_mem_take hx))
theorem rowFrom_zero (bs : List Byte) (h : ∀ x ∈ bs, x = 0) : (rowFrom bs).isNone = false := by
  unfold rowFrom
  simp only [fieldAt_zero bs h, zeroAt_zero bs h]
  generalize hm : ((List.range 512).map fun j => if j % 2 = 0 then 0 % 16 else 0 / 16) = m
  have : m.any (fun m => decide (5 < m)) = false := by
    rw [← hm, List.any_eq_false]
    intro x hx
    rw [List.mem_map] at hx
    obtain ⟨j, _, rfl⟩ := hx
    split <;> decide
  rw [this]
  rfl
/-- Zeros read back as a tile. -/
theorem tileFrom_zero (bs : List Byte) (h : ∀ x ∈ bs, x = 0) : (tileFrom bs).isSome = true := by
  unfold tileFrom
  generalize hr : ((List.range 64).map fun r => rowFrom ((bs.drop (5440 * r)).take 5440)) = rows
  have : rows.any Option.isNone = false := by
    rw [← hr, List.any_eq_false]
    intro x hx
    rw [List.mem_map] at hx
    obtain ⟨j, _, rfl⟩ := hx
    rw [rowFrom_zero _ fun y hy => h y (List.mem_of_mem_drop (List.mem_of_mem_take hy))]
    decide
  simp only [fieldAt_zero bs h, zeroAt_zero bs h, this]
  rfl
theorem readBytes_above (m : Cells Byte) (lo a n : Nat) (h : m.all (fun c => decide (c.1 < lo)) = true) (ha : lo ≤ a) : ∀ x ∈ readBytes m a n, x = 0 := by
  induction n generalizing a with
  | zero => intro x hx; cases hx
  | succ n ih =>
    intro x hx
    simp only [readBytes, List.mem_cons] at hx
    rcases hx with rfl | hx
    · clear ih
      unfold readByte
      induction m with
      | nil => rfl
      | cons c m ih =>
        simp only [List.all_cons, Bool.and_eq_true, decide_eq_true_eq] at h
        obtain ⟨k, y⟩ := c
        rw [Cells.get_cons, if_neg (by simp only at h; omega)]
        exact ih h.2
    · exact ih (a + 1) (by omega) x hx
/-- The tile's image goes to offset 0x10000; tile 2 is held and not busy. -/
def imgState : State := { (mxState.modTeam 1 fun t => { t with batch := [], warps := Cells.modify {} t.warps 0 fun x => { x with s := [(7, 0x10000)] } }) with
  mem := (List.range 8).foldl (fun m i => writeBytes m (0x50000 + 8 * i) (leBytes 8 (0x60000 + 0x10000 * i + 0x183))) mxState.mem }
def imgF : XForm := { restX with ta := 2, a := sr 7 }
theorem witness_image : imgState.active always ≠ [] ∧ imgState.cur.handler = false ∧ (∀ w ∈ (imgState.team 1).warps, w.2.handler = none)
    ∧ (imgState.team 1).holds 2 = true ∧ (imgState.team 1).busy 2 = false ∧ (xOpd imgState imgF.a).toNat = 0x10000 ∧ imgState.regionOf 0 = 0 := by decide +kernel
theorem witness_image_written : (imgState.drain imgState.ownPend).drained (imgState.drain imgState.ownPend).ownPend = true ∧ ∃ l s', (imgState.drain imgState.ownPend).imageSegs true (pageSegs 8 0x10000 tileBytes) = .ok (l, s')
    ∧ s'.imageWait l = none ∧ s'.snapBlock s'.cTask [] (l.map fun x => (x.1, x.2.1)) = none := by
  refine ⟨by decide +kernel, ?_⟩
  have h : (match (imgState.drain imgState.ownPend).imageSegs true (pageSegs 8 0x10000 tileBytes) with
    | .ok (l, s') => (s'.imageWait l).isNone && (s'.snapBlock s'.cTask [] (l.map fun x => (x.1, x.2.1))).isNone | .error _ => false) = true := by decide +kernel
  split at h
  · next l s' hs => exact ⟨l, s', hs, by simpa using h⟩
  · cases h
theorem witness_image_read : ∃ l s' img, (imgState.drain imgState.ownPend).imageSegs false (pageSegs 8 0x10000 tileBytes) = .ok (l, s')
    ∧ s'.imageWait l = none ∧ tileFrom (l.flatMap fun x => readBytes s'.mem x.2.1 x.2.2) = some img := by
  have h : (match (imgState.drain imgState.ownPend).imageSegs false (pageSegs 8 0x10000 tileBytes) with
    | .ok (l, s') => (s'.imageWait l).isNone && (l.all fun x => decide (0x70000 ≤ x.2.1)) && s'.mem.all fun c => decide (c.1 < 0x70000) | .error _ => false) = true := by decide +kernel
  split at h
  · next l s' hs =>
    simp only [Bool.and_eq_true] at h
    have hz : ∀ y ∈ (l.flatMap fun x => readBytes s'.mem x.2.1 x.2.2), y = 0 := by
      intro y hy
      rw [List.mem_flatMap] at hy
      obtain ⟨x, hx, hy⟩ := hy
      have := List.all_eq_true.mp h.1.2 x hx
      exact readBytes_above s'.mem _ _ _ h.2 (by simpa using this) y hy
    obtain ⟨img, hi⟩ := Option.isSome_iff_exists.mp (tileFrom_zero _ hz)
    exact ⟨l, s', img, hs, by simpa using h.1.1, hi⟩
  · cases h

/-- An EVICTED tile comes back to a fresh physical one. -/
theorem witness_image_evicted : (let s := imgState.modTeam 1 fun t => { t with tiles := [(2, { evicted := true, image := 0x10000 })] }
    (s.team 1).holds 2 = false ∧ ((s.team 1).tileAt 2).evicted = true ∧ s.malcLine 0 = [] ∧ freeOf s 1 ≠ []) := by decide +kernel

/-! Fences, rendezvous, queues, groups, the graph. -/

/-- Four points and four queues; point 1 initialised to expect 2, point 2 ORPHAN; queue 1 at 0x100 with room for two and allowance; s1 2, s2 0x200. -/
def syncState : State := (onWarp.modLaunch 0 fun l => { l with adm := { l.adm with kernel := { l.adm.kernel with nrv := 4, nq := 4 }, ngroup := 2, groups := [[0]] } }).modTeam 1 fun t => { t with
  rv := [(1, { expect := 2, init := true }), (2, { orphan := true })]
  ch := [(1, { base := 0x100, lsz := 1, init := true, head := 0, tail := 1, allow := 1 }), (2, { base := 0x200, lsz := 1, init := true })]
  spad := [(0x100, 9)], tl := [(4, { owner := 4, scope := 5 })], warps := Cells.modify {} t.warps 0 fun x => { x with s := [(1, 2), (2, 0x200)] } }
def rvF : SForm := { restS with a := xr 1, b := sr 1 }
theorem witness_arrive : ({ expect := 2, init := true } : Rv).init = true ∧ ({ expect := 2, init := true, wmask := 1 } : Rv).wmask.getLsbD 0 = true
    ∧ (0 + 1 < (2 : W32).toNat) ∧ (1 + 1 = (2 : W32).toNat) ∧ ({} : Rv).init = false := by decide +kernel
theorem witness_fence : syncState.active ⟨true, 7⟩ = [] ∧ syncState.active always ≠ [] ∧ Released syncState .acq .cl syncState := ⟨by decide +kernel, by decide +kernel, rfl⟩
theorem witness_fence_release : Released pendState .sc .rc (pendState.drain pendState.ownPend) := by
  unfold Released
  rw [if_neg (by decide)]
  exact ⟨rfl, by decide +kernel, fun _ => by decide +kernel⟩
theorem witness_rendezvous : syncState.cLaunch.adm.kernel.nrv = 4 ∧ (point syncState 1 rvF).init = true ∧ (point syncState 1 { rvF with a := xr 2 }).orphan = true
    ∧ (point syncState 1 { rvF with a := xr 3 }).init = false ∧ (point syncState 1 { rvF with a := xr 3 }).orphan = false ∧ opdB syncState rvF = 2 ∧ opdB syncState { rvF with b := sr 9 } = 0
    ∧ (point syncState 1 rvF).counts (some 0) = true ∧ (point syncState 1 rvF).satisfied 0 = false ∧ (point syncState 1 rvF).satisfied 0xFFFFFFFF = true := by decide +kernel
theorem witness_rendezvous_now : (let now (n : Nat) := (syncState.team 1).rvNow n syncState.cyc
    (now 1).was.init = true ∧ (now 1).was.orphan = false ∧ (now 1).arr = [] ∧ (now 2).was.orphan = true ∧ (now 3).was.init = false ∧ (now 3).was.orphan = false) := by decide +kernel
theorem witness_rendezvous_forms : (Instr.arv { restS with a := xr 1, dst := sr 3 }).wf = true ∧ (Instr.arvb { rvF with dst := sr 3 }).wf = true ∧ (Instr.rvtsT { rvF with dst := xr 8 }).wf = true
    ∧ (Instr.rvtsPh { restS with a := xr 1, dst := sr 3 }).wf = true ∧ allPerformed (syncState.drain syncState.ownPend) := ⟨by decide, by decide, by decide, by decide, by unfold allPerformed; decide +kernel⟩
def quF : SForm := { restS with a := xr 1, b := sr 1 }
theorem witness_queues : (queueOf syncState 1 1).init = true ∧ (queueOf syncState 1 1).head ≠ (queueOf syncState 1 1).tail ∧ (queueOf syncState 1 0).init = false
    ∧ syncState.queueTeam quF = some 1 ∧ hasRoom (queueOf syncState 1 1) ∧ nextServed syncState 1 1 true ∧ nextServed syncState 1 1 false ∧ ¬ hasRoom (queueOf syncState 1 2)
    ∧ (queueOf syncState 1 2).head = (queueOf syncState 1 2).tail := by
  refine ⟨by decide +kernel, by decide +kernel, by decide +kernel, by decide +kernel, by unfold hasRoom; decide +kernel, by unfold nextServed; decide +kernel, by unfold nextServed; decide +kernel,
    by unfold hasRoom; decide +kernel, by decide +kernel⟩
theorem witness_queue_init : (queueOf syncState 1 0).init = false ∧ (syncState.rdReg syncState.lowThread (sr 2) true).toNat % 8 = 0
    ∧ (syncState.rdReg syncState.lowThread (sr 2) true).toNat + 8 * 2 ^ 12 ≤ ((syncState.modTeam 1 fun t => { t with scrk := 64 }).team 1).scrk * 1024 := by decide +kernel
theorem witness_queue_forms : (Instr.qtryPsh { quF with c := xr 8 }).wf = true ∧ (Instr.qpop { restS with a := xr 1, dst := sr 3 }).wf = true ∧ (Instr.qtryPop { restS with a := xr 1, dst := sr 3, c := xr 8 }).wf = true := by decide
/-- v1 of every thread names all 32. -/
theorem witness_syncm : (∀ u ∈ allOnes.active always, ((allOnes.warp 1 0).thread u).st = .pathed ∧ (allOnes.rdReg u (v 2) false).setWidth 32 = maskOf (allOnes.active always))
    ∧ (allOnes.warp 1 0).syncAt allOnes.cur.ipc 0 = none := by decide +kernel
theorem witness_groups : syncState.inGroup 0 = true ∧ syncState.inGroup 1 = false ∧ ((syncState.warp 1 0).entry 0).hold = .none ∧ ((syncState.team 1).tlAt 4).owner = 4 ∧ 3 ≤ ((syncState.team 1).tlAt 4).scope := by decide +kernel
theorem witness_groups_next : ((syncState.modWarp 1 0 fun x => x.modEntry 0 fun p => { p with hold := .group 0 0 }).modLaunch 0 fun l => { l with groups := [(0, { phase := 1 })] }).groupPhase 0 = 1
    ∧ (((syncState.modWarp 1 0 fun x => x.modEntry 0 fun p => { p with hold := .group 0 0 }).warp 1 0).entry 0).hold = .group 0 0 ∧ syncState.groupPhase 0 ≤ 0 := by decide +kernel
theorem witness_launch : (Instr.launch { restS with dst := sr 3, a := sr 4 }).wf = true ∧ (syncState.rdReg syncState.lowThread (sr 4) true).toNat % 64 = 0
    ∧ (match syncState.translate 0 0 false false with | .ok (pa, _) => syncState.reaches 0 0 pa && (syncState.poisonHit pa 64 false).isNone | .error _ => false) = true := by decide +kernel

/-- A handler line stands at HVEC, VA 0x40. -/
def handlerState : State := { onWarp.modVdev 0 fun x => { x with hvec := 0x40 } with mem := writeByte onWarp.mem 0x6007D 0x10 }
theorem witness_trap_entry : handlerState.handlerLine 0 0 = true ∧ Cells.get none handlerState.handlerBank 0 = none ∧ onWarp.handlerLine 0 0 = false
    ∧ Cells.get none { handlerState with handlerBank := [(0, some (1, 5))] }.handlerBank 0 ≠ none := by decide +kernel
/-- A kill waits for the launch's issued writes where one cannot be performed yet. -/
theorem witness_trap_kill : (∀ p ∈ (onWarp.trapKill 1 {}).pend, p.task ≠ 0) ∧ ({ noSnap with handlerBank := [] } : State).drained (fun p => p.task == 0) = false
    ∧ ∃ p ∈ (noSnap.trapKill 1 {}).pend, p.task = 0 := by decide +kernel
/-- The trap taken, and its handler's ERET. -/
def trapped : State := after (.trap { restS with imm := 7 }) handlerState
def returning : State := { trapped with cur := { agent := .warp 1 0 0, upc := 0x40, ipc := 0x40, npc := 0x41, handler := true } }
theorem witness_return : returning.cur.handler = true ∧ (∀ c ∈ (returning.team 1).tiles, c.2.evicted = false) ∧ returning.active always ≠ []
    ∧ (match (returning.warp 1 0).handler with
      | some h => Cells.wf 0 h.v && Cells.wf 0 h.s && Cells.wf false h.p && h.v.all (fun c => decide (56 ≤ c.1 % 64)) && decide (h.entry < 8)
          && decide (((returning.warp 1 0).entry h.entry).mask &&& h.mask ≠ 0) && (maskList h.mask).all fun u => decide (((returning.warp 1 0).thread u).st ≠ .exited)
      | none => false) = true := by decide +kernel
/-- A tile is EVICTED and another path of the handler can restore it. -/
theorem witness_return_waits : (let s := (returning.modTeam 1 fun t => { t with tiles := [(2, { evicted := true })] }).modWarp 1 0 fun x => x.modEntry 1 fun _ => { valid := true, pc := 0x41, mask := 2 }
    s.active always ≠ [] ∧ (∃ c ∈ (s.team 1).tiles, c.2.evicted = true) ∧ (s.warp 1 0).othersRestore 0 = true) := by decide +kernel
theorem witness_system : onWarp.cur.handler = false ∧ opdB returning { restS with bi := true, imm := 5 } = 5 ∧ (Instr.csrr { restS with dst := sr 1, bi := true, imm := 5 }).wf = true
    ∧ (opdB returning { restS with bi := true, imm := 6 }).toNat = 6 ∧ returning.cur.handler = true ∧ 4 ≤ ({ restX with imm := 4 } : XForm).imm.toNat ∧ (onWarp.team 1).wpt ≤ 1 ∧ 0 < (onWarp.team 1).wpt ∧ ((onWarp.team 1).warp 0).ended = false
    ∧ (Instr.mirxTest { restS with dst := xr 8 }).wf = true ∧ (Instr.waitev { restS with dst := sr 1, imm := 1 }).wf = true
    ∧ (onWarp.team 1).tevt &&& 1 = 0 ∧ ((teamWith fun t => { t with tevt := 1 }).team 1).tevt &&& 1 ≠ 0 := by decide +kernel
/-- Journals and undo logs of every stack are set up, and point 1 may open. -/
def rpReady : State := { onWarp with csize := 4, stks := (List.range 8).map fun i => (i, { jrnSize := 1, ulSize := 1 }) }
theorem witness_recovery_point : rpReady.csize ≠ 0 ∧ (∀ i, i < 8 → (rpReady.stk i).jrnSize ≠ 0 ∧ (rpReady.stk i).ulSize ≠ 0) ∧ (rpReady.rp 0).cur.getLsbD 63 = false ∧ (rpReady.rp 0).cur.getLsbD 62 = false
    ∧ (opdB rpReady { restS with bi := true, imm := 1 }).setWidth 32 = (rpReady.rp 0).cur.setWidth 32 + 1#32 ∧ (Instr.rpopn { restS with dst := sr 3, bi := true, imm := 1 }).wf = true
    ∧ allPerformed (rpReady.drain rpReady.ownPend) ∧ (onWarp.csize = 0) := by
  refine ⟨by decide +kernel, by decide +kernel, by decide +kernel, by decide +kernel, by decide +kernel, by decide +kernel, by unfold allPerformed; decide +kernel, by decide +kernel⟩
/-- Point 1 is open. -/
def rpOpen : State := rpReady.modRp 0 fun r => { r with cur := 0x8000000000000001 }
theorem witness_recovery_seal : (rpOpen.rp 0).cur.getLsbD 63 = true ∧ Released rpOpen .rel .rc (rpOpen.drain rpOpen.ownPend) ∧ (rpOpen.rdReg rpOpen.lowThread (sr 4) true).toNat % 64 = 0
    ∧ (Instr.rpseal { restS with dst := sr 3, a := sr 4 }).wf = true := by
  refine ⟨by decide +kernel, ?_, by decide +kernel, by decide⟩
  unfold Released
  rw [if_neg (by decide)]
  exact ⟨rfl, by decide +kernel, fun _ => by decide +kernel⟩
theorem witness_recovery_query : (rpOpen.rp 0).stateOf 1 = 1 ∧ (rpOpen.rp 0).stateOf 0 = 3 ∧ (rpOpen.rp 0).stateOf 2 = 0 ∧ (Instr.rpqryWt { restS with dst := sr 3, bi := true }).wf = true
    ∧ (Instr.rpqrySt { restS with dst := sr 3, bi := true }).wf = true := by decide +kernel

theorem test_rvini : (Cells.get {} ((after (.rvini false { rvF with a := xr 3 }) syncState).team 1).rv 3).expect = 2 := by decide +kernel
theorem test_arv_gives_phase : regVal (after (.arv { restS with a := xr 1, dst := sr 3 }) syncState) (.s 3) = 0 ∧ ((after (.arv { restS with a := xr 1, dst := sr 3 }) syncState).team 1).rvAt 1 = { expect := 2, count := 1, wmask := 1, init := true } := by decide +kernel
theorem test_qpop_takes_oldest : regVal (after (.qpop { restS with a := xr 1, dst := sr 3 }) syncState) (.s 3) = 9 := by decide +kernel
theorem test_qpsh_stores : readByte ((after (.qpsh quF) syncState).team 1).spad 0x108 = 2 := by decide +kernel
theorem test_qini : (Cells.get {} ((after (.qiniInit { restS with a := xr 0, b := sr 2, c := sr 1, imm := 3 }) syncState).team 1).ch 0).allow = 2 := by decide +kernel
theorem test_trap_entry : (trapped.warp 1 0).tcause = 0x16 ∧ (trapped.warp 1 0).tinfo = 7 ∧ ((trapped.warp 1 0).entry 0).pc = 0x40 := by decide +kernel
theorem test_eret : ((after (.eret restS) returning).warp 1 0).handler = none ∧ ((after (.eret restS) returning).warp 1 0).entry 0 = { valid := true, pc := 0, mask := 0xFFFFFFFF } := by decide +kernel
theorem test_csrr_tcause : regVal (after (.csrr { restS with dst := sr 1, bi := true, imm := 0 }) returning) (.s 1) = 0x16 := by decide +kernel
theorem test_killw : ((after (.killw { restS with bi := true }) onWarp).warp 1 0).ended = true := by decide +kernel
theorem test_waitev_takes : ((after (.waitev { restS with dst := sr 1, imm := 1 }) (teamWith fun t => { t with tevt := 3 })).team 1).tevt = 2 := by decide +kernel
theorem test_rpopn_opens : ((after (.rpopn { restS with dst := sr 3, bi := true, imm := 1 }) rpReady).rp 0).cur = 0x8000000000000001 := by decide +kernel
theorem test_rpqry : regVal (after (.rpqrySt { restS with dst := sr 3, bi := true, imm := 1 }) rpOpen) (.s 3) = 1 := by decide +kernel
theorem test_gsync_waits : (((after (.gsyncWait { restS with bi := true }) (syncState.modLaunch 0 fun l => { l with adm := { l.adm with groups := [[0], [0]] } })).warp 1 0).entry 0).hold = .group 0 0 := by decide +kernel
theorem test_syncm_completes : (((after (.syncm { restS with a := v 2 }) allOnes).warp 1 0).thread 9).pc = 1 := by decide +kernel

/-! Conservators: conservator 0 runs task 0's update, with one writable window of 256 bytes at PA 0x60100. -/

/-- The placed update. -/
def cons : State :=
  { (State.reset.withFetchWord 64 0x4000_0000_0000_0000) with
    agenda := [], cur := { agent := .cons 0 }
    conss := [(0, { task := some 0, cv := [(0, 0x3F800000), (64, 0x40000000)], ca := [(1, 1), (2, 0)] })]
    tasks := [(0, { st := .running, gen := 1, trec := { kind := 2 }, upd := { code := [0, 0], started := true, win := [{ pa := 0x60100, len := 256, w := true, used := true }]
                                                                              sync := [{ launch := 65537, team := 0, tl := 0, kind := 2 }, { launch := 65537, team := 0, tl := 0, kind := 1 }, {}, {}] } }),
              (1, { st := .running, gen := 1, trec := { kind := 1 }, launch := { adm := { ngang := 1, tpg := 1, wpt := 1 } } })]
    teams := [(7, { st := .resident, task := 1, wpt := 1, tpg := 1 })] }
theorem witness_conservator : cons.cur.agent = .cons 0 ∧ (consExact (.nadd { restN with d := 2, a := 0, b := 1 })).isSome = true ∧ (consExact (.ncvt restN)).isSome = true := ⟨rfl, rfl, rfl⟩
def wordF : NForm := { restN with a := 2, sub := 0 }
theorem witness_window : inWindow cons wordF ∧ (winOf cons wordF).1.w = true ∧ cons.poisonHit 0x60100 256 false = none := by
  unfold inWindow
  decide +kernel
theorem witness_window_end : inWindow cons { restN with a := 2, sub := 3, imm := 252 } ∧ ¬ inWindow cons { restN with a := 2, sub := 3, imm := 256 } ∧ ¬ inWindow cons { restN with a := 2, sub := 3, imm := 2 } := by
  unfold inWindow
  decide +kernel
theorem witness_window_read_only : ((winOf (cons.modUpd 0 fun u => { u with win := [{ pa := 0x60100, len := 256, used := true }] }) wordF).1).w = false := by decide +kernel
theorem witness_window_poison : ({ cons with poison := [0x3008] } : State).poisonHit 0x60100 256 false ≠ none := by decide +kernel
theorem witness_undo_first : (∃ y ∈ sectorsOf 0x60100 256, y ∉ cons.cUpd.logged)
    ∧ ∀ y ∈ sectorsOf 0x60100 256, y ∈ (cons.modUpd 0 fun u => { u with logged := sectorsOf 0x60100 256 }).cUpd.logged := by decide +kernel
theorem witness_loop : (cons.cons 0).caAt 1 = 1 ∧ (cons.cons 0).caAt 2 ≠ 1 ∧ (cons.cons 0).caAt 2 = 0 ∧ ((cons.cons 0).pc : Int) + (1 : BitVec 32).toInt < cons.cUpd.code.length
    ∧ ¬ ((cons.cons 0).pc : Int) + (2 : BitVec 32).toInt < cons.cUpd.code.length := by decide +kernel
theorem witness_done : (cons.cons 0).task = some cons.cUpdTask ∧ (cons.task cons.cUpdTask).upd.cons = 0 ∧ (cons.task 0).consumed = [] := by decide +kernel
theorem witness_signal : (cons.cUpd.sync.getD 0 {}).kind = 2 ∧ cons.syncTarget (cons.cUpd.sync.getD 0 {}) = some 1 ∧ (cons.task 1).launch.retiredGangs.contains 0 = false ∧ cons.teamNo 1 0 = some 7
    ∧ (cons.team 7).tlAddr 0 = none ∧ (cons.cUpd.sync.getD 2 {}).kind ≠ 2 := by decide +kernel
theorem witness_signal_gone : ({ cons with tasks := cons.tasks.take 1 } : State).syncTarget (cons.cUpd.sync.getD 0 {}) = none := by decide +kernel
theorem witness_wait : (cons.cUpd.sync.getD 1 {}).kind = 1 ∧ cons.taskOf (BitVec.ofNat 64 (cons.cUpd.sync.getD 1 {}).launch) = some 1 ∧ ((cons.cons 0).caAt 2 + (0 : W64)).toNat ≤ cons.sourceDone 1 0 0
    ∧ cons.sourceDone 1 0 0 < ((cons.cons 0).caAt 1).toNat ∧ (cons.task 1).st ≠ .retired ∧ (cons.task 1).st ≠ .complete ∧ (cons.cUpd.sync.getD 2 {}).kind ≠ 1
    ∧ ({ cons with tasks := cons.tasks.take 1 } : State).taskOf 65537 = none ∧ ((cons.modTask 1 fun t => { t with st := .complete }).task 1).st = .complete := by decide +kernel

theorem test_nadd : ((after (.nadd { restN with d := 2, a := 0, b := 1 }) cons).cons 0).lane 2 0 = 0x40400000 ∧ ((after (.nadd { restN with d := 2, a := 0, b := 1 }) cons).cons 0).lane 2 1 = 0 := by decide +kernel
theorem test_nrsq_zero : ((after (.nrsq { restN with d := 2, a := 3 }) cons).cons 0).nflags.getLsbD 5 = true := by decide +kernel
theorem test_nst_waits : ((after (.nst wordF) cons).cons 0).pendUndo = sectorsOf 0x60100 256 := by decide +kernel
theorem test_nst_writes : readLe (after (.nst wordF) (cons.modUpd 0 fun u => { u with logged := sectorsOf 0x60100 256 })).mem 0x60100 4 = 0x3F800000 := by decide +kernel
theorem test_nld_broadcast : ((after (.nld { restN with d := 2, a := 2, sub := 3 }) { cons with mem := [(0x60101, 1)] }).cons 0).lane 2 63 = 0x100 := by decide +kernel
theorem test_nloop_ends : ((after (.nloop { restN with a := 1 }) cons).cons 0).pc = 1 := by decide +kernel
theorem test_nsig_takes_number : (((after (.nsig restN) cons).team 7).tlAt 0).iss = 1 := by decide +kernel
theorem test_ndone_retires : ((after (.ndone restN) cons).task 0).st = .retired := by decide +kernel

/-! The part's own steps. -/

/-- Every thread of the warp is parked at slot 3 with MEET 3. -/
def parkedState : State := { (onWarp.modWarp 1 0 fun x => { x with path := [], timers := [{ addr := 3, start := 0, rjt := 64 }], th := (List.range 32).map fun t => (t, { st := .parked, pc := 3, meet := 3 }) }) with cyc := 64 }
/-- One of them is AWAY. -/
def oneAway : State := parkedState.modWarp 1 0 fun x => x.modThread 5 fun y => { y with st := .away }
theorem witness_meet_release : (parkedState.team 1).st = .resident ∧ (parkedState.team 1).halted = false ∧ (parkedState.warp 1 0).handler = none
    ∧ ∀ t ∈ List.range 32, ((parkedState.warp 1 0).thread t).st = .parked ∧ ((parkedState.warp 1 0).thread t).pc = 3 ∧ ((parkedState.warp 1 0).thread t).meet = 3 ∧ ((parkedState.warp 1 0).thread t).strag = none := by decide +kernel
theorem witness_rejoin_timeout : ((oneAway.warp 1 0).thread 5).st = .away ∧ ((oneAway.warp 1 0).thread 4).st = .parked ∧ (∃ m ∈ (oneAway.warp 1 0).timers, m.addr = 3 ∧ m.start + m.rjt ≤ oneAway.cyc) := by decide +kernel
/-- Eight paths of one thread each, a spilled thread, SPILL_AGE at its limit. -/
def spillState : State := onWarp.modWarp 1 0 fun x => { x with
  spillAge := 16384, path := (List.range 8).map fun e => (e, { valid := true, pc := 2, mask := 1#32 <<< e, age := e + 1 })
  th := (List.range 9).map fun t => (t, if t = 8 then { st := .spilled, pc := 4 } else { st := .pathed, pc := 2 }) }
theorem witness_spill : 16384 ≤ (spillState.warp 1 0).spillAge ∧ (spillState.warp 1 0).freeEntry = none ∧ ((spillState.warp 1 0).thread 8).st = .spilled ∧ (spillState.warp 1 0).handler = none
    ∧ (spillState.warp 1 0).fault = none ∧ (spillState.warp 1 0).evictee = some 0 := by decide +kernel
/-- The rill thread has come to its MEET. -/
def rillHome : State := onRill.modWarp 1 0 fun x => x.modThread 3 fun y => { y with meet := 0 }
theorem witness_rill_arrive : rillHome.arrives 0 = true ∧ ((rillHome.warp 1 0).thread 3).strag = none ∧ (rillHome.rill 0).thread < 32 ∧ Cells.wf {} rillHome.rills = true := by decide +kernel
/-- The rill thread stands at a line whose first slot holds a VOTE, which only a warp executes. -/
def rillRecall : State := { onRill with mem := writeBytes onRill.mem 0x60000 (lineOf [(encode (.vote .all { restA with dst := xr 0, a := xr 1 })).getD 0, 0x0000_7000_0000_0000_0000_0000, 0x0000_7000_0000_0000_0000_0000, 0x0000_7000_0000_0000_0000_0000, 0x0000_7000_0000_0000_0000_0000] 31) }
theorem witness_rill_recall : rillRecall.rillRecalls 0 = true ∧ (rillRecall.rill 0).used = true ∧ (rillRecall.rill 0).mirror = false ∧ (rillRecall.rill 0).fault = none ∧ Cells.wf {} rillRecall.rills = true := by decide +kernel
theorem witness_trap_dispatch : ((handlerState.modWarp 1 0 fun x => x.modEntry 0 fun p => { p with hold := .trap {} }).warp 1 0).handler = none
    ∧ (((handlerState.modWarp 1 0 fun x => x.modEntry 0 fun p => { p with hold := .trap {} }).warp 1 0).entry 0).hold = .trap {} ∧ (trapped.warp 1 0).handler.isSome = true ∧ (trapped.team 1).st = .resident ∧ Cells.get none ({ trapped with handlerBank := [] } : State).handlerBank (trapped.team 1).core = none := by decide +kernel
/-- A path that re-reads its line. -/
def refetchState : State := onWarp.modWarp 1 0 fun x => x.modEntry 0 fun p => { p with refetched := true }
theorem witness_refetch : ((refetchState.warp 1 0).entry 0).refetched = true ∧ (match refetchState.readLine 0 0 0 ((refetchState.warp 1 0).entry 0).pc with | .ok (l, _) => lineParityOk l | .error _ => false) = true
    ∧ (match ({ refetchState with mem := writeByte refetchState.mem 0x60000 1 } : State).readLine 0 0 0 0 with | .ok (l, _) => lineParityOk l | .error _ => true) = false := by decide +kernel
theorem witness_holds : (((onWarp.modWarp 1 0 fun x => x.modEntry 0 fun p => { p with hold := .yieldTill 0 }).warp 1 0).entry 0).hold = .yieldTill 0 ∧ (0 ≤ onWarp.cyc)
    ∧ (((onWarp.modWarp 1 0 fun x => x.modEntry 0 fun p => { p with hold := .pauseTill 0 }).warp 1 0).entry 0).hold = .pauseTill 0 := by decide +kernel

/-- READY is 1; list 0 of the placed device is enabled with 16 slots at VA 0x200, head 0 and tail 1; the slot holds a launch record of position 0. -/
def listState : State := ({ placed with bootstat := 1, mem := writeBytes placed.mem 0x60204 [1] }).modVdev 0 fun x => { x with lists := [(0, { en := true, lbase := 0x200, tail := 1 })] }
theorem witness_doorbell : listState.bootstat.getLsbD 0 = true ∧ ((listState.vdev 0).list 0).en = true ∧ ((16 : W32) - ((listState.vdev 0).list 0).head).toNat ≤ 2 ^ ((listState.vdev 0).list 0).lsz
    ∧ 2 ^ ((listState.vdev 0).list 0).lsz < ((17 : W32) - ((listState.vdev 0).list 0).head).toNat ∧ ((0 : W32) - ((listState.vdev 0).list 0).tail).toNat ≥ 2 ^ 31 := by decide +kernel
theorem witness_fetch : listState.freeEntry 0 = some 1 ∧ (match listState.devRead 0 0 0x200 64 with
    | .ok (bs, s1) => decide (fieldAt bs 8 4 = 0 ∧ (s1.task 1).gen = (listState.task 1).gen) && (match s1.devWrite 0 0 0x230 (leBytes 8 65537) with | .ok s2 => decide (s2.vdevs = listState.vdevs ∧ (s2.task 1).gen = (listState.task 1).gen) | .error _ => false)
    | .error _ => false) = true ∧ ((listState.vdev 0).list 0).notRetired = [] := by decide +kernel
theorem witness_fetch_stalls : (match ({ listState with mem := writeBytes listState.mem 0x60208 [5] } : State).devRead 0 0 0x200 64 with | .ok (bs, _) => decide (fieldAt bs 8 4 ≠ 0) | .error _ => false) = true := by decide +kernel
/-- Entry 5 waits for two releases. -/
def waitState : State := placed.modTask 5 fun t => { t with st := .waiting, gen := 1, npred := 2, trec := { kind := 1 } }
theorem witness_release : waitState.entryOf 65541 = some 5 ∧ (waitState.task 5).st = .waiting ∧ (waitState.task 5).rcvd + 1 < (waitState.task 5).npred
    ∧ ((waitState.modTask 5 fun t => { t with rcvd := 1 }).task 5).npred ≤ 1 + 1 ∧ (waitState.die 0).cur.guest = none ∧ waitState.entryOf 65540 = none
    ∧ ((waitState.modTask 5 fun t => { t with st := .running }).task 5).st ≠ .waiting := by decide +kernel
def readyState : State := placed.modTask 5 fun t => { t with st := .ready, gen := 1, trec := { kind := 1 } }
theorem witness_dispatch : readyState.canDispatch 5 = true ∧ readyState.gdisp 0 = false ∧ readyState.nextReady 0 0 = some 5 ∧ readyState.taskOf 65541 = some 5
    ∧ Cells.get 0 ({ readyState with opps := [(0, 1)] } : State).opps 0 ≠ 0 ∧ Cells.get 0 readyState.opps 0 = 0 := by decide +kernel
/-- Launch 5 waits for its gang's place. -/
def placeState : State := placed.modTask 5 fun t => { t with st := .dispatched, gen := 1, trec := { kind := 1 }, launch := { admitted := true, adm := { ngang := 1, tpg := 1, wpt := 1, scrk := 16, kernel := { maxw := 1, maxt := 1, scrk := 16 } } } }
theorem witness_place : placeState.tilesServed 5 = none ∧ placeState.waitsPlace 5 = true ∧ placeState.placing 0 = true ∧ placeState.placeTurn 5 = true ∧ (placeState.placeAt 5).isSome = true
    ∧ (placeState.task 5).launch.adm.kernel.grp = false := by decide +kernel
/-- The placed warp has ended. -/
def idleState : State := (placed.modTeam 1 fun t => { t with st := .ended }).modWarp 1 0 fun x => { x with ended := true, path := [], th := (List.range 32).map fun t => (t, { st := .exited }) }
def doneState : State := placed.modLaunch 0 fun l => { l with retiredGangs := [0] }
theorem witness_retire : idleState.gangDone 0 0 = true ∧ doneState.launchDone 0 = true ∧ (({ placed with tasks := [(0, { st := .retired, gen := 1 })] } : State).task 0).st = .retired
    ∧ (({ placed with tasks := [(0, { st := .retired, gen := 1 })] } : State).modDie 0 fun x => { x with queues := [(0, { en := true })] }).canPost 0 = true := by decide +kernel
def eventState : State := placed.modDie 0 fun x => { x with queues := [(3, { en := true, base := 0x70000, held := [List.replicate 32 7] })] }
theorem witness_event : (Cells.get {} (eventState.die 0).queues 3).held = [List.replicate 32 7] ∧ ((0 : W32) - 0).toNat < 2 ^ (Cells.get {} (eventState.die 0).queues 3).sz ∧ (List.replicate 32 (7 : Byte)).length = 32 := by decide +kernel

/-- Partition 0 is choosing; device 0 can run. -/
theorem witness_choose : (({ placed with parts := [] } : State).part 0).switching = none ∧ (({ placed with parts := [] } : State).part 0).holder = none ∧ ({ placed with parts := [] } : State).partRunnable 0 ≠ [] := by decide +kernel
/-- A switch to device 1, with no team of the outgoing device placed. -/
def switchState : State := { placed with parts := [(0, { holder := some 0, switching := some (some 1, 1), deadline := 100 })], teams := [] }
theorem witness_commit : (switchState.part 0).switching = some (some 1, 1) ∧ (switchState.part 0).missed = [] ∧ switchState.ns.toNat < (switchState.part 0).deadline ∧ switchState.ns.toNat < ({ switchState with nextTick := 5 } : State).nextTick ∧ ({ switchState with nextTick := 0 } : State).nextTick ≤ switchState.ns.toNat ∧ switchState.outgoing 0 = []
    ∧ (match switchState.writeRecords [] with | .ok _ => true | .error _ => false) = true ∧ (({ switchState with ns := 100 } : State).part 0).deadline ≤ 100 := by decide +kernel
theorem witness_request : placed.taskOf 65536 = some 0 ∧ (placed.task 0).trec.kind = 1 ∧ (placed.task 0).st = .running ∧ (placed.die 0).cur.guest = none := by decide +kernel
theorem witness_drain : ((placed.modTeam 1 fun t => { t with draining := some 1 }).team 1).draining = some (0 + 1) ∧ ((placed.modTeam 1 fun t => { t with draining := some 1 }).team 1).st = .resident
    ∧ 0 + 1 ≤ ({ placed with cyc := 1 } : State).cyc := by decide +kernel
/-- A request whose last team's record is due. -/
def preqState : State := ((placed.modLaunch 0 fun l => { l with preq := true }).modTeam 1 fun t => { t with halted := true, asked := true, record := some (0x1000, 0) })
theorem witness_request_saved : (preqState.task 0).launch.preq = true ∧ (preqState.part 0).switching = none ∧ (preqState.preqWriting 0).filter (fun j => !preqState.saveFault j && !(preqState.team j).chunksOut) = [1]
    ∧ (match preqState.writeRecord 1 with | .ok _ => true | .error _ => false) = true
    ∧ (placed.modLaunch 0 fun l => { l with preq := true }).preqWriting 0 = [] ∧ (placed.modLaunch 0 fun l => { l with preq := true }).preqDraining 0 = false := by decide +kernel
/-- A team that a guest request saves, and one that is only switched away. -/
theorem witness_leave : preqState.restoring 1 = false ∧ (preqState.team 1).asked = true ∧ (preqState.team 1).record.isSome = true ∧ (placed.team 1).asked = false ∧ (placed.team 1).record = none
    ∧ (placed.modTeam 1 fun t => { t with asked := true }).restoring 1 = false := by decide +kernel
theorem witness_tevpost : (placed.modDie 0 fun x => { x with tevlnch := 65536 }).taskOf 65536 = some 0 ∧ (placed.modDie 0 fun x => { x with tevlnch := 65536 }).teamNo 0 0 = some 1 := by decide +kernel
theorem witness_guest : ((placed.modDie 0 fun x => { x with cur := { x.cur with guest := some 2 } }).die 0).cur.guest = some 2 ∧ (0 : Nat) / 2 ^ 48 % 256 = 0 ∧ (placed.vdev 0).saveSize ≠ 0 ∧ (placed.vdev 0).snapSize ≠ 0 := by decide +kernel

theorem witness_homes : (placed.die 0).tinvc.getLsbD 0 = false ∧ ((placed.modDie 0 fun x => { x with tinvc := 1 }).die 0).tinvc.getLsbD 0 = true ∧ (placed.drain fun _ => true).pend = []
    ∧ Cells.get (16, 16) ((placed.modDie 0 fun x => { x with hsmapPend := [(7, (2, 1))] }).die 0).hsmapPend 7 = (2, 1) ∧ (placed.drain (inChunk 0 7)).drained (inChunk 0 7) = true
    ∧ placed.clock = false ∧ (10 : W64).toNat % 16 ≤ 10 ∧ ({ placed with clock := true } : State).clock = true := by decide +kernel
theorem witness_gallery : ((({ placed with teams := [] } : State).modDie 0 fun x => { x with galWopen := true }).die 0).galWopen = true ∧ (placed.die 0).galOpen = false ∧ (placed.die 0).galWopen = false := by decide +kernel
theorem witness_walk : (match ({ placed with tlb := [] } : State).translate 0 0x100 false false with | .ok (pa, e) => decide (pa = 0x60100 ∧ e = 0x50000) | .error _ => false) = true := by decide +kernel
/-- A fault of the placed warp asks for a slot, then stands in slot 0. -/
def faultQd : State := placed.modDie 0 fun x => { x with faultQ := [{ used := true, by_ := .warp 1 0 0, kind := 1, cause := 0x29 }] }
def faulted : State := placed.modDie 0 fun x => { x with fslots := [(0, { used := true, by_ := .warp 1 0 0, kind := 1, cause := 0x29 })] }
theorem witness_fault : (faultQd.die 0).faultQ = [{ used := true, by_ := .warp 1 0 0, kind := 1, cause := 0x29 }] ∧ (faultQd.die 0).freeSlot = some 0 ∧ (Cells.get {} (faulted.die 0).fslots 0).used = true
    ∧ (Cells.get {} (faulted.die 0).fslots 0).by_ = .warp 1 0 0 ∧ (faulted.warp 1 0).isHandlerPath 0 = false ∧ ((faulted.warp 1 0).entry 0).cnt = (0, 0, false) ∧ (Cells.get {} (placed.die 0).fslots 1023).used = false := by decide +kernel
theorem witness_rollback : (placed.task 0).st = .running ∧ (placed.task 0).launch.mirrored = true ∧ placed.tasks.all (fun t => !t.2.consumed.contains 65536) = true ∧ (placed.task 0).nroll < 4
    ∧ 4 ≤ ((placed.modTask 0 fun t => { t with nroll := 4 }).task 0).nroll := by decide +kernel
/-- Stopping leaves nothing to perform, or a write that cannot be performed yet. -/
theorem witness_rollback_stops : (placed.task 0).launch.stopping = none ∧ (placed.stopLaunch 0).launchQuiet 0 = true ∧ (noSnap.task 0).st = .running ∧ (noSnap.task 0).trec.kind = 1 ∧ (noSnap.task 0).launch.stopping = none
    ∧ (noSnap.stopLaunch 0).launchQuiet 0 = false := by decide +kernel
/-- A running update that no machine check has met. -/
theorem witness_update_check : (cons.task 0).st = .running ∧ (cons.task 0).trec.kind = 2 ∧ (cons.task 0).upd.finished = false ∧ (cons.task 0).upd.faulted = none := by decide +kernel
theorem witness_snapshot : (pendState.pend.find? fun p => p.task == 0 && p.pa / 65536 == 6 && paSpace p.pa == .hbm) = some (pendOf memState 0x100 0x60100 [1, 2, 3, 4]) ∧ pendState.snapReady 0 0x60100 = true := by decide +kernel
theorem witness_control_space : csrOffset 15 8 = 0x2578 ∧ csrOffset 0 11 = 0x400 ∧ (placed.die 3).cur.guest = none := by decide +kernel

/-! Conservators' steps, durability and recovery. -/

/-- Update 0 waits for conservator 0 at point 1, which is open. -/
def updState : State := { cons with
  conss := [], cur := {}, rpoints := [(0, { cur := 0x8000000000000001 })], stks := (List.range 8).map fun i => (i, { ulSize := 1, jrnSize := 1 })
  tasks := [(0, { st := .dispatched, gen := 1, trec := { kind := 2 }, upd := { code := [0, 0], stepNo := 1, win := [{ pa := 0x60100, len := 256, w := true, used := true }], ca := [5] } })] }
theorem witness_update_start : (updState.cons 0).task = none ∧ updState.consQueue 0 = [0] ∧ updState.stepOk 0 1 = true ∧ (∀ w ∈ (updState.task 0).upd.win, updState.windowTags w = [])
    ∧ updState.startRoom 0 0 = true ∧ ({ updState with rpoints := [] } : State).stepOk 0 1 = false := by decide +kernel
/-- The records of its window's unsealed sector find no room. -/
theorem witness_update_waits : (let s : State := { updState with tags := [(0x3008, { vdev := 0, point := 1, unjournalled := true, hbm := List.replicate 32 0 })], stks := [(0, { ulSize := 0, jrnSize := 1 })] }
    (s.cons 0).task = none ∧ s.consQueue 0 = [0] ∧ s.stepOk 0 1 = true ∧ s.startRoom 0 0 = false) := by decide +kernel
/-- Its first write waits for the undo record of sector 0x3008. -/
def undoState : State := { updState with conss := [(0, { task := some 0, pendUndo := [0x3008] })] }
theorem witness_undo_log : (undoState.cons 0).pendUndo = [0x3008] ∧ (undoState.cons 0).task = some 0 ∧ (undoState.stk (sectorStack 0x3008)).undo.length < (undoState.stk (sectorStack 0x3008)).ulSize.toNat * 16384
    ∧ (({ undoState with stks := [] } : State).stk (sectorStack 0x3008)).ulSize.toNat * 16384 ≤ 0 := by decide +kernel
def sigState : State := cons.modCons 0 fun c => { c with pendSig := [(65537, 0, 0, 1)] }
theorem witness_signal_completes : (sigState.cons 0).pendSig = [(65537, 0, 0, 1)] ∧ sigState.taskOf (BitVec.ofNat 64 65537) = some 1 ∧ (sigState.task 1).st ≠ .retired ∧ (sigState.task 1).st ≠ .complete
    ∧ sigState.teamNo 1 0 = some 7 ∧ (sigState.team 7).tlAddr 0 = none := by decide +kernel
theorem witness_update_rollback : ((cons.modUpd 0 fun u => { u with faulted := some 0x315 }).task 0).upd.faulted = some 0x315 ∧ ((cons.modUpd 0 fun u => { u with faulted := some 0x315 }).task 0).st = .running := by decide +kernel
theorem witness_step_abort : ({ updState with stepAbt := 0x100000001 } : State).stepAbt.getLsbD 32 = true ∧ ((0x100000001 : W64).setWidth 32 : W32) = 1 ∧ (updState.task 0).trec.kind = 2 ∧ (updState.task 0).st = .dispatched := by decide +kernel
theorem witness_undo_restore : ((updState.modStk 0 fun k => { k with undo := [{ pa := 0x60100, step := 1, old := List.replicate 32 9 }] }).stk 0).undo.filter (fun r => r.step == 1)
    = [{ pa := 0x60100, step := 1, old := List.replicate 32 9 }] ∧ (List.replicate 32 (9 : Byte)).length = 32 := by decide +kernel

/-- A sector written under point 1 is not yet journalled. -/
def tagState : State := { rpOpen with tags := [(0x3008, { vdev := 0, point := 1, unjournalled := true })] }
theorem witness_journal : (Cells.get {} tagState.tags 0x3008).unjournalled = true ∧ (tagState.stk (sectorStack 0x3008)).jrnRoom = true := by decide +kernel
/-- Point 1 is sealing, with nothing outstanding. -/
def sealState : State := rpReady.modRp 0 fun r => { r with cur := 0x4000000000000001, keptTask := List.replicate 64 0 }
theorem witness_seal : sealState.sealReady 0 = true ∧ sealState.durable 0 = true := by decide +kernel
/-- Point 1 sealed: its record stands in slot 1. -/
def sealed : State := after (.sealPoint 0) sealState
def recovering (cmd : Nat) (s : State) : State := s.modRp 0 fun r => { r with busy := true, cmd := cmd }
theorem witness_recover_none : ((recovering 1 onWarp).rp 0).lastSeal 0 = none ∧ ((recovering 1 onWarp).rp 0).busy = true ∧ ((recovering 1 onWarp).rp 0).cmd = 1 := by decide +kernel
theorem witness_recover : ∃ x, ((recovering 1 sealed).rp 0).lastSeal 0 = some x ∧ sealAgrees (recovering 1 sealed) 0 x := by
  have h : (match ((recovering 1 sealed).rp 0).lastSeal 0 with
    | some x => decide (fieldAt x 0x10 8 = (recovering 1 sealed).pointLines 0 (BitVec.ofNat 32 (fieldAt x 8 4)))
        && ((List.range 8).all fun i => decide (fieldAt x (0x80 + 8 * i) 8 = (recovering 1 sealed).perStk 0 (BitVec.ofNat 32 (fieldAt x 8 4)) i))
        && decide (fieldAt x 0x18 8 = ((recovering 1 sealed).pointDigest 0 (BitVec.ofNat 32 (fieldAt x 8 4))).toNat)
    | none => false) = true := by decide +kernel
  split at h
  · next x hx =>
    simp only [Bool.and_eq_true, decide_eq_true_eq, List.all_eq_true, List.mem_range] at h
    exact ⟨x, hx, h.1.1, h.1.2, h.2⟩
  · cases h
/-- A journal line of point 1 that its seal does not count. -/
def strayLine : State := (recovering 1 sealed).modStk 0 fun k => { k with lines := [{ pa := 0x60100, tag := 1, data := List.replicate 32 0 }] }
theorem witness_recover_disagrees : ∃ x, (strayLine.rp 0).lastSeal 0 = some x ∧ ¬ sealAgrees strayLine 0 x := by
  have h : (match (strayLine.rp 0).lastSeal 0 with | some x => decide (fieldAt x 0x10 8 ≠ strayLine.pointLines 0 (BitVec.ofNat 32 (fieldAt x 8 4))) | none => false) = true := by decide +kernel
  split at h
  · next x hx => exact ⟨x, hx, fun hs => (of_decide_eq_true h) hs.1⟩
  · cases h
theorem witness_format : ((recovering 2 rpOpen).rp 0).isOpen = true ∧ ((recovering 2 onWarp).rp 0).isOpen = false ∧ ((recovering 2 onWarp).rp 0).sealing = false := by decide +kernel
theorem witness_quiesce : ({ placed with qctl := 0x90 } : State).qBusy 1 0 = true ∧ (placed.vdev 0).frozen = false ∧ ({ placed with qctl := 0xA0 } : State).qBusy 2 0 = true := by decide +kernel
/-- No chunk of the frozen device's copies is on its way. -/
theorem witness_quiesce_saves : (((placed.placedOf 0).foldl State.haltTeam (placed.modVdev 0 fun x => { x with frozen := true })).chunksOut (placed.placedOf 0)) = false ∧ placed.placedOf 0 = [1] := by decide +kernel
theorem witness_die_reset : placed.affected 0 (placed.task 0).vdev = true ∧ (placed.task 0).st = .running := by decide +kernel

theorem test_seal_slot : slotValid 0 (Cells.get [] (sealed.rp 0).slots 1) = true ∧ (sealed.rp 0).sealedN = 1 := by decide +kernel
theorem test_recover_status : ((after (.recover 0) (recovering 1 sealed)).rp 0).status = 0 ∧ ((after (.recover 0) strayLine).rp 0).status = 2 := by decide +kernel

/-! The digest of an image. -/

theorem beBytes_length (n x : Nat) : (beBytes n x).length = n := by simp [beBytes]
theorem shaRound_length (h : List W64) (kw : W64 × W64) (hh : h.length = 8) : (shaRound h kw).length = 8 := by
  unfold shaRound
  split
  · rfl
  · exact hh
theorem shaBlocks_length (n : Nat) (h : List W64) (bs : List Byte) (hh : h.length = 8) : (shaBlocks n h bs).length = 8 := by
  induction n generalizing h bs with
  | zero => exact hh
  | succ n ih =>
    refine ih _ _ ?_
    unfold shaBlock
    dsimp only
    rw [List.length_map, List.length_zip, hh]
    have : ∀ (l : List (W64 × W64)) (x : List W64), x.length = 8 → (l.foldl shaRound x).length = 8 := by
      intro l
      induction l with
      | nil => exact fun _ h => h
      | cons y l ih => exact fun x hx => ih _ (shaRound_length x y hx)
    rw [this _ _ hh]
    rfl
theorem sha384_length (m : List Byte) : (sha384 m).length = 48 := by
  unfold sha384
  dsimp only
  generalize hl : shaBlocks _ shaInit _ = l
  have : l.length = 8 := by rw [← hl]; exact shaBlocks_length _ _ _ rfl
  rw [List.length_flatMap]
  simp only [beBytes_length]
  simp [this]
theorem digest_at (h z r d : List Byte) (hh : h.length = 32) (hz : z.length = 48) (hd : d.length = 48) :
    slice ((h ++ z ++ r).take 0x20 ++ d ++ (h ++ z ++ r).drop 0x50) 0x20 48 = d
    ∧ ((h ++ z ++ r).take 0x20 ++ d ++ (h ++ z ++ r).drop 0x50).take 0x20 = h ∧ ((h ++ z ++ r).take 0x20 ++ d ++ (h ++ z ++ r).drop 0x50).drop 0x50 = r := by
  have h1 : (h ++ z ++ r).take 0x20 = h := by simp [List.append_assoc, hh]
  have h2 : (h ++ z ++ r).drop 0x50 = r := by simp [List.append_assoc, List.drop_append, hh, hz]
  rw [h1, h2]
  unfold slice
  refine ⟨?_, ?_, ?_⟩
  · simp [List.append_assoc, hh, hd]
  · simp [List.append_assoc, hh]
  · simp [List.append_assoc, List.drop_append, hh, hd]
/-- An image written with its digest carries it. -/
theorem image_digest (s : State) (v : Nat) :
    let b := withDigest (s.imageBody v)
    slice b 0x20 48 = sha384 (b.take 0x20 ++ List.replicate 48 0 ++ b.drop 0x50) := by
  have assoc : ∀ a z c d e p q : List Byte, a ++ z ++ c ++ d ++ e ++ p ++ q = a ++ z ++ (c ++ d ++ e ++ p ++ q) := by simp [List.append_assoc]
  obtain ⟨h, r, hr, hh⟩ : ∃ h r, s.imageBody v = h ++ List.replicate 48 0 ++ r ∧ h.length = 32 :=
    ⟨_, _, assoc _ _ _ _ _ _ _, by simp only [padTo, List.length_append, leBytes_length, List.length_replicate]⟩
  have := digest_at h (List.replicate 48 0) r (sha384 (h ++ List.replicate 48 0 ++ r)) hh (by simp) (sha384_length _)
  unfold withDigest
  rw [hr]
  dsimp only
  rw [this.1, this.2.1, this.2.2]

/-- Device 0 is frozen, and its image goes to VA 0x1000. -/
def frozen : State := { placed.modVdev 0 fun x => { x with frozen := true } with qctl := 0x90, qaddr := 0x1000, qsize := 0x400, teams := [], tasks := [] }
theorem witness_image_quiesced : frozen.qBusy 1 0 = true ∧ (frozen.vdev 0).frozen = true ∧ frozen.quiet 0 = true ∧ frozen.unjournalled 0 = [] ∧ frozen.durable 0 = true ∧ (frozen.imageBody 0).length ≤ frozen.qsize.toNat
    ∧ (match frozen.devWrite 0 0 0x1000 (withDigest (frozen.imageBody 0)) with | .ok _ => true | .error _ => false) = true ∧ ({ frozen with qsize := 0 } : State).qsize.toNat < (frozen.imageBody 0).length := by decide +kernel
/-- The image stands at VA 0x1000, and RESTORE of it is asked. -/
def restoring : State := { frozen with qctl := 0xB0, mem := frozen.mem ++ ((withDigest (frozen.imageBody 0)).zipIdx 0x61000).map fun c => (c.2, c.1) }
theorem get_listed (m : Cells Byte) (lo : Nat) (l : List Byte) (h : m.all (fun c => decide (c.1 < lo)) = true) (a : Nat) (ha : lo ≤ a) :
    readBytes (m ++ (l.zipIdx a).map fun c => (c.2, c.1)) a l.length = l := by
  induction m with
  | nil =>
    induction l generalizing a with
    | nil => rfl
    | cons x l ih =>
      have hr : ∀ (n b : Nat), a < b → readBytes ((a, x) :: (l.zipIdx (a + 1)).map fun c => (c.2, c.1)) b n = readBytes ((l.zipIdx (a + 1)).map fun c => (c.2, c.1)) b n := by
        intro n
        induction n with
        | zero => intros; rfl
        | succ n ih =>
          intro b hb
          rw [readBytes, readBytes, ih (b + 1) (by omega)]
          congr 1
          unfold readByte
          rw [Cells.get_cons, if_neg (by omega)]
      rw [List.nil_append, List.zipIdx_cons, List.map_cons, List.length_cons, readBytes, hr _ _ (by omega)]
      have := ih (a + 1) (by omega)
      rw [List.nil_append] at this
      rw [this]
      congr 1
      unfold readByte
      rw [Cells.get_cons, if_pos rfl]
  | cons c m ih =>
    simp only [List.all_cons, Bool.and_eq_true, decide_eq_true_eq] at h
    have e := ih h.2
    generalize (l.zipIdx a).map (fun c => (c.2, c.1)) = t at e ⊢
    have hr : ∀ (n b : Nat), lo ≤ b → readBytes (c :: m ++ t) b n = readBytes (m ++ t) b n := by
      intro n
      induction n with
      | zero => intros; rfl
      | succ n ih =>
        intro b hb
        rw [readBytes, readBytes, ih (b + 1) (by omega)]
        congr 1
        unfold readByte
        rw [List.cons_append, show c = (c.1, c.2) from rfl, Cells.get_cons, if_neg (by omega)]
    rw [hr _ _ ha]
    exact e
theorem read_page (s : State) (n : Nat) (hn : pageSegs (n / 65536 + 2) 0x1000 n = [(0x1000, n)]) (ht : s.translate 0 0x1000 false false = .ok (0x61000, 0x50000)) (hp : s.poison = [])
    (hb : s.chunkBusy 0x61000 = false) : s.devRead 0 0 0x1000 n = .ok (readBytes (s.markFrom 0 0x50000 false).mem 0x61000 n, s.markFrom 0 0x50000 false) := by
  unfold State.devRead
  rw [hn]
  unfold State.mapSegs
  have hf : ∀ l : List Nat, l.find? (fun _ => false) = none := by
    intro l
    induction l with
    | nil => rfl
    | cons x l ih => simp
  have hs : s.settleChunk 0x61000 = s := by simp [State.settleChunk, hb]
  simp only [ht, hs, State.partReaches, show paSpace 0x61000 = .hbm by decide, Bool.not_true, Bool.false_eq_true, if_false, State.poisonHit, hp, List.contains_nil, Bool.false_and, hf]
  simp [State.mapSegs]
theorem all_but_one {α : Type} (l : List α) (p : α → Bool) (h1 : (l.take 5).all p = true) (x : α) (hx : l[5]? = some x) (h : p x = true) (h2 : (l.drop 6).all p = true) : l.all p = true := by
  rw [← List.take_append_drop 5 l, List.all_append, h1, Bool.true_and]
  rw [List.drop_eq_getElem?_toList_append, hx, List.all_append]
  simp [h, h2]
/-- A walk of die 0 over its own entry at 0x50000 leaves the page at 0x61000. -/
theorem marked_page (s : State) : readBytes (s.markFrom 0 0x50000 false).mem 0x61000 1024 = readBytes s.mem 0x61000 1024 := by
  have hk : reqKey 0 0x50000 = none := by decide
  have hp : readBytes (s.markPte 0x50000 false).mem 0x61000 1024 = readBytes s.mem 0x61000 1024 := by
    unfold State.markPte
    split
    · rfl
    · exact readBytes_writeBytes_out _ _ _ _ _ (by simp)
  simp only [State.markFrom, State.numberFrom, hk]
  split
  · exact hp
  · rfl
theorem witness_restore : restoring.qBusy 3 0 = true ∧ ∃ h s1 b s2, restoring.devRead 0 0 restoring.qaddr.toNat 256 = .ok (h, s1)
    ∧ s1.devRead 0 0 s1.qaddr.toNat (max 1024 (min (fieldAt h 8 8) (2 ^ 40))) = .ok (b, s2) ∧ ∀ c ∈ s2.imageChk 0 b, c.2.2 = true := by
  refine ⟨by decide +kernel, readBytes (restoring.markFrom 0 0x50000 false).mem 0x61000 256, restoring.markFrom 0 0x50000 false,
    readBytes ((restoring.markFrom 0 0x50000 false).markFrom 0 0x50000 false).mem 0x61000 1024, (restoring.markFrom 0 0x50000 false).markFrom 0 0x50000 false, read_page restoring 256 (by decide) (by decide +kernel) (by decide +kernel) (by decide +kernel), ?_, ?_⟩
  · have : fieldAt (readBytes (restoring.markFrom 0 0x50000 false).mem 0x61000 256) 8 8 = 1024 := by decide +kernel
    have hq : (restoring.markFrom 0 0x50000 false).qaddr.toNat = 0x1000 := by decide +kernel
    rw [this, hq, show max 1024 (min 1024 (2 ^ 40)) = 1024 by decide]
    exact read_page (restoring.markFrom 0 0x50000 false) 1024 (by decide) (by decide +kernel) (by decide +kernel) (by decide +kernel)
  · have hb : readBytes ((restoring.markFrom 0 0x50000 false).markFrom 0 0x50000 false).mem 0x61000 1024 = withDigest (frozen.imageBody 0) := by
      have h1 := marked_page
      rw [h1, h1]
      have hl : (withDigest (frozen.imageBody 0)).length = 1024 := by decide +kernel
      conv => lhs; arg 3; rw [← hl]
      exact get_listed frozen.mem 0x61000 _ (by decide +kernel) 0x61000 (by omega)
    rw [hb]
    rw [← List.all_eq_true]
    refine all_but_one _ _ (by decide +kernel) _ rfl ?_ (by decide +kernel)
    exact beq_iff_eq.mpr (image_digest frozen 0)

/-! Links, the host's ports, power. -/

/-- A data flit. -/
def aFlit : Flit := { kind := 0, vc := 0, payload := [1, 2] }
/-- Link end 4 has sent SEQ 0 to end 0 of the other die, holds it, and its ACK is none. -/
def wireState : State := placed.modLink 2 fun x => { x with wire := [flitBytes 0 0xFFFF aFlit], buffer := [(0, aFlit)], nextSeq := 1 }
theorem witness_send : sendsNow (placed.link 5) ∧ (placed.link 5).state < 2 ∧ aFlit.kind = 0 := by unfold sendsNow; decide +kernel
theorem witness_receive : (wireState.link 2).wire = flitBytes 0 0xFFFF aFlit :: [] ∧ flitOk (flitBytes 0 0xFFFF aFlit) = true ∧ flitOk (flitHit (flitBytes 0 0xFFFF aFlit)) = false
    ∧ flitSeq (flitBytes 0 0xFFFF aFlit) = 0 ∧ flitAck (flitBytes 0 0xFFFF aFlit) = 0xFFFF ∧ (flitOf (flitBytes 0 0xFFFF aFlit)).kind = 0 ∧ (flitOf (flitBytes 0 0xFFFF aFlit)).vc.toNat ≤ 2
    ∧ (∀ j ∈ List.range 24, (wireState.link j).state ≠ 3) ∧ (0 : BitVec 16) = (wireState.link 0).expected
    ∧ (∀ b ∈ (wireState.link 0).buffer, 2 ^ 15 ≤ ((0xFFFF : BitVec 16) - b.1).toNat) ∧ (0 : BitVec 16) ≠ ((wireState.modLink 0 fun x => { x with expected := 1 }).link 0).expected
    ∧ ∃ b ∈ ((wireState.modLink 0 fun x => { x with buffer := [(0xFFFF, aFlit)] }).link 0).buffer, ((0xFFFF : BitVec 16) - b.1).toNat < 2 ^ 15 := by decide +kernel
theorem witness_receive_all : (∀ j, (wireState.link j).state ≠ 3) := by
  intro j
  unfold State.link wireState State.modLink
  by_cases h : j = 2
  · subst h; decide +kernel
  · rw [show (Cells.modify {} placed.links 2 fun x => { x with wire := [flitBytes 0 0xFFFF aFlit], buffer := [(0, aFlit)], nextSeq := 1 }) = [(2, { wire := [flitBytes 0 0xFFFF aFlit], buffer := [(0, aFlit)], nextSeq := 1 })] by decide +kernel]
    rw [Cells.get_cons, if_neg (Ne.symm h)]
    show ({} : LinkEnd).state ≠ 3
    decide
theorem test_send_and_receive : ((after (.flitSend 2 aFlit) placed).link 2).buffer = [(0, aFlit)] ∧ ((after (.flitReceive 0 true) wireState).link 0).delivered = [[1, 2] ++ List.replicate 242 0]
    ∧ ((after (.flitReceive 0 false) wireState).link 0).crce = 1 := by decide +kernel
/-- A microsecond after the flit was sent; eight retransmissions. -/
def lateState : State := { (wireState.modLink 2 fun x => { x with retries := 8 }) with ns := 1000 }
theorem witness_replay : (lateState.link 2).state < 2 ∧ (lateState.link 2).buffer ≠ [] ∧ (lateState.link 2).heldSince + 1000 ≤ lateState.ns.toNat ∧ 8 ≤ (lateState.link 2).retries := by decide +kernel
/-- The edge of ends 0 and 2 retrains. -/
def trainState : State := { ((placed.modLink 0 fun x => { x with state := 2 }).modLink 2 fun x => { x with state := 2 }) with ns := 10000 }
theorem witness_retrain : (trainState.link 0).state = 2 ∧ (trainState.link 0).heldSince + 10000 ≤ trainState.ns.toNat ∧ (trainState.link 0).half = false ∧ (trainState.link 2).half = false
    ∧ ((trainState.modLink 0 fun x => { x with heldSince := 1 }).link 0).heldSince + 10000 > trainState.ns.toNat ∧ (7 : BitVec 4) &&& 3 = 3 ∧ (7 : BitVec 4) ≠ 15 := by decide +kernel
/-- Decoder 0 covers the first GiB of stack 0; port 18 of die 0 reaches every slice, or none; an RMW of PA 0x60000 is outstanding and owns its line. -/
def hostState : State := { placed with hdm := [(0, some (0, 2 ^ 30))], cxl := [{ id := 3, owner := true, pend := { pa := 0x60000 } }] }
def hostShut : State := hostState.modDie 0 fun x => { x with xbar := [(18, 0)] }
theorem witness_decoder : (2 ^ 30 : W64) ≠ 0 ∧ (2 ^ 30 : W64).toNat % 2 ^ 30 = 0 ∧ (0 : W64).toNat % 2 ^ 37 + (2 ^ 30 : W64).toNat ≤ (80 - placed.csize.toNat) * 2 ^ 30
    ∧ (79 * 2 ^ 30 : W64).toNat % 2 ^ 37 + (2 ^ 30 : W64).toNat = (80 - placed.csize.toNat) * 2 ^ 30 := by decide +kernel
theorem witness_host_access : hostState.decoded 0x61000 2 = true ∧ (∀ k ∈ sectorsOf 0x61000 2, hostState.reaches 0 18 (32 * k) = true) ∧ (∀ k ∈ sectorsOf 0x61000 2, k ∉ hostState.poison)
    ∧ hostShut.decoded 0x61000 2 = true ∧ ((sectorsOf 0x61000 2).find? fun k => !hostShut.reaches 0 18 (32 * k)) = some 0x3080 := by decide +kernel
theorem test_host_access : readBytes (after (.cxlMemWrite 0x61000 [1, 2]) hostState).mem 0x61000 2 = [1, 2] ∧ (after (.cxlMemWrite 0x61000 [1, 2]) hostShut).mem = hostShut.mem := by decide +kernel
/-- A gallery address from outside, before and after the die's gallery opens. -/
theorem witness_gallery_write : (0 : Nat) + [(1 : Byte), 2].length ≤ 2 ^ 31 ∧ (placed.die (0 / 2 ^ 29 % 4)).galOpen = false ∧ ((placed.modDie 0 fun x => { x with galOpen := true }).die (0 / 2 ^ 29 % 4)).galOpen = true := by decide +kernel
theorem witness_completion : ∀ c ∈ hostState.cxl, c.id = 3 → c.copy = none := by decide +kernel
theorem witness_snoop : hostState.lineOwned 0x1800 = true ∧ 0x1800 ∉ hostState.snoops ∧ hostState.cxl.filter (fun c => [3].contains c.id) = [{ id := 3, owner := true, pend := { pa := 0x60000 } }] := by decide +kernel
/-- Port 1 has retransmitted eight times. -/
def portState : State := placed.modLink 9 fun x => { x with retries := 8 }
theorem witness_port_retrain : (portState.link (8 + 1)).state < 2 ∧ 8 ≤ (portState.link (8 + 1)).retries ∧ (portState.link (8 + 1)).half = false ∧ (2 : BitVec 2) ≠ 0 := by decide +kernel
theorem witness_inbound : (placed.link (8 + 7)).state < 2 ∧ paSpace 0x61000 = .hbm ∧ paSpace (0x61000 + 2 - 1) = .hbm ∧ placed.inCistern 0x61000 = false ∧ placed.inCistern (0x61000 + 2 - 1) = false
    ∧ (Cells.get {} placed.reqs (1024 + 8 * 1023)).covers 0 = false ∧ (∀ k ∈ sectorsOf 0x61000 2, placed.reaches (7 / 2) 19 (32 * k) = true) ∧ (∀ k ∈ sectorsOf 0x61000 2, k ∉ placed.poison)
    ∧ (Cells.get {} ({ placed with reqs := [(1024, { bound := 1 })] } : State).reqs (1024 + 8 * 0)).covers 0 = true := by decide +kernel

theorem witness_bind_unreadable : (match placed.readObj 0 0 0x100000000 with | .error e => decide (e.1 < 2 ^ 64) | .ok _ => false) = true := by decide +kernel
theorem witness_power_on : State.reset.bootstat = 0 ∧ (match fwCheck State.reset.flash with | .error e => decide (e = 1) | .ok _ => false) = true ∧ ({ placed with powerLost := true, bootstat := 1 } : State).powerLost = true := by decide +kernel
/-- The first evaluation is due (R451). -/
def evalDue : State := { State.reset with ns := 10000 }
theorem witness_power_eval : evalDue.nextEval ≤ evalDue.ns.toNat ∧ State.reset.ns.toNat < State.reset.nextEval ∧ State.reset.power.plimNext < 2401 ∧ ¬(State.reset.power.plimNext < 2400) ∧ (105 : Nat) ≤ 114 ∧ (114 : Nat) < 115 := by decide +kernel
theorem test_power_eval : (after (.powerEval 2400 105) evalDue).power.f = evalDue.power.f - 100 ∧ (after (.powerEval 2400 115) evalDue).power.trip = true ∧ (after (.powerEval 2400 115) State.reset).power.trip = false := by decide +kernel
/-- A NOP placed, and the clocks stopped or the power gone. -/
theorem witness_stops : ({ placed with powerLost := true } : State).nextAction ≠ .ev .powerOn ∧ ({ placed with powerLost := true } : State).nextAction ≠ .ev .packagePowerLoss
    ∧ placed.powerLost = false ∧ placed.power.trip = false ∧ (match step placed with | .next _ => true | _ => false) = true := by decide +kernel
/-- An object with no class, no kernel and no code; another whose one line names c5, which it does not declare. -/
def objBody (code : List Byte) : List Byte :=
  let sect (k n : Nat) : List Byte := leBytes 8 k ++ leBytes 8 0x100 ++ leBytes 8 n
  leBytes 4 0x424F4A46 ++ leBytes 2 1 ++ leBytes 2 0x80 ++ leBytes 8 3 ++ leBytes 8 0x80 ++ List.replicate 40 0 ++ List.replicate 64 0
    ++ sect 1 code.length ++ sect 2 0 ++ sect 7 0 ++ List.replicate 56 0 ++ code
/-- The object with its digest. -/
def objOf (code : List Byte) : List Byte := (objBody code).take 0x40 ++ sha384 (objBody code) ++ (objBody code).drop 0x70
def bindState (code : List Byte) : State := { placed with mem := writeBytes placed.mem 0x61000 (objOf code) }
def useC5 : List Byte := lineOf [(encode (.fadd { restA with cls := 5 })).getD 0, (encode (.nop restA)).getD 0, (encode (.nop restA)).getD 0, (encode (.nop restA)).getD 0, (encode (.nop restA)).getD 0] 31
theorem witness_bind : (match (bindState []).readObj 0 0 (0x1000 : W64).toNat with | .ok x => (match x.1.bind none with | .ok _ => true | .error _ => false) | .error _ => false) = true := by decide +kernel
theorem witness_bind_fails : (match (bindState useC5).readObj 0 0 (0x1000 : W64).toNat with | .ok x => (match x.1.bind none with | .ok _ => false | .error r => decide (fieldAt r 0 2 = 0x102 ∧ fieldAt r 2 1 = 5)) | .error _ => false) = true := by decide +kernel

/-! Clauses on rill threads, waiting accesses and answers, and on what a fault, a reset or a power cycle leaves. -/

theorem witness_special_rill : (Instr.gets { restA with dst := v 2, a := xr 14 }).wf = true ∧ onRill.cur.agent = .rill 0 ∧ (Instr.sets { restA with dst := xr 13, a := v 2 }).wf = true
    ∧ (Instr.sets { restA with dst := xr 8, a := v 2 }).wf = true ∧ runsIn onRill false always = [3] ∧ setsValue 13 (onRill.rdReg 3 (v 2) true) = true ∧ setsValue 8 (onRill.rdReg 3 (v 2) true) = true := by decide +kernel
/-- Forms of the whole warp, met by the rill thread. -/
theorem witness_warp_only : (∀ i ∈ [Instr.vote .all { restA with dst := xr 0, a := xr 1 }, .lutb lutF, .iadd { restA with dst := sr 2, a := sr 1, b := sr 3, mu := true }, .gets { restA with dst := sr 2, a := xr 0, mu := true }], inWarpOnly i = true)
    ∧ (onRill.rill 0).thread < 32 ∧ Cells.wf {} onRill.rills = true := by decide +kernel
/-- A codebook entry of 8 and an activation of 2 breach RANGE 1; so does the sum over a tile. -/
def lutTrap : State := ranged.modWarp 1 0 fun x => { x with s := [(4, 0x4100), (9, 0x40000000)] }
theorem witness_lutb_traps : ∃ j, j < 16 ∧ (roundClass (lutTrap.cls 3) (rMul (decodeFF 2 ((lutTrap.rdS (4 + j / 4)).toNat / 2 ^ (16 * (j % 4)) % 2 ^ 16)) (lutTrap.rdCls lutTrap.lowThread (sr 9) 3))).trap = true :=
  ⟨0, by decide, by decide +kernel⟩
theorem witness_redw_traps : ∃ u ∈ ranged.active always, (roundClass (ranged.cls 3)
    (r229 .add 1 32 (((ranged.active always).filter fun x => x / 32 == u / 32).map fun x => (ranged.clsA fF x, {})))).trap = true := ⟨0, by decide +kernel, by decide +kernel⟩
/-- Thread 3 asks for host memory at VA 0x100, and thread 5 for a peer's. -/
def askHost : Pend := { team := 1, va := 0x100, pa := 2 ^ 55, ask := some (3, false) }
def askPeer : Pend := { team := 1, va := 0x100, pa := 2 ^ 54 + 2 ^ 44, ask := some (5, false) }
def askState : State := { memState with pend := [askHost, askPeer] }
theorem witness_asks : askState.pend[0]? = some askHost ∧ askState.pend[1]? = some askPeer ∧ paSpace askHost.pa = .host ∧ paSpace askPeer.pa ≠ .host
    ∧ askState.cxl.length < 1024 ∧ ({ askState with pend := askState.pend.eraseIdx 1 } : State).asking 1 0 [5] = false := by decide +kernel
/-- The host has been asked; its answer comes, or its link fails. -/
def askedState : State := { memState with cxl := [{ id := 4, pend := askHost }] }
theorem witness_answer : askedState.cxl.find? (fun c => c.id == 4 && !c.answered) = some { id := 4, pend := askHost } ∧ askedState.cxl.filter (fun c => [4].contains c.id && !c.answered) = [{ id := 4, pend := askHost }]
    ∧ (((after (.cxlCompletion 4) askedState).warp 1 0).thread 3).got = true := by decide +kernel
/-- The trap of a failed request waits for its handler's bank. -/
def askAbort : State := { askedState.modVdev 0 fun x => { x with hvec := 0x40 } with mem := writeByte askedState.mem 0x6007D 0x10, handlerBank := [(0, some (1, 5))] }
theorem witness_abort : (((askAbort.warp 1 0).entry 0).valid = true ∧ ((askAbort.warp 1 0).entry 0).mask.getLsbD 3 = true ∧ ((askAbort.warp 1 0).thread 3).st = .pathed ∧ (askAbort.warp 1 0).isHandlerPath 0 = false)
    ∧ (let s1 := askAbort.askStop 1 0 (maskList ((askAbort.warp 1 0).entry 0).mask)
       (s1.vdev (s1.team 1).vdev).hvec ≠ 0 ∧ s1.handlerLine (s1.team 1).vdev (s1.team 1).core = true ∧ (Cells.get none s1.handlerBank (s1.team 1).core).isSome = true) := by decide +kernel
/-- A copy with four chunks on their way starts no fifth. -/
theorem witness_chunk_limit : 4 ≤ ({ theCopy with sent := [0, 1, 2, 3] } : Copy).sent.length ∧ theCopy.sent.length < 4 := by decide +kernel
/-- A batch that completes a number of timeline 4. -/
theorem witness_batch_completes : (((mxState.modTeam 1 fun t => { t with tl := [(4, { owner := 3, iss := 1 })], batch := [{ tile := 2, rv := 3, isOpen := false, tln := true, tl := 4, num := 1 }] }).team 1).batch.find? fun b => b.tile == 2 && b.done)
    = some { tile := 2, rv := 3, isOpen := false, tln := true, tl := 4, num := 1 } := by decide +kernel
/-- A pass of one row over a streamed block of 0 with scale word tag 5, and one out of step. -/
def passOp : MxOp := { kind := .mma, cls := 3, ca := 3, cb := 3, a := 0, b := 0x2000, c := 0, imm := 1, desc := { set := true, cls := 3, dtag := 5 }, dtag := 5 }
def passState : State := mxState.modTeam 1 fun t => { t with spad := writeBytes t.spad 0x2000 (leBytes 2 0x507F) }
theorem witness_pass : (passState.team 1).batchOf 3 = some { tile := 2, rv := 3 } ∧ ((passState.team 1).tileAt 2).held.isSome = true ∧ (((passState.task (passState.team 1).task).launch).clsAt 3).npl = 2
    ∧ readLe (passState.team 1).spad 0x2000 2 / 4096 = 5 ∧ (∀ j ∈ List.range 128, fieldAt ((List.replicate 128 [(0x7F : Byte), 0x50]).flatten) (2 * j) 2 / 4096 = 5)
    ∧ readLe (mxState.team 1).spad 0x2000 2 / 4096 ≠ 5 := by decide +kernel
theorem witness_pass_planes : ((1 : Nat) ≤ 2 ∧ 2 ≤ 16 ∧ (List.replicate 256 (-2 : Int)).length = 256 ∧ ∀ x ∈ List.replicate 256 (-2 : Int), -(2 : Int) ^ (2 - 1) ≤ x ∧ x < 2 ^ (2 - 1))
    ∧ marks 0x1FF ∧ ¬ marks 0x507F ∧ markCause 0x1FF = 1 ∧ lessCause 2 1 = 1 := by
  unfold marks
  decide +kernel
/-- The range check's value is finite; a conversion of one block and a drain of one row lie in bounds. -/
theorem witness_conversion_values : (∀ neg, IsFin (satVal (passState.cls 3) neg)) ∧ (0 : Nat) + 2 * 1 ≤ 2 ^ 20 ∧ 32 + 32 * 2 * 1 ≤ 0x1000 ∧ 512 ≤ (0x2000000 : W64).toNat / 2 ^ 16 % 2 ^ 16
    ∧ (511 * 4 : Nat) + 4 ≤ 1024 * (passState.team 1).scrk := by
  refine ⟨fun neg => ?_, by decide, by decide, by decide +kernel, by decide +kernel⟩
  cases neg
  · exact ⟨false, 0, 2 ^ 1074, by decide +kernel, by norm_num⟩
  · exact ⟨true, 0, 2 ^ 1074, by decide +kernel, by norm_num⟩
/-- A thread that waits at an RVWT keeps its target; one no longer parked keeps its SYNCPK. -/
theorem witness_wait_target : (let s := syncState.modWarp 1 0 fun x => x.modEntry 0 fun p => { p with hold := .rvPhase 1 0 }
    ((s.warp 1 0).entry 0).hold = .rvPhase 1 0 ∧ (point s 1 rvF).satisfied 0 = false) ∧ (∀ u ∈ allOnes.active always, ((allOnes.warp 1 0).thread u).syncPk = none) := by decide +kernel
theorem witness_record_reads : syncState.chunkBusy 0x60000 = false ∧ (syncState.rangesWait [(0, 0x60000, 64)]).isNone = true := by decide +kernel
/-- A slot that can be read, whose handle cannot be written: its page is read-only. -/
def slotRo : State := { listState with mem := writeBytes listState.mem 0x50000 (leBytes 8 (0x60000 + 0x103)) }
theorem witness_fetch_unwritable : (match slotRo.devRead 0 0 0x200 64 with
    | .ok (bs, s1) => decide (fieldAt bs 8 4 = 0) && (match s1.devWrite 0 0 0x230 (leBytes 8 65537) with | .ok _ => false | .error _ => true) | .error _ => false) = true := by decide +kernel
/-- A die held in reset. -/
theorem witness_in_reset : ((placed.modDie 0 fun x => { x with inReset := true }).die 0).inReset = true ∧ (placed.die 0).inReset = false ∧ (placed.die 3).inReset = false := by decide +kernel
/-- Launch 5's gang is placed anew, and launch 0's, saved whole, comes back. -/
def backState : State := (placed.modLaunch 0 fun l => { l with saved := [0], nextGang := 1 }).modTeam 1 fun t => { t with st := .saved, core := 0 }
theorem witness_place_new : (match placeState.placeAt 5 with | some (g, sv, _, _) => decide (g = 0) && !sv | none => false) = true ∧ placeState.nextReady 0 0 = none ∧ backState.savedTeams 0 0 = [1]
    ∧ (∀ j ∈ backState.savedTeams 0 0, (backState.team j).record = none ∧ (backState.team j).tilesDue = []) := by decide +kernel
/-- COMPLETE waits behind PREEMPTED. -/
theorem witness_complete_waits : (let s := (doneState.modTask 0 fun t => { t with st := .retired }).modLaunch 0 fun l => { l with preq := true }
    (s.task 0).st = .retired ∧ (s.task 0).launch.preq = true) ∧ (placed.task 0).launch.preq = false := by decide +kernel
/-- Device 1 joins device 0's partition: a deferred one, and the greatest credit. -/
def twoState : State := { placed with parts := [], vdevs := placed.vdevs ++ [(1, { placed.vdev 0 with credit := 7, defer := true })], tasks := placed.tasks ++ [(5, { st := .ready, gen := 1, vdev := 1, trec := { kind := 1 } })] }
theorem witness_tick : twoState.partRunnable 0 = [0, 1] ∧ (twoState.vdev 1).defer = true ∧ (∀ x ∈ placed.partRunnable 0, (placed.vdev x).defer = false) ∧ (twoState.part 0).switching = none ∧ (placed.part 0).switching = none
    ∧ ((placed.creditAll 0).chooseVdev 0 = (placed.part 0).holder) ∧ (twoState.creditAll 0).chooseVdev 0 ≠ (twoState.part 0).holder ∧ twoState.chooseVdev 0 = some 1 := by decide +kernel
theorem witness_asked_modes : (placed.team 1).asked = false ∧ (placed.team 1).draining = none ∧ (placed.team 1).halted = false ∧ placed.inSwitch 1 = false
    ∧ ((placed.modLaunch 0 fun l => { l with adm := { l.adm with pmode := 2 } }).task 0).launch.adm.pmode = 2 ∧ ((placed.modWarp 1 0 fun x => { x with idem := some 0 }).team 1).region.isSome = true := by decide +kernel
/-- The fault's path stands in entry 0, or its threads are spilled. -/
def faultEvicted : State := faulted.modWarp 1 0 fun x => { x with path := [], th := (List.range 32).map fun t => (t, { st := .spilled }) }
theorem witness_fault_trap : (let f := Cells.get {} (faulted.die 0).fslots 0
    ({ f with mask := 0xFFFFFFFF } : FSlot).used = true ∧ (faulted.warp 1 0).handler = none ∧ (faulted.warp 1 0).slotEntry { f with mask := 0xFFFFFFFF } = some 0 ∧ (faulted.warp 1 0).slotCnt { f with mask := 0xFFFFFFFF } = (0, 0, false)
    ∧ (faultEvicted.warp 1 0).slotEntry { f with mask := 0xFFFFFFFF } = none ∧ (faultEvicted.warp 1 0).slotCnt { f with mask := 0xFFFFFFFF } = (0, 0, false) ∧ ((faultEvicted.warp 1 0).thread 9).st = .spilled) := by decide +kernel
/-- Entry 5 has consumed a signal of launch 0. -/
def depState : State := placed.modTask 5 fun t => { t with st := .ready, gen := 1, npred := 1, rcvd := 1, consumed := [65536], trec := { kind := 1 } }
theorem witness_dependents : depState.dependents (depState.handleOf 0).toNat = [5] ∧ (depState.task 0).consumed = [] ∧ (depState.stopLaunch 0).launchQuiet 0 = true ∧ (depState.task 0).trec.kind = 1 := by decide +kernel
/-- A seal that a reset has torn; tasks that a reset has stopped, and others. -/
theorem witness_torn : ((sealState.modRp 0 fun r => { r with torn := true }).rp 0).torn = true ∧ (sealState.rp 0).sealing = true ∧ placed.affected 0 0 = true ∧ (0 : Nat) ∈ placed.liveTasks 0
    ∧ ((placed.modTask 0 fun t => { t with stopped := true }).task 0).stopped = true := by decide +kernel
/-- A QUIESCE whose device stands still, and one that a reset ends. -/
theorem witness_quiesce_partly : (∀ c ∈ placed.teams, c.2.vdev = 0 → c.2.partly = false) ∧ ({ placed with qctl := 0x90 } : State).qBusy 1 0 = true := by decide +kernel
/-- A flit for die 3 comes to end 0, of die 0, and goes on at end 1. -/
def viaState : State := wireState.modLink 2 fun x => { x with via := [(0, 3)] }
theorem witness_forward : (viaState.link 2).via.find? (fun v => v.1 == (0 : BitVec 16)) = some (0, 3) ∧ sendsNow (viaState.link 1) ∧ (3 : Nat) ≠ 0 / 2 ∧ (0 : BitVec 16) = (viaState.link 0).expected := by
  unfold sendsNow
  decide +kernel
/-- An edge that no group of lanes trains goes down. -/
theorem witness_edge_down : (1 : BitVec 4) &&& 3 ≠ 3 ∧ (1 : BitVec 4) &&& 12 ≠ 12 ∧ ∀ j, j < 4 → j ≠ 0 → trainState.edgeDown j = false := by decide +kernel
theorem witness_host_clear : hostState.chunkBusy 0x61000 = false ∧ placed.chunkBusy 0x61000 = false := by decide +kernel
/-- Peer 3's request 7 has been performed, and its response kept. -/
def keptState : State := { placed with reqs := [(1024 + 8 * 3, { bound := 8, kept := [(7, [1])] })] }
theorem witness_kept : (Cells.get {} keptState.reqs (1024 + 8 * 3)).covers 7 = true ∧ (Cells.get {} keptState.reqs (1024 + 8 * 3)).kept.find? (fun x => x.1 == 7) = some (7, [1]) := by decide +kernel
/-- A port without a good group of lanes. -/
theorem witness_port_down : (portState.link 9).state < 2 ∧ 8 ≤ (portState.link 9).retries ∧ (Cells.get [] portState.reflash 0) = [] := by decide +kernel

/-- −2^−130 is a subnormal of BF16: under flush both halves are zeros, with UNF alone (R53, R205). -/
theorem test_kb16_flush : (convertKB true (.fin true 1 (2 ^ 130))).1 = 0x80000000 ∧ (convertKB true (.fin true 1 (2 ^ 130))).2.inexact = false := by decide +kernel
/-- R124, R125, R181: BRC writes MEET, and so does the SETS beside it. -/
theorem test_brc_with_sets_meet : pairOk (.brc brF) (.sets { restA with dst := xr 8, a := v 2 }) = false ∧ pairOk (.brc brF) (.sets { restA with dst := xr 9, a := sr 2, mu := true }) = true := by decide +kernel
/-- R290, R295: a pass of 65 rows is a well-formed instruction that raises MXARG. -/
theorem test_mma_rows : (Instr.mma { mxF with imm := 64 }).wf = true
    ∧ ((after (.mma { mxF with imm := 64 }) { mxState.modVdev 0 fun x => { x with hvec := 0x40 } with mem := writeByte mxState.mem 0x6007D 0x10 }).warp 1 0).tcause = 0x3E := by decide +kernel
/-- R37: a load of a real format under CLS 0 names c0. -/
theorem test_scan_class_zero : (usesFrom [(0, scanSlot ((encode (.ld { ldF with df := 1, cls := 0 })).getD 0))] none).map Use.cls = [0] := by decide +kernel

/-- An update that was restored while it ran. -/
theorem witness_update_resumes : (let s := updState.modUpd 0 fun u => { u with resume := some ([(0, 5)], 1) }
    (s.cons 0).task = none ∧ s.consQueue 0 = [0] ∧ (s.task 0).upd.resume = some ([(0, 5)], 1)) := by decide +kernel

/-! Encodings and steps. -/

theorem witness_encoding : (Instr.iadd { restA with look := 2, dst := v 2, a := v 1, imm := 3, bi := true }).wf = true
    ∧ encode (.iadd { restA with look := 2, dst := v 2, a := v 1, imm := 3, bi := true }) = some 0x1002_7000_8040_0000_C020_0000 ∧ (Instr.nld { restN with d := 2, a := 2, inc := true, sub := 2 }).wf = true
    ∧ encodeCons (.nld { restN with d := 2, a := 2, inc := true, sub := 2 }) = some 0x0488_0208_0000_0000 := by decide +kernel
/-- The hypotheses of the clause for a path, decided. -/
def pathHyps (s : State) (k w e : Nat) (i : Instr) : Bool :=
  let s0 : State := { s with agenda := [] }
  let s1 := (s0.nextCyc (.warp k w e)).aged k w e
  let x := s1.warp k w
  let p := x.entry e
  let slot := p.pc.toNat % 8
  let s2 := (s1.atUnit (.warp k w e) p.pc (x.isHandlerPath e) p.age).modWarp k w fun x => x.modEntry e fun p => { p with age := 0 }
  match s2.cLine p.pc with
  | .ok (line, pte) =>
    let s3 := s2.cMark pte false
    let at_ : State := { s3 with cur := { s3.cur with npc := pcNext p.pc 1, ipc := BitVec.ofNat 64 (pcLine p.pc + slot) } }
    let old := at_.pathThreads.map fun t => (t, at_.lookOf t)
    s0.pathReady k w e && !s0.parksAway k w e && decide (x.parkPath e = x ∧ x.pendTrap e = none ∧ p.valid = true ∧ p.mask ≠ 0 ∧ lineParityOk line = true ∧ lineMalformed line = false
      ∧ lineKind (lineWord line) = b2n (x.isHandlerPath e) ∧ slot < 5 ∧ isPrefixWord (lineSlot line slot) = false ∧ (slot = 4 ∨ linePair (lineWord line) slot = false)
      ∧ usesPrefixRegion i = false ∧ ∀ y ∈ old, lookBad y.2 i none none = none) && (match decode (lineSlot line slot) with | .ok j => decide (j = i) | .error _ => false)
  | .error _ => false
theorem witness_step_path : placed.agenda = .issue (.warp 1 0 0) :: [] ∧ (placed.powerLost || placed.power.trip) = false ∧ pathHyps placed 1 0 0 (.nop restA) = true := by decide +kernel
/-- NADD N1 := N0 + N0 placed on conservator 0. -/
def placedCons : State := State.reset.withFetchWord 64 ((encodeCons (.nadd { restN with d := 1 })).getD 0)
theorem witness_step_cons : placedCons.agenda = .issue (.cons 0) :: [] ∧ ({ placedCons with agenda := [] } : State).consReady 0 = true ∧ (placedCons.cons 0).task = some 0
    ∧ (placedCons.cons 0).pc < (placedCons.task 0).upd.code.length ∧ (match decodeCons (Cells.get 0 (placedCons.cons 0).store (placedCons.cons 0).pc).toNat with | .ok i => decide (i = .nadd { restN with d := 1 }) | .error _ => false) = true := by decide +kernel
theorem witness_step_event : ({ State.reset with agenda := [.ev .powerOn] } : State).agenda = .ev .powerOn :: [] := rfl
theorem witness_canonical : Memory.wf placed.mem = true ∧ (match step placed with | .next _ => true | _ => false) = true := by decide +kernel

/-! The spec's words beside the instruction its text names, and a word of each further family built by R126's layout. -/

theorem test_words_integer : decode 0x1000_7001_C1C0_0000_4020_0000 = .ok (.iadd { restA with dst := v 7, a := v 7, imm := 1, bi := true })
    ∧ decode 0x0B00_7000_2140_0001_0010_0000 = .ok (.ejcfg { restA with a := kr 5, imm := 4, x20 := true })
    ∧ decode 0x0200_7000_3040_0000_8004_00AC = .ok (.brc { restB with a := xr 1, tdisp := 2, ej := true, tslot := 0, mdisp := 5, mslot := 3 }) := by decide +kernel
theorem test_words_real : decode 0xF000_7000_0001_C000_0000_0000 = .ok (.pfxCl 0 7 0)
    ∧ decode 0x5700_7182_8282_C000_0000_0000 = .ok (.cadd { restA with cls := 6, dst := v 10, a := v 10, b := v 11 }) := by decide +kernel
theorem test_words_memory : decode 0x9200_7001_0100_0142_1B20_8100 = .ok (.acas { restM with dst := v 4, a := v 4, c := v 5, imm := 8, scope := .dv, order := .ar, bi := true, df := 0x81 })
    ∧ decode 0x7100_7180_2040_C280_1800_0400 = .ok (.st { restM with cls := 6, a := kr 1, b := v 3, c := v 10, scope := .dv, df := 4 })
    ∧ decode 0x7100_7000_2180_1100_2A80_8100 = .ok (.st { restM with a := kr 6, c := sr 4, scope := .rc, order := .rel, mu := true, df := 0x81 }) := by decide +kernel
theorem test_words_sync : decode 0x9000_2000_0000_0000_1C00_0000 = .ok (.fence { restS with grd := ⟨false, 2⟩, scope := .dv, order := .sc })
    ∧ decode 0x7900_7000_10D1_2103_C002_A000 = .ok (.cpym { restK with a := sr 3, b := sr 4, c := kr 4, imm := 15, opx := 2, rsd := 5 })
    ∧ decode 0x9510_7000_30A1_4000_0000_0000 = .ok (.rvini true { restS with a := xr 2, b := kr 5 })
    ∧ decode 0x9800_7000_3080_0000_0020_0000 = .ok (.rvwt { restS with a := xr 2, bi := true }) := by decide +kernel
theorem test_words_system : decode 0xB100_7000_0000_0000_0000_0000 = .ok (.eret restS) ∧ decode 0xB200_7017_8000_0000_8020_0000 = .ok (.csrr { restS with dst := sr 30, imm := 2, bi := true })
    ∧ decode 0xB300_7000_20C0_0001_4020_0000 = .ok (.csrw { restS with a := kr 3, imm := 5, bi := true }) ∧ decode 0xB400_7000_0000_0000_4020_0000 = .ok (.killw { restS with imm := 1, bi := true })
    ∧ decode 0xB500_7000_0000_0001_0000_0000 = .ok (.pause { restS with imm := 4 }) ∧ decode 0xB620_7032_4000_0000_0000_0000 = .ok (.mirxTest { restS with dst := xr 9 })
    ∧ decode 0xB700_7011_4000_0000_C000_0000 = .ok (.waitev { restS with dst := sr 5, imm := 3 }) := by decide +kernel
theorem test_words_recovery : decode 0xB800_7010_8021_8000_0000_0000 = .ok (.rpopn { restS with dst := sr 2, b := kr 6 })
    ∧ decode 0xB800_7010_8000_0001_4020_0000 = .ok (.rpopn { restS with dst := sr 2, imm := 5, bi := true }) ∧ decode 0xB900_7010_E240_0000_0000_0000 = .ok (.rpseal { restS with dst := sr 3, a := kr 9 })
    ∧ decode 0xBA12_7011_4021_4000_0000_0000 = .ok (.rpqryWt { restS with look := 2, dst := sr 5, b := kr 5 }) := by decide +kernel
/-- A word by R126: OPC, SUB, DST, OPA, OPB, OPC3, IMM, SCO, MOD, FSP; LOOK and CLS 0, GRD 0x7. -/
def wordOf (opc sub dst a b c imm sco mod fsp : Nat) : Nat :=
  opc * 2 ^ 88 + sub * 2 ^ 84 + 7 * 2 ^ 76 + dst * 2 ^ 62 + a * 2 ^ 54 + b * 2 ^ 46 + c * 2 ^ 38 + imm * 2 ^ 30 + sco * 2 ^ 24 + mod * 2 ^ 16 + fsp
theorem test_words_collective : decode (wordOf 0x5E 3 0x01 0x02 0 0 1 0 0x20 0) = .ok (.shfl .xor { restA with dst := v 1, a := v 2, imm := 1, bi := true })
    ∧ decode (wordOf 0x5F 1 0xC3 0xC1 0 0 0 0 0 0) = .ok (.vote .any { restA with dst := xr 3, a := xr 1 })
    ∧ decode (wordOf 0x29 0 0xC2 0x01 0x02 0 0 0 0 0x0500) = .ok (.icmp { restA with dst := xr 2, a := v 1, b := v 2, fn := 5 }) ∧ decode (wordOf 0x5F 4 0xC3 0xC1 0 0 0 0 0 0) = .error .opcode := by decide +kernel
theorem test_words_timeline : decode (wordOf 0x7C 0 0 0xC1 0 0 9 0 0x20 0) = .ok (.tlw { restS with a := xr 1, imm := 9, bi := true })
    ∧ decode (wordOf 0x91 6 0x02 0x04 0 0x03 0 0x19 0x20 0x8100) = .ok (.atom .exch { restM with dst := v 2, a := v 4, c := v 3, scope := .dv, order := .acq, bi := true, df := 0x81 })
    ∧ decode (wordOf 0x9B 0 0 0xC1 0x44 0 0 0 0 5) = .ok (.qpsh { restS with a := xr 1, b := sr 4, opd := 5 })
    ∧ decode (wordOf 0xA1 0 0x43 0x85 0 0 0 0 0 0) = .ok (.launch { restS with dst := sr 3, a := kr 5 })
    ∧ decode (wordOf 0x80 1 0xC9 0 0 0 3 0 0 0) = .ok (.malcTry { restX with dst := xr 9, imm := 3 }) := by decide +kernel
theorem test_words_conservator : decodeCons 0x0488_0208_0000_0000 = .ok (.nld { restN with d := 2, a := 2, inc := true, sub := 2 }) ∧ decodeCons 0x3418_0000_FFFF_FFF8 = .ok (.nloop { restN with a := 6, imm := -8 }) := by decide +kernel

/-! Ill-formed terms: one for each check of R127 to R134 and of the families' own tables. -/

/-- Refused. -/
def ill (l : List Instr) : Bool := l.all fun i => !i.wf
theorem test_wf_fields : ill [.nop { restA with look := 1 }, .nop { restA with mo := true }, .nop { restA with mu := true }, .exit { restA with a := v 1 }, .yield { restA with cls := 1 }, .ejcfg { restA with imm := 9 },
    .ejcfg { restA with x20 := true, a := v 1 }, .partn { restA with imm := 5 }, .iadd { restA with x20 := true }, .iadd { restA with fn := 1 }, .iadd { restA with imm := 1 }, .iadd { restA with cls := 1 },
    .iadd { restA with c := v 1 }] = true := by decide
theorem test_wf_operands : ill [.iadd { restA with dst := v 1, ty := .i64 }, .iadd { restA with dst := kr 1 }, .iadd { restA with dst := sr 1 }, .iadd { restA with mu := true, dst := v 1 }, .iadd { restA with mu := true, dst := sr 32 },
    .iadd { restA with mu := true, grd := ⟨false, 4⟩, dst := sr 1, a := sr 1, b := sr 1 }, .iadd { restA with bi := true, b := v 1 }, .iadc { restA with ty := .i32, c := xr 1 }, .bfx { restA with bi := true },
    .icmp { restA with fn := 6, dst := xr 1 }, .icmp { restA with dst := xr 7 }, .sel { restA with c := v 1 }, .lea { restA with imm := 8 }, .movk 4 { restA with ty := .i32 }, .gets { restA with a := xr 6 },
    .sets { restA with dst := xr 0 }, .plog restA, .uni { restA with dst := v 1 }] = true := by decide
theorem test_wf_branches : ill [.bra { restB with tr := true, a := sr 1, tdisp := 1 }, .bra { restB with ej := true }, .bra { restB with mr := true, b := sr 1 }, .brc { restB with a := v 1 }, .brx restB, .call { restB with dst := v 1 },
    .ret { restB with a := v 2 }, .meet { restB with tdisp := 1 }] = true := by decide
theorem test_wf_real : ill [.fadd { restA with ty := .n32 }, .fadd { restA with bi := true }, .fcmp { restA with dst := xr 1, fn := 8 }, .fsel { restA with c := xr 8 }, .frnd { restA with fn := 5 }, .cvccIn restA, .cvccOut { restA with imm := 10 },
    .cadd { restA with mu := true, dst := sr 1, a := sr 1, b := sr 1 }, .fdot4 { restA with a := v 2 }, .hrandP { restA with dst := v 1, b := sr 1 }, .hrandN { restA with a := v 1, b := sr 1 }, .lutb restA, .lutm { restA with b := sr 8 },
    .shfl .idx { restA with cls := 1 }, .shfl .up { restA with x20 := true, dst := v 1 }, .vote .all { restA with dst := xr 1, a := xr 1, x20 := true }, .redw .add { restA with mu := true, dst := sr 1, a := sr 1 }] = true := by decide
theorem test_wf_memory : ill [.ld { restM with scope := .dv, df := 0x81, dst := v 1, nv := 1 }, .ld { restM with scope := .dv, df := 0x81, nv := 3 }, .ld { restM with scope := .dv, df := 2 }, .ld { restM with scope := .dv, df := 0x81, cls := 1 },
    .ld { restM with scope := .dv, df := 0x81, rs := 5 }, .ld { restM with scope := .dv, df := 0x81, order := .rel }, .ld { restM with df := 0x81 }, .ld { restM with scope := .dv, df := 0x81, a := v 1 },
    .ld { restM with scope := .dv, df := 0x81, retain := 3 }, .st { restM with scope := .rc, df := 0x81 }, .st { restM with scope := .dv, df := 0x81, look := 1 }, .lds { restM with scope := .tm, df := 0x81 }, .sts { restM with scope := .dv, rs := 5, df := 0x81 },
    .ldg { restM with scope := .tm, rs := 5, df := 0x81 }, .gwin { restM with rs := 5, df := 0x81 }, .prfFill { restM with dst := v 1 }, .cctlZero { restM with df := 0x81, scope := .tm }, .atom .add { restM with scope := .dv, df := 0x84 },
    .atom .add { restM with scope := .dv, df := 0x81, rs := 5 }, .acas { restM with scope := .dv, df := 0x81, mu := true }, .red .add { restM with scope := .dv, df := 0x81, order := .acq }, .fred .add { restM with scope := .dv, df := 4 }] = true := by decide
theorem test_wf_copies_matrix : ill [.cpy restK, .cpy { restK with a := sr 1, b := sr 1, c := sr 1, rsd := 6 }, .cpym { restK with a := sr 1, b := sr 1, c := sr 1 }, .cpym { restK with a := sr 1, b := sr 1, c := sr 1, rsd := 5, opx := 24 },
    .cpygLoad { restK with a := sr 1, b := sr 1, c := sr 1, rsd := 5 }, .cpyxPut { restK with a := sr 1, b := sr 1, c := sr 1, rsd := 5 }, .malcTry { restX with dst := sr 1 }, .mma { restX with a := sr 1, b := sr 1, c := sr 1, tb := 4 },
    .mma { restX with a := sr 1, b := sr 1, c := sr 1, ta := 10 }, .meas { restX with b := sr 1, c := sr 1, imm := 4 }, .mdrn { restX with a := sr 1, b := sr 1, c := sr 1 },
    .msta 0 { restX with dst := sr 1, a := xr 24 }, .mbatOpen { restX with a := xr 1, imm := 4 }, .mbatOpen { restX with a := xr 1, tb := 1 }, .mrsh restX] = true := by decide
theorem test_wf_sync_system : ill [.fence restS, .fence { restS with scope := .rc, order := .acq }, .tlw { restS with a := xr 8, bi := true }, .tlqDone { restS with a := xr 1 }, .tlmk { restS with a := xr 1, dst := sr 1 },
    .rvini false { restS with a := xr 24, bi := true }, .rvini false { restS with a := xr 1, imm := 1, b := sr 1 }, .arv { restS with a := xr 1, look := 1 }, .rvtsT { restS with a := xr 1, dst := xr 1, bi := true }, .qpsh { restS with a := xr 16, b := sr 1 },
    .qpsh { restS with a := xr 1, b := sr 1, opd := 8 }, .qtryPop { restS with a := xr 1, dst := sr 1 }, .gsyncNb { restS with bi := true, opd := 8 }, .launch { restS with dst := v 1, a := sr 1 }, .trap { restS with opd := 1 },
    .eret { restS with imm := 1 }, .pause restS, .mirxTest { restS with dst := xr 1 }, .waitev { restS with dst := sr 1 }, .csrr { restS with dst := v 1, bi := true }, .rpopn { restS with dst := sr 1, order := .rel, bi := true }, .pfxRg (kr 1)] = true := by decide
theorem test_wf_conservator : ill [.nld { restN with a := 8 }, .nld { restN with sub := 4 }, .nst { restN with sub := 3 }, .nadd { restN with imm := 1 }, .nadd { restN with ar := true }, .naddAddr restN, .nmul { restN with c := 1 }, .nscl { restN with imm := 256 },
    .nloop { restN with a := 8 }, .nsig { restN with d := 1 }, .nwait { restN with a := 9 }, .ndone { restN with inc := true }] = true := by decide
theorem test_wf_steps : ill [.csrWrite 4 0 0 0, .taskFetch 16 0, .eventPost 0 17, .switchCommit 8, .hsmapWrite 0 20 0, .hsmapApply 0 160, .galleryRefresh 0 8, .fresumeReplay 0 1024, .spillEvict 0 32, .trapDispatch 0 0 8, .matrixGrant 72 .array,
    .updateStart 128, .replayTimeout 24, .edgeRetrain 4, .hdmDecoderWrite 2 0 0, .rhawinRetrain 8 0, .bind 0 16 0 0 0 false, .machineCheck 0 0 ⟨4, none⟩, .flitSend 0 { kind := 0, vc := 0, payload := List.replicate 245 0 }] = true := by decide

/-! One step on a placed word. -/

theorem test_step_movi : Cells.get 0 ((ran 0x2D00_7000_4000_0001_4000_0000).warp 1 0).v (64 * 3 + 1) = 5 := by decide +kernel
theorem test_step_exit : ((ran 0x0700_7000_0000_0000_0000_0000).warp 1 0).ended = true := by decide +kernel

end Sys2Proof.Tests
end

/-! Integer forms and division (spec/08 R192 to R199): the driver of data results, operands as words, and the statements O1 and O2. -/

namespace Sys2Proof.Claims

open Sys2Proof Sys2Proof.Machine

/-! The destination of a data form: what its writes name, and what a reader of the registers then finds. -/

/-- A well-formed data destination is an s register under MU, and otherwise a v register, of even index where it is wide. -/
theorem dst_cases {d : Spec} {mu wide : Bool} (h : d.dst mu wide = true) :
    (mu = true ∧ d.file = .s) ∨ (mu = false ∧ d.file = .v ∧ (wide = true → d.idx.toNat % 2 = 0)) := by
  cases mu with
  | true => exact .inl ⟨rfl, by simp_all [Spec.dst, Spec.isS]⟩
  | false => exact .inr ⟨rfl, by cases wide <;> simp_all [Spec.dst, Spec.isV]⟩

/-- The writes of a data result name registers there are. -/
theorem wrReg_ok {d : Spec} {mu wide : Bool} (h : d.dst mu wide = true) (t : Nat) (x : W64) : ∀ y ∈ wrReg d t wide x, WrOk y := by
  have := d.idx.isLt
  rcases dst_cases h with ⟨-, hf⟩ | ⟨-, hf, he⟩
  · simp [wrReg, hf, WrOk]
  · cases wide with
    | false => simpa [wrReg, hf, WrOk]
    | true =>
      have := he rfl
      simp only [wrReg, hf, if_true, List.forall_mem_cons, WrOk]
      exact ⟨by omega, by omega, by simp⟩

/-- They name the destination's registers and no other. -/
theorem wrNames_wrReg (d : Spec) (t : Nat) (wide : Bool) (x : W64) : ∀ y ∈ wrReg d t wide x, ∀ r ∈ wrNames y, r ∈ dstRegs d t wide := by
  cases hf : d.file <;> cases wide <;> simp [wrReg, dstRegs, hf, wrNames, BitVec.ofNat_add]

/-- They are in the thread the result is of. -/
theorem wrReg_thread (d : Spec) (t : Nat) (wide : Bool) (x : W64) : ∀ y ∈ wrReg d t wide x, ∀ u,
    (∃ i z, y = .v u i z) ∨ (∃ i z, y = .p u i z) ∨ (∃ m, y = .vst u m) → u = t := by
  cases hf : d.file <;> cases wide <;> simp [wrReg, hf]

/-- v destinations of two threads share no register. -/
theorem dstRegs_disjoint {d : Spec} (hf : d.file = .v) {t u : Nat} (h : t ≠ u) (wide : Bool) : ∀ r ∈ dstRegs d u wide, r ∉ dstRegs d t wide := by
  cases wide <;> simp [dstRegs, hf, h.symm]

/-- A destination holds x in thread t, by a reading g of the registers. -/
def HoldsIn (g : Reg → W64) (d : Spec) (t : Nat) (wide : Bool) (x : W64) : Prop :=
  match d.file with
  | .v => g (.v t d.idx) = (x.setWidth 32).setWidth 64 ∧ (wide = true → g (.v t (d.idx + 1)) = (x >>> 32).setWidth 64)
  | .s => g (.s d.idx.toNat) = x
  | _ => False

theorem holds_iff_holdsIn (s : State) (d : Spec) (t : Nat) (wide : Bool) (x : W64) : holds s d t wide x ↔ HoldsIn (regVal s) d t wide x := Iff.rfl

/-- Readings that agree on the destination's registers hold the same there. -/
theorem HoldsIn.congr {g g' : Reg → W64} {d : Spec} {t : Nat} {wide : Bool} (x : W64) (h : ∀ r ∈ dstRegs d t wide, g r = g' r) :
    HoldsIn g d t wide x ↔ HoldsIn g' d t wide x := by
  cases hf : d.file <;> cases wide <;> simp_all [HoldsIn, dstRegs]

/-- The high word that a wide v destination receives. -/
theorem setWidth_high (x : W64) : ((x >>> 32).setWidth 32).setWidth 64 = (x >>> 32).setWidth 64 := by
  apply BitVec.eq_of_toNat_eq
  have := x.isLt
  simp only [BitVec.toNat_setWidth, BitVec.toNat_ushiftRight, Nat.shiftRight_eq_div_pow]
  omega

/-- The odd half of a d register. -/
theorem idx_succ_toNat {d : Spec} (h : d.idx.toNat % 2 = 0) : (d.idx + 1#6).toNat = d.idx.toNat + 1 := by
  bv_omega

theorem wReg_wr_v (w : Warp) (t i : Nat) (z : W32) (j : BitVec 6) :
    wReg (w.wr (.v t i z)) (.v t j) = if j.toNat = i then z.setWidth 64 else wReg w (.v t j) := by
  simp only [wReg, Warp.v_wr, Nat.add_left_cancel_iff, apply_ite (BitVec.setWidth 64)]

theorem wReg_wr_s (w : Warp) (i : Nat) (z : W64) (j : Nat) : wReg (w.wr (.s i z)) (.s j) = if j = i then z else wReg w (.s j) :=
  Warp.s_wr w (.s i z) j

@[simp] theorem rill_wr_thread (r : Rill) (x : Wr) : (r.wr x).thread = r.thread := by rw [Rill.wr_frame]

theorem rReg_wr_v {r : Rill} {t : Nat} (h : r.thread = t) (u i : Nat) (z : W32) (j : BitVec 6) :
    rReg (r.wr (.v u i z)) (.v t j) = if j.toNat = i then z.setWidth 64 else rReg r (.v t j) := by
  simp only [rReg, rill_wr_thread, h, if_true, Rill.v_wr, apply_ite (BitVec.setWidth 64)]

theorem rReg_wr_s (r : Rill) (i : Nat) (z : W64) (j : Nat) : rReg (r.wr (.s i z)) (.s j) = if j = i then z else rReg r (.s j) :=
  Rill.s_wr r (.s i z) j

/-- A warp holds a result after the writes of it. -/
theorem holdsIn_wrReg_warp {d : Spec} {mu wide : Bool} (h : d.dst mu wide = true) (w : Warp) (t : Nat) (x : W64) :
    HoldsIn (wReg ((wrReg d t wide x).foldl Warp.wr w)) d t wide x := by
  rcases dst_cases h with ⟨-, hf⟩ | ⟨-, hf, he⟩
  · simp [HoldsIn, wrReg, hf, wReg_wr_s]
  · cases wide with
    | false => simp [HoldsIn, wrReg, hf, wReg_wr_v]
    | true => simp [HoldsIn, wrReg, hf, wReg_wr_v, -BitVec.toNat_add, idx_succ_toNat (he rfl), setWidth_high]

/-- So does a rill thread. -/
theorem holdsIn_wrReg_rill {d : Spec} {mu wide : Bool} (h : d.dst mu wide = true) (r : Rill) (x : W64) :
    HoldsIn (rReg ((wrReg d r.thread wide x).foldl Rill.wr r)) d r.thread wide x := by
  rcases dst_cases h with ⟨-, hf⟩ | ⟨-, hf, he⟩
  · simp [HoldsIn, wrReg, hf, rReg_wr_s]
  · cases wide with
    | false => simp [HoldsIn, wrReg, hf, rReg_wr_v]
    | true => simp [HoldsIn, wrReg, hf, rReg_wr_v, -BitVec.toNat_add, idx_succ_toNat (he rfl), setWidth_high]

/-! The driver of register forms. -/

/-- A path that issues a .s form executes it in its lowest thread, and other forms in the active threads (R150, R153). -/
theorem each_eq_finish {s : State} {mu : Bool} (h : Issues s mu) (g : Guard) (body : State → Nat → List Wr) :
    s.each mu g body = s.finish ((runsIn s mu g).flatMap (body s)) := by
  rcases h with ⟨k, w, e, hw⟩ | ⟨rfl, c, hr⟩
  · cases mu with
    | false => rfl
    | true =>
      rw [State.each_uniform s k w e g body hw, runsIn]
      cases s.guardU g <;> simp
  · rfl

/-- Of two threads in which a form executes, the v destinations are apart; a form with an s destination executes once. -/
theorem dstRegs_apart {s : State} {mu : Bool} {g : Guard} {d : Spec} {wide : Bool} (hd : d.dst mu wide = true) {t u : Nat}
    (ht : t ∈ runsIn s mu g) (hu : u ∈ runsIn s mu g) (h : t ≠ u) : ∀ r ∈ dstRegs d u wide, r ∉ dstRegs d t wide := by
  rcases dst_cases hd with ⟨rfl, -⟩ | ⟨-, hf, -⟩
  · cases hg : s.guardU g <;> simp_all [runsIn]
  · exact dstRegs_disjoint hf h wide

/-- After the writes of every thread in which a form executes, a warp holds each thread's result: no other thread writes there. -/
theorem holdsIn_all_warp {s : State} {mu : Bool} {g : Guard} {d : Spec} {wide : Bool} (hd : d.dst mu wide = true) (x : Nat → W64) (w : Warp)
    {u : Nat} (hu : u ∈ runsIn s mu g) :
    HoldsIn (wReg (((runsIn s mu g).flatMap fun t => wrReg d t wide (x t)).foldl Warp.wr w)) d u wide (x u) := by
  let held : Warp → Prop := fun w => HoldsIn (wReg w) d u wide (x u)
  refine of_eq_true (foldl_flatMap_fixed Warp.wr held _ _ u True ?_ ?_ hu w)
  · intro t ht htu
    refine foldl_keeps Warp.wr held _ fun y hy v => propext (HoldsIn.congr _ fun r hr => ?_)
    refine wReg_wr_other v y (wrReg_ok hd t _ y hy) r fun hm => ?_
    exact dstRegs_apart hd ht hu htu r hr (wrNames_wrReg d t wide _ y hy r hm)
  · exact fun v => eq_true (holdsIn_wrReg_warp hd v u (x u))

/-- A form executes in the rill thread alone, if at all. -/
theorem active_rill_singleton {s : State} {g : Guard} {c u : Nat} (h : s.cur.agent = .rill c) (hu : u ∈ s.active g) :
    s.active g = [u] ∧ u = (s.rill c).thread := by
  have hu' := active_rill s g c h u hu
  rw [State.active, List.mem_filter] at hu
  exact ⟨by simp [State.active, State.pathThreads, h, ← hu', hu.2], hu'⟩

/-- A form whose only effect is one data result in each thread in which it executes completes; its destinations hold the results, and nothing else changes. -/
theorem each_wrReg {s : State} {mu : Bool} (hi : Issues s mu) (g : Guard) {d : Spec} {wide : Bool} (hd : d.dst mu wide = true)
    (x : State → Nat → W64) :
    ∃ t, s.each mu g (fun s u => wrReg d u wide (x s u)) = .next t
      ∧ (∀ u ∈ runsIn s mu g, holds t d u wide (x s u))
      ∧ RegFrame s t fun r => ∃ u ∈ runsIn s mu g, r ∈ dstRegs d u wide := by
  rw [each_eq_finish hi]
  have hok : ∀ y ∈ (runsIn s mu g).flatMap fun u => wrReg d u wide (x s u), WrOk y := by
    simp only [List.mem_flatMap]
    rintro y ⟨u, -, hy⟩
    exact wrReg_ok hd u _ y hy
  have hnames : ∀ y ∈ (runsIn s mu g).flatMap fun u => wrReg d u wide (x s u), ∀ r ∈ wrNames y,
      ∃ u ∈ runsIn s mu g, r ∈ dstRegs d u wide := by
    simp only [List.mem_flatMap]
    rintro y ⟨u, hu, hy⟩ r hr
    exact ⟨u, hu, wrNames_wrReg d u wide _ y hy r hr⟩
  rcases hi with ⟨k, w, e, hw⟩ | ⟨rfl, c, hr⟩
  · obtain ⟨t, hfin, hcur, hwarp, hframe⟩ := finish_frame_warp s _ k w e hw _ hok hnames
    refine ⟨t, hfin, fun u hu => ?_, hframe⟩
    have hreg : regVal t = wReg (((runsIn s mu g).flatMap fun u => wrReg d u wide (x s u)).foldl Warp.wr (s.warp k w)) := by
      funext r
      rw [regVal_warp t k w e (by rw [hcur, hw]), hwarp]
      cases r <;> rfl
    rw [holds_iff_holdsIn, hreg]
    exact holdsIn_all_warp hd _ _ hu
  · have hthread : ∀ u ∈ runsIn s false g, u = (s.rill c).thread := active_rill s g c hr
    obtain ⟨t, hfin, hcur, hrill, hframe⟩ := finish_frame_rill s _ c hr _ hok hnames (by
      simp only [List.mem_flatMap]
      rintro y ⟨u, hu, hy⟩ v hv
      rw [wrReg_thread d u wide _ y hy v hv, hthread u hu])
    refine ⟨t, hfin, fun u hu => ?_, hframe⟩
    obtain ⟨hone, rfl⟩ : runsIn s false g = [u] ∧ u = (s.rill c).thread := active_rill_singleton hr hu
    have hreg : regVal t = rReg ((wrReg d (s.rill c).thread wide (x s (s.rill c).thread)).foldl Rill.wr (s.rill c)) := by
      funext r
      rw [regVal_rill t c (by rw [hcur, hr]), hrill, hone, List.flatMap_singleton]
      cases r <;> rfl
    rw [holds_iff_holdsIn, hreg]
    exact holdsIn_wrReg_rill hd _ _

/-! Integer operands and results as words of the type's width (R192, R193). -/

theorem width_pos (ty : IType) : 0 < ty.width := by cases ty <;> decide
theorem eight_le_width (ty : IType) : 8 ≤ ty.width := by cases ty <;> decide

theorem two_pow_eq_two_mul {w : Nat} (h : 0 < w) : 2 ^ w = 2 * 2 ^ (w - 1) := by
  rw [← Nat.pow_succ', Nat.succ_eq_add_one, Nat.sub_add_cancel h]

/-- The signed value of a word is negative from the half of its range up. -/
theorem toInt_eq_ite {w : Nat} (hw : 0 < w) (x : BitVec w) : x.toInt = if 2 ^ (w - 1) ≤ x.toNat then (x.toNat : Int) - 2 ^ w else x.toNat := by
  have := two_pow_eq_two_mul hw
  rw [BitVec.toInt_eq_toNat_cond]
  by_cases h : 2 ^ (w - 1) ≤ x.toNat
  · rw [if_pos h, if_neg (by omega)]
    norm_cast
  · rw [if_neg h, if_pos (by omega)]

/-- A word read by the signedness of its type (R192). -/
def readBits (ty : IType) (x : BitVec ty.width) : Int := if ty.signed then x.toInt else x.toNat

theorem readBits_signed {ty : IType} (h : ty.signed = true) (x : BitVec ty.width) : readBits ty x = x.toInt := by simp [readBits, h]
theorem readBits_unsigned {ty : IType} (h : ty.signed = false) (x : BitVec ty.width) : readBits ty x = x.toNat := by simp [readBits, h]

/-- Reading a word and reducing modulo 2^w gives the word back. -/
@[simp] theorem ofInt_readBits (ty : IType) (x : BitVec ty.width) : BitVec.ofInt ty.width (readBits ty x) = x := by
  cases h : ty.signed
  · rw [readBits_unsigned h, BitVec.ofInt_natCast, BitVec.ofNat_toNat, BitVec.setWidth_eq]
  · rw [readBits_signed h, BitVec.ofInt_toInt]

/-- The model reads an operand as its low w bits by the type. -/
theorem intOf_eq_readBits (ty : IType) (n : Nat) : intOf ty n = readBits ty (BitVec.ofNat ty.width n) := by
  cases h : ty.signed
  · simp [intOf, readBits, h]
  · rw [readBits_signed h, toInt_eq_ite (width_pos ty), BitVec.toNat_ofNat]
    simp only [intOf, h, Bool.true_and, decide_eq_true_eq]

/-- The model's result is the w-bit word of the exact result, extended by the type. -/
theorem intBits_eq_extendBy (ty : IType) (z : Int) : intBits ty z = extendBy ty (BitVec.ofInt ty.width z) := by
  have hz : BitVec.ofNat ty.width (z % 2 ^ ty.width).toNat = BitVec.ofInt ty.width z := by
    apply BitVec.eq_of_toNat_eq
    rw [BitVec.toNat_ofInt, BitVec.toNat_ofNat, Nat.mod_eq_of_lt]
    · norm_cast
    · have := Int.emod_lt_of_pos z (b := 2 ^ ty.width) (by positivity)
      have := Int.emod_nonneg z (b := 2 ^ ty.width) (by positivity)
      zify
      omega
  rw [intBits, intOf_eq_readBits, hz]
  cases h : ty.signed
  · rw [readBits_unsigned h, BitVec.ofInt_natCast, extendBy, h]
    apply BitVec.eq_of_toNat_eq
    simp
  · rw [readBits_signed h, extendBy, h]
    rfl

section
variable (s : State) (f : AForm) (u : Nat)

theorem rdInt_eq_readBits (sp : Spec) : s.rdInt u sp f.ty = readBits f.ty (opBits s u f sp) := by
  rw [State.rdInt, intOf_eq_readBits, opBits, BitVec.ofNat_toNat]
@[simp] theorem intA_eq_readBits : s.intA f u = readBits f.ty (opBits s u f f.a) := rdInt_eq_readBits s f u f.a
@[simp] theorem intC_eq_readBits : s.intC f u = readBits f.ty (opBits s u f f.c) := rdInt_eq_readBits s f u f.c

/-- IMM fits the width of every type (R193). -/
theorem immInt_eq_readBits (ty : IType) (imm : BitVec 8) : immInt ty imm = readBits ty (immBits ty.width ty.signed imm) := by
  cases h : ty.signed
  · have := Nat.pow_le_pow_right (n := 2) (by omega) (eight_le_width ty)
    have := imm.isLt
    rw [readBits_unsigned h, immInt, immBits, h]
    simp only [Bool.false_eq_true, if_false, BitVec.toNat_setWidth]
    rw [Nat.mod_eq_of_lt (by omega)]
  · rw [readBits_signed h, immInt, immBits, h]
    simp [BitVec.toInt_signExtend_of_le (eight_le_width ty)]

@[simp] theorem intB_eq_readBits : s.intB f u = readBits f.ty (opB s u f) := by
  cases h : f.bi
  · simp [State.intB, opB, h, rdInt_eq_readBits]
  · simp [State.intB, opB, h, immInt_eq_readBits]

@[simp] theorem natA_eq_toNat : s.natA f u = (opBits s u f f.a).toNat := (BitVec.toNat_setWidth ..).symm
@[simp] theorem natB_eq_toNat : s.natB f u = (opB s u f).toNat := by
  rw [State.natB, intB_eq_readBits]
  conv => rhs; rw [← ofInt_readBits f.ty (opB s u f)]
  rw [BitVec.toNat_ofInt]
  norm_cast
@[simp] theorem shiftB_eq_opSh : s.shiftB f u = opSh s u f := by
  cases h : f.bi <;> simp [State.shiftB, opSh, h]

end

/-! The table of R195: each form's exact result, reduced modulo 2^w, is the operation on w-bit words. -/

section
variable {w : Nat}

theorem ofInt_sub (x y : Int) : BitVec.ofInt w (x - y) = BitVec.ofInt w x - BitVec.ofInt w y := by
  rw [Int.sub_eq_add_neg, BitVec.ofInt_add, BitVec.ofInt_neg, BitVec.sub_eq_add_neg]

/-- Reduction modulo 2^w, by numbers. -/
theorem ofInt_eq_of_emod {z : Int} {x : BitVec w} (h : z % 2 ^ w = x.toNat) : BitVec.ofInt w z = x := by
  apply BitVec.eq_of_toNat_eq
  rw [BitVec.toNat_ofInt]
  push_cast
  omega

theorem ofInt_neg_one : BitVec.ofInt w (-1) = BitVec.allOnes w := by rw [BitVec.ofInt_neg, ← BitVec.neg_one_eq_allOnes]; rfl

theorem ofInt_two_pow_sub_one : BitVec.ofInt w (2 ^ w - 1) = BitVec.allOnes w := by
  have htop : BitVec.ofInt w (2 ^ w) = 0#w := ofInt_eq_of_emod (by simp)
  rw [ofInt_sub, htop, BitVec.zero_sub, ← BitVec.ofInt_neg, ofInt_neg_one]

theorem natBit_eq_getLsbD (x : BitVec w) (i : Nat) : natBit x.toNat i = x.getLsbD i := by
  rw [natBit, BitVec.getLsbD, Nat.testBit_eq_decide_div_mod_eq]
  simp only [beq_eq_decide]

/-- The high half of a number of 2w bits: multiples of 2^(2w) do not reach it. -/
theorem ediv_emod_eq_of_emod_mul (z m : Int) (hm : 0 < m) : z / m % m = z % (m * m) / m % m := by
  have hz : z = z % (m * m) + m * (m * (z / (m * m))) := by rw [← mul_assoc, Int.emod_add_mul_ediv]
  conv_lhs => rw [hz, Int.add_mul_ediv_left _ _ hm.ne', Int.add_mul_emod_self_left]

/-- The floor over 2^w of a product is the high half of the product of 2w-bit words (R195). -/
theorem ofInt_ediv_eq_high (z : Int) : BitVec.ofInt w (z / 2 ^ w) = (BitVec.ofInt (2 * w) z >>> w).setWidth w := by
  apply ofInt_eq_of_emod
  have hz : (BitVec.ofInt (2 * w) z).toNat = z % (2 ^ w * 2 ^ w) := by
    rw [BitVec.toNat_ofInt, ← pow_add, ← two_mul]
    push_cast
    exact Int.toNat_of_nonneg (Int.emod_nonneg _ (by positivity))
  rw [BitVec.toNat_setWidth, BitVec.toNat_ushiftRight, Nat.shiftRight_eq_div_pow]
  push_cast
  rw [hz, ediv_emod_eq_of_emod_mul z (2 ^ w) (by positivity)]

theorem imulh_result (ty : IType) (a b : BitVec ty.width) :
    BitVec.ofInt ty.width (readBits ty a * readBits ty b / 2 ^ ty.width) = mulHigh ty.width ty.signed a b := by
  rw [ofInt_ediv_eq_high, BitVec.ofInt_mul, mulHigh]
  cases h : ty.signed
  · simp only [readBits_unsigned h, BitVec.ofInt_natCast, BitVec.ofNat_toNat, Bool.false_eq_true, if_false]
  · simp only [readBits_signed h, if_true, BitVec.signExtend]

theorem imin_result (ty : IType) (a b : BitVec ty.width) :
    BitVec.ofInt ty.width (min (readBits ty a) (readBits ty b)) = if (if ty.signed then a.sle b else a.ule b) then a else b := by
  rw [min_def, apply_ite (BitVec.ofInt ty.width), ofInt_readBits, ofInt_readBits]
  cases h : ty.signed <;> simp [readBits, h, BitVec.sle_eq_decide, BitVec.ule_eq_decide]

theorem imax_result (ty : IType) (a b : BitVec ty.width) :
    BitVec.ofInt ty.width (max (readBits ty a) (readBits ty b)) = if (if ty.signed then a.sle b else a.ule b) then b else a := by
  rw [max_def, apply_ite (BitVec.ofInt ty.width), ofInt_readBits, ofInt_readBits]
  cases h : ty.signed <;> simp [readBits, h, BitVec.sle_eq_decide, BitVec.ule_eq_decide]

theorem iabs_result (ty : IType) (a : BitVec ty.width) :
    BitVec.ofInt ty.width (readBits ty a).natAbs = if ty.signed && a.msb then -a else a := by
  cases h : ty.signed
  · simp [readBits, h]
  · rw [readBits_signed h, BitVec.msb_eq_toInt, Bool.true_and]
    by_cases ha : a.toInt < 0
    · rw [Int.ofNat_natAbs_of_nonpos (by omega), BitVec.ofInt_neg]
      simp [ha]
    · rw [Int.natAbs_of_nonneg (by omega)]
      simp [ha]

theorem inot_result (a : BitVec w) : BitVec.ofInt w (2 ^ w - 1 - (a.toNat : Int)) = ~~~a := by
  rw [ofInt_sub, ofInt_two_pow_sub_one, BitVec.ofInt_natCast, BitVec.ofNat_toNat, BitVec.setWidth_eq, BitVec.allOnes_sub_eq_not]

theorem shl_result (a : BitVec w) (n : Nat) :
    BitVec.ofInt w (if n < w then (a.toNat : Int) * 2 ^ n else 0) = if n < w then a <<< n else 0 := by
  split
  · exact ofInt_eq_of_emod (by simp [Nat.shiftLeft_eq])
  · rfl

theorem shr_result (a : BitVec w) (n : Nat) :
    BitVec.ofInt w (if n < w then ((a.toNat / 2 ^ n : Nat) : Int) else 0) = if n < w then a >>> n else 0 := by
  split
  · rw [BitVec.ofInt_natCast, ← Nat.shiftRight_eq_div_pow, ← BitVec.toNat_ushiftRight, BitVec.ofNat_toNat, BitVec.setWidth_eq]
  · rfl

theorem signedOf_toNat (hw : 0 < w) (a : BitVec w) : signedOf w a.toNat = a.toInt := (toInt_eq_ite hw a).symm

/-- SAR: the floor over 2^n of the signed value is the arithmetic shift, and from a count of w up the sign fills the word (R195). -/
theorem sar_result (a : BitVec w) (n : Nat) :
    BitVec.ofInt w (if n < w then a.toInt / 2 ^ n else if a.toInt < 0 then -1 else 0)
      = if n < w then a.sshiftRight n else if a.msb then BitVec.allOnes w else 0 := by
  have hshift : BitVec.ofInt w (a.toInt / 2 ^ n) = a.sshiftRight n := by
    rw [← BitVec.ofInt_toInt (x := a.sshiftRight n), BitVec.toInt_sshiftRight, Int.shiftRight_eq_div_pow]
    norm_cast
  rw [apply_ite (BitVec.ofInt w), apply_ite (BitVec.ofInt w), hshift, ofInt_neg_one, BitVec.msb_eq_toInt]
  simp

/-- The two parts of a rotation do not overlap, so that their sum is their union. -/
theorem rotl_result (hw : 0 < w) (a : BitVec w) (n : Nat) : BitVec.ofNat w (rotl w a.toNat n) = a.rotateLeft (n % w) := by
  have hr : n % w < w := Nat.mod_lt _ hw
  generalize hrn : n % w = r at hr
  have hpow : 2 ^ w = 2 ^ r * 2 ^ (w - r) := by rw [← pow_add, Nat.add_sub_cancel' hr.le]
  have hlow : a.toNat / 2 ^ (w - r) < 2 ^ r := Nat.div_lt_of_lt_mul (by rw [Nat.mul_comm, ← hpow]; exact a.isLt)
  have hrot : rotl w a.toNat n = (a.rotateLeft r).toNat := by
    rw [BitVec.toNat_rotateLeft, Nat.mod_eq_of_lt hr, Nat.shiftLeft_eq, Nat.shiftRight_eq_div_pow, rotl, hrn, Nat.mul_comm a.toNat, hpow,
      Nat.mul_mod_mul_left, Nat.mul_div_mul_left _ _ (by positivity), Nat.two_pow_add_eq_or_of_lt hlow]
  rw [hrot, BitVec.ofNat_toNat, BitVec.setWidth_eq]

theorem popc_eq_countP (x : BitVec w) (n : Nat) : popc x.toNat n = (List.range n).countP fun i => x.getLsbD i := by
  induction n with
  | zero => rfl
  | succ n ih =>
    rw [popc, ih, natBit_eq_getLsbD, List.range_succ, List.countP_append]
    cases h : x.getLsbD n <;> simp [b2n, h]

/-- The bits above the highest 1 bit are passed over, and that bit stops the count. -/
theorem length_leading_zeros (a : BitVec w) (ha : a.toNat ≠ 0) :
    ((List.range w).takeWhile fun i => !a.getLsbD (w - 1 - i)).length = w - 1 - Nat.log2 a.toNat := by
  have hlog : Nat.log2 a.toNat < w := (Nat.log2_lt ha).2 a.isLt
  have hfirst : (List.range w).findIdx (fun i => !!a.getLsbD (w - 1 - i)) = w - 1 - Nat.log2 a.toNat := by
    rw [List.findIdx_eq (by simp; omega)]
    refine ⟨?_, fun j hj => ?_⟩
    · rw [List.getElem_range, Bool.not_not, show w - 1 - (w - 1 - Nat.log2 a.toNat) = Nat.log2 a.toNat by omega]
      exact Nat.testBit_log2 ha
    · rw [List.getElem_range, Bool.not_not]
      exact Nat.testBit_lt_two_pow ((Nat.log2_lt ha).1 (by omega))
  rw [List.takeWhile_eq_take_findIdx_not, hfirst, List.length_take, List.length_range]
  omega

theorem clz_result (a : BitVec w) : BitVec.ofInt w (if a.toNat = 0 then (w : Int) else (w : Int) - 1 - Nat.log2 a.toNat)
    = BitVec.ofNat w ((List.range w).takeWhile fun i => !a.getLsbD (w - 1 - i)).length := by
  split
  · next h =>
    obtain rfl : a = 0#w := BitVec.eq_of_toNat_eq (by simpa using h)
    rw [List.takeWhile_eq_self_iff.2 (by simp), List.length_range, BitVec.ofInt_natCast]
  · next h =>
    have hlog : Nat.log2 a.toNat < w := (Nat.log2_lt h).2 a.isLt
    rw [length_leading_zeros a h, ← BitVec.ofInt_natCast]
    congr 1
    omega

/-- One bit at a position below w. -/
theorem getLsbD_bit (b : Bool) (k j : Nat) (hj : j < w) : (BitVec.ofNat w (b2n b * 2 ^ k)).getLsbD j = (b && decide (k = j)) := by
  rw [BitVec.getLsbD_ofNat, decide_eq_true hj, Bool.true_and]
  cases b <;> simp [b2n, Nat.testBit_two_pow]

/-- The reversal after n steps has the low n bits of x at its top, and 0 below. -/
theorem getLsbD_brev (x n : Nat) (hn : n ≤ w) (j : Nat) (hj : j < w) :
    (BitVec.ofNat w (brev w x n)).getLsbD j = (decide (w - n ≤ j) && natBit x (w - 1 - j)) := by
  induction n generalizing j with
  | zero => simp [brev]; omega
  | succ n ih =>
    rw [brev, BitVec.ofNat_add, BitVec.add_eq_or_of_and_eq_zero]
    · rw [BitVec.getLsbD_or, ih (by omega) j hj, getLsbD_bit _ _ _ hj]
      by_cases hk : w - 1 - n = j
      · have hn' : w - 1 - j = n := by omega
        have hlow : ¬ w - n ≤ j := by omega
        have hmem : w - (n + 1) ≤ j := by omega
        simp [hk, hn', hlow, hmem]
      · have hiff : w - (n + 1) ≤ j ↔ w - n ≤ j := by omega
        simp [hk, hiff]
    · apply BitVec.eq_of_getLsbD_eq
      intro i hi
      rw [BitVec.getLsbD_and, ih (by omega) i hi, getLsbD_bit _ _ _ hi, BitVec.getLsbD_zero]
      by_cases hk : w - 1 - n = i
      · have hlow : ¬ w - n ≤ i := by omega
        simp [hlow]
      · simp [hk]

theorem brev_result (a : BitVec w) : BitVec.ofNat w (brev w a.toNat w) = a.reverse := by
  apply BitVec.eq_of_getLsbD_eq
  intro j hj
  rw [getLsbD_brev _ _ le_rfl _ hj, BitVec.getLsbD_reverse, BitVec.getMsbD_eq_getLsbD, natBit_eq_getLsbD]
  simp [hj]

end

/-! Integer forms (R192 to R195). -/

/-- An integer form completes: each thread's destination holds its exact result modulo 2^w, extended by the type, and nothing else changes (R192). -/
theorem intForm_completes {s : State} {f : AForm} (hi : Issues s f.mu) (hd : f.dst.dst f.mu f.ty.wide = true) (res : State → Nat → Int) :
    ∃ t, s.intForm f res = .next t
      ∧ (∀ u ∈ runsIn s f.mu f.grd, holds t f.dst u f.ty.wide (extendBy f.ty (BitVec.ofInt f.ty.width (res s u))))
      ∧ RegFrame s t fun r => ∃ u ∈ runsIn s f.mu f.grd, r ∈ dstRegs f.dst u f.ty.wide := by
  simp only [← intBits_eq_extendBy]
  exact each_wrReg hi f.grd hd fun s u => intBits f.ty (res s u)

/-- A well-formed integer form names a data destination of its type's width. -/
theorem dst_of_wf {i : Instr} {f : AForm} (hf : intFields i = some f) (hwf : i.wf = true) : f.dst.dst f.mu f.ty.wide = true := by
  cases i <;> simp only [intFields, Option.some.injEq, reduceCtorEq] at hf <;> subst hf <;>
    simp only [Instr.wf, AForm.int2, AForm.int1, Bool.and_eq_true] at hwf <;> tauto

/-- What an integer form computes: a result in each thread whose w-bit word the table of R195 gives. -/
theorem exec_intForm (i : Instr) (f : AForm) (hf : intFields i = some f) :
    ∃ res : State → Nat → Int, (∀ s, exec i s = s.intForm f res) ∧ ∀ s u, BitVec.ofInt f.ty.width (res s u)
      = r195 f.ty.width f.ty.signed f.imm (opBits s u f f.a) (opB s u f) (opBits s u f f.c) (opSh s u f) i := by
  cases i <;> simp only [intFields, Option.some.injEq, reduceCtorEq] at hf <;> subst hf <;>
    refine ⟨_, fun _ => rfl, fun s u => ?_⟩
  case iadd f => simp [r195, BitVec.ofInt_add]
  case isub f => simp [r195, ofInt_sub]
  case imul f => simp [r195, BitVec.ofInt_mul]
  case imulh f => simp [r195, imulh_result]
  case imad f => simp [r195, BitVec.ofInt_add, BitVec.ofInt_mul]
  case imin f => simp [r195, imin_result]
  case imax f => simp [r195, imax_result]
  case iabs f => simp only [r195, intA_eq_readBits, iabs_result]
  case ineg f => simp [r195, BitVec.ofInt_neg]
  case iand f => simp [r195]
  case ior f => simp [r195]
  case ixor f => simp [r195]
  case inot f => simp [r195, inot_result]
  case shl f => simp only [r195, natA_eq_toNat, shiftB_eq_opSh, shl_result]
  case shr f => simp only [r195, natA_eq_toNat, shiftB_eq_opSh, shr_result]
  case sar f => simp only [r195, natA_eq_toNat, shiftB_eq_opSh, signedOf_toNat (width_pos f.ty), sar_result]
  case rotl f => simp [r195, rotl_result (width_pos f.ty)]
  case popc f => simp [r195, popc_eq_countP]
  case clz f => simp only [r195, natA_eq_toNat, clz_result]
  case brev f => simp [r195, brev_result]
  case mov f => simp [r195]
  case movi f => simp [r195, immInt_eq_readBits]

/-- Settles O1: the table's operations on w-bit words are the model's exact results modulo 2^w, and the driver of integer forms writes them and nothing else. -/
theorem integerFormsGiveTheirResults : Obligations.IntegerFormsGiveTheirResults := by
  unfold Obligations.IntegerFormsGiveTheirResults
  intro i f s hf hwf hi
  obtain ⟨res, hexec, hres⟩ := exec_intForm i f hf
  rw [hexec]
  simp only [← hres]
  exact intForm_completes hi (dst_of_wf hf hwf) res

/-! Division (R197). -/

theorem readBits_eq_zero_iff (ty : IType) (x : BitVec ty.width) : readBits ty x = 0 ↔ x = 0 := by
  constructor
  · intro h
    rw [← ofInt_readBits ty x, h]
    rfl
  · rintro rfl
    simp [readBits]

theorem intB_beq_zero (s : State) (f : AForm) (u : Nat) : (s.intB f u == 0) = (opB s u f == 0) := by
  rw [intB_eq_readBits, Bool.eq_iff_iff, beq_iff_eq, beq_iff_eq, readBits_eq_zero_iff]

/-- IDIV: truncating division; the most negative number over −1 wraps to itself, as the word operation does. -/
theorem idiv_result (ty : IType) (a b : BitVec ty.width) :
    BitVec.ofInt ty.width (idiv ty (readBits ty a) (readBits ty b))
      = if b = 0 then BitVec.allOnes ty.width else if ty.signed then a.sdiv b else a.udiv b := by
  simp only [idiv, readBits_eq_zero_iff]
  split
  · split
    · exact ofInt_neg_one
    · exact ofInt_two_pow_sub_one
  · cases h : ty.signed
    · rw [readBits_unsigned h, readBits_unsigned h, ← Int.ofNat_tdiv, ← BitVec.toNat_udiv, BitVec.ofInt_natCast, BitVec.ofNat_toNat, BitVec.setWidth_eq]
      rfl
    · rw [readBits_signed h, readBits_signed h, if_pos rfl]
      apply BitVec.eq_of_toInt_eq
      rw [BitVec.toInt_ofInt, BitVec.toInt_sdiv]

theorem irem_result (ty : IType) (a b : BitVec ty.width) :
    BitVec.ofInt ty.width (irem (readBits ty a) (readBits ty b))
      = if b = 0 then a else if ty.signed then a.srem b else a.umod b := by
  simp only [irem, readBits_eq_zero_iff]
  split
  · exact ofInt_readBits ty a
  · cases h : ty.signed
    · rw [readBits_unsigned h, readBits_unsigned h, ← Int.ofNat_tmod, ← BitVec.toNat_umod, BitVec.ofInt_natCast, BitVec.ofNat_toNat, BitVec.setWidth_eq]
      rfl
    · rw [readBits_signed h, readBits_signed h, if_pos rfl, ← BitVec.toInt_srem, BitVec.ofInt_toInt]

/-- A .s form is executed by a path of a warp (R163). -/
theorem issues_uniform {s : State} (h : Issues s true) : ∃ k w e, s.cur.agent = .warp k w e := by
  simpa [Issues] using h

/-- Some element meets p exactly when p keeps one. -/
theorem not_isEmpty_filter (p : Nat → Bool) (ts : List Nat) : (!(ts.filter p).isEmpty) = ts.any p := by
  rw [Bool.eq_iff_iff]
  simp [List.filter_eq_nil_iff]

/-- A division traps in the threads whose divisor is 0 when it has .dz and there is one, and otherwise is an integer form. -/
theorem divForm_eq {s : State} {f : AForm} (hi : Issues s f.mu) (res : Int → Int → Int) :
    s.divForm f res = if f.x20 && (runsIn s f.mu f.grd).any fun u => opB s u f == 0 then
        s.trapT 0x13 0 (if f.mu then s.pathThreads else (s.active f.grd).filter fun u => opB s u f == 0)
      else s.intForm f fun s u => res (s.intA f u) (s.intB f u) := by
  have hgetD (c : Bool) (x y : Out) : (if c then some x else none).getD y = if c then x else y := by cases c <;> rfl
  cases hmu : f.mu
  · simp only [State.divForm, hmu, runsIn, not_isEmpty_filter, hgetD, Bool.false_eq_true, if_false, intB_beq_zero]
  · obtain ⟨k, w, e, hw⟩ := issues_uniform (hmu ▸ hi)
    simp only [State.divForm, hmu, runsIn, not_isEmpty_filter, hgetD, if_true, intB_beq_zero, State.inWarp_warp s k w e _ hw]

/-- What the two divisions compute: their model's results, and the w-bit words of R197 that these are. -/
theorem exec_divForm {i : Instr} {f : AForm} (hd : i = .idiv f ∨ i = .irem f) :
    ∃ res : Int → Int → Int, (∀ s, exec i s = s.divForm f res) ∧ ∀ a b : BitVec f.ty.width,
      BitVec.ofInt f.ty.width (res (readBits f.ty a) (readBits f.ty b)) =
        if i = .idiv f then if b = 0 then BitVec.allOnes f.ty.width else if f.ty.signed then a.sdiv b else a.udiv b
        else if b = 0 then a else if f.ty.signed then a.srem b else a.umod b := by
  rcases hd with rfl | rfl
  · exact ⟨_, fun _ => rfl, fun a b => by rw [if_pos rfl, idiv_result]⟩
  · exact ⟨_, fun _ => rfl, fun a b => by rw [if_neg (by simp), irem_result]⟩

theorem dst_of_wf_division {i : Instr} {f : AForm} (hd : i = .idiv f ∨ i = .irem f) (hwf : i.wf = true) : f.dst.dst f.mu f.ty.wide = true := by
  rcases hd with rfl | rfl <;> simp only [Instr.wf, Bool.and_eq_true] at hwf <;> tauto

/-- Settles O2: without a trap a division is an integer form whose results are the word divisions of R197; with .dz a zero divisor traps before any write. -/
theorem divisionAndItsTrap : Obligations.DivisionAndItsTrap := by
  unfold Obligations.DivisionAndItsTrap
  refine ⟨fun i f s hd hwf hi hz => ?_, fun i f s hd hi hx hz => ?_⟩
  · obtain ⟨res, hexec, hres⟩ := exec_divForm hd
    have hnone : (f.x20 && (runsIn s f.mu f.grd).any fun u => opB s u f == 0) = false := by
      rcases hz with hx | hz
      · rw [hx, Bool.false_and]
      · simpa using fun _ => hz
    rw [hexec, divForm_eq hi, hnone, if_neg Bool.false_ne_true]
    simp only [← hres, ← intA_eq_readBits, ← intB_eq_readBits]
    exact intForm_completes hi (dst_of_wf_division hd hwf) _
  · obtain ⟨res, hexec, -⟩ := exec_divForm hd
    rw [hexec, divForm_eq hi, hx, hz, Bool.true_and, if_pos rfl, State.trapT, apply_ite maskOf]
    rfl

end Sys2Proof.Claims
